-- ==== Sys2Proof/Word.lean ====
section
/-! DEFINITION. Word types of the CL9 and their plainest names (R1: bit 0 is the least significant bit). -/

namespace Sys2Proof

/-- A 64-bit scalar value (R65). -/
abbrev W64 := BitVec 64

/-- A 32-bit parcel (R32). -/
abbrev Parcel := BitVec 32

/-- A byte of memory. -/
abbrev Byte := BitVec 8

/-- The six bits that name a scalar register s0 to s63 (R42, R43). -/
abbrev Reg := BitVec 6

/-- The three bits that name a tag t0 to t7. -/
abbrev Tag := BitVec 3

/-- A sparse table: keys strictly rising, no entry equal to the value an unlisted key reads as. -/
abbrev SMap (α : Type) := List (Nat × α)

end Sys2Proof
end

