-- ==== Sys2Proof/Syntax.lean ====
section
/-! DEFINITION. The instructions and events of the CL9: one constructor of `Instr` per row of the opcode table.
The 221 Vaevo instructions carry the fields of their form (R42 to R45); the 63 rows that are steps of the part
(`DEVICE_RESET`, `HOST_WRITE`, ...) carry what the outside world or an engine supplies,
and take the agent they concern (a core, a hart, a queue, an entry number) from `State.who`. -/

namespace Sys2Proof

/-- A mask operand `?tk` or `?!tk` (R48, R111). -/
structure Mask where
  en : Bool
  tag : Tag
  compl : Bool
  deriving DecidableEq, Repr

/-- The absent mask: every bit zero. -/
def Mask.none : Mask := ⟨false, 0, false⟩

/-- The S form (R43), less its length code and op8. The L form (R45) has the same lower 64 bits. -/
structure SForm where
  d : Reg
  a : Reg
  b : Reg
  pa : Bool
  pb : Bool
  so : BitVec 2
  ext : BitVec 32
  deriving DecidableEq, Repr

/-- The V form (R44), less its length code, op8 and spare bit. -/
structure VForm where
  D : BitVec 15
  A : BitVec 15
  B : BitVec 15
  pa : Bool
  pb : Bool
  ord : Bool
  mask : BitVec 4
  type : BitVec 5
  fn4 : BitVec 4
  x : BitVec 24
  deriving DecidableEq, Repr

/-- How the two checks of a matrix instruction came out (R207): a rerun follows a failed check. -/
inductive MatrixCheck where
  | agree
  | rerunAgrees
  | rerunFails
  deriving DecidableEq, Repr

/-- What a peer asks of this device over a scale-up link (R389). -/
inductive PeerOp where
  /-- A non-posted read of `size` bytes, up to a line. -/
  | read (size : Nat)
  /-- A posted write of `size` bytes, up to a line. -/
  | write (size : Nat) (value : BitVec 512)
  /-- A PCIe AtomicOp or a vendor-defined message: function code of R57, operand and, for ACAS, new value. -/
  | atomic (fn : Nat) (size : Nat) (v : W64) (v' : W64)
  /-- A full/empty request: 0 LDF, 1 LDFE, 2 STE, 3 STF (R253). -/
  | fullEmpty (kind : Nat) (size : Nat) (v : W64)
  /-- FESET of `words` words: marked full or empty (R253, R268). -/
  | mark (words : Nat) (full : Bool)
  deriving DecidableEq, Repr

/-- What the boot ROM finds at bring-up (R400, R401, R392): whether every image verified, the image digests
extended into MEAS0 to MEAS7, whether the retirement table's signature verified, and the whole GiB on the
four CXL ports. -/
structure BootInput where
  imagesOk : Bool
  meas : List (BitVec 512)
  signatureOk : Bool
  cxlGiB : List Nat
  deriving DecidableEq, Repr

/-- One constructor per row of spec/opcode_table.json: the instructions, then the events. -/
inductive Instr where
  /-- NOP (R50). Does nothing; its only encoding is the all-zero parcel. -/
  | nop
  /-- ADDI (R75). sd := sa + sign-extended imm12. -/
  | addi (d a : Reg) (imm : BitVec 12)
  /-- ANDI (R75). sd := sa AND imm. -/
  | andi (d a : Reg) (imm : BitVec 12)
  /-- ORI (R75). sd := sa OR imm. -/
  | ori (d a : Reg) (imm : BitVec 12)
  /-- XORI (R75). sd := sa XOR imm. -/
  | xori (d a : Reg) (imm : BitVec 12)
  /-- SLLI (R75). sd := sa shifted left by n. -/
  | slli (d a : Reg) (n : BitVec 6)
  /-- SRLI (R75). sd := sa shifted right by n, with zeros in. -/
  | srli (d a : Reg) (n : BitVec 6)
  /-- SRAI (R75). sd := sa shifted right by n, with copies of bit 63 in. -/
  | srai (d a : Reg) (n : BitVec 6)
  /-- SLTI (R75). sd := 1 if sa < imm as signed numbers, else 0. -/
  | slti (d a : Reg) (imm : BitVec 12)
  /-- SLTIN (R75). sd := 1 if sa < imm as natural numbers, else 0. -/
  | sltin (d a : Reg) (imm : BitVec 12)
  /-- MOVI (R75). sd := sign-extended imm12. -/
  | movi (d : Reg) (imm : BitVec 12)
  /-- ADD (R76). sd := sa + sb. -/
  | add (d a b : Reg)
  /-- SUB (R76). sd := sa − sb. -/
  | sub (d a b : Reg)
  /-- AND (R76). sd := sa AND sb. -/
  | and (d a b : Reg)
  /-- OR (R76). sd := sa OR sb. -/
  | or (d a b : Reg)
  /-- XOR (R76). sd := sa XOR sb. -/
  | xor (d a b : Reg)
  /-- ANDN (R76). sd := sa AND NOT sb. -/
  | andn (d a b : Reg)
  /-- SLL (R76). sd := sa shifted left by sb[5:0]. -/
  | sll (d a b : Reg)
  /-- SRL (R76). sd := sa shifted right by sb[5:0], with zeros in. -/
  | srl (d a b : Reg)
  /-- SRA (R76). sd := sa shifted right arithmetically by sb[5:0]. -/
  | sra (d a b : Reg)
  /-- SLT (R76). sd := 1 if sa < sb as signed numbers, else 0. -/
  | slt (d a b : Reg)
  /-- SLTN (R76). sd := 1 if sa < sb as natural numbers, else 0. -/
  | sltn (d a b : Reg)
  /-- MIN (R76). sd := the signed minimum of sa and sb. -/
  | min (d a b : Reg)
  /-- MAX (R76). sd := the signed maximum of sa and sb. -/
  | max (d a b : Reg)
  /-- MINN (R76). sd := the natural minimum of sa and sb. -/
  | minn (d a b : Reg)
  /-- MAXN (R76). sd := the natural maximum of sa and sb. -/
  | maxn (d a b : Reg)
  /-- MUL (R76). sd := the low 64 bits of sa × sb. -/
  | mul (d a b : Reg)
  /-- MULH (R76). sd := the high 64 bits of the signed product. -/
  | mulh (d a b : Reg)
  /-- MULHN (R76). sd := the high 64 bits of the natural product. -/
  | mulhn (d a b : Reg)
  /-- DIV (R77). sd := the signed quotient rounded toward zero; never traps. -/
  | div (d a b : Reg)
  /-- DIVN (R77). sd := the natural quotient; never traps. -/
  | divn (d a b : Reg)
  /-- REM (R77). sd := the signed remainder, with the sign of sa. -/
  | rem (d a b : Reg)
  /-- REMN (R77). sd := the natural remainder. -/
  | remn (d a b : Reg)
  /-- CLZ (R76). sd := the count of leading zeros of sa. -/
  | clz (d a : Reg)
  /-- CTZ (R76). sd := the count of trailing zeros of sa. -/
  | ctz (d a : Reg)
  /-- POPC (R76). sd := the count of ones in sa. -/
  | popc (d a : Reg)
  /-- MOV (R76). sd := sa. -/
  | mov (d a : Reg)
  /-- LD (R80). Relaxed 64-bit scalar load from sa + imm12. -/
  | ld (d a : Reg) (imm : BitVec 12)
  /-- ST (R80). Relaxed 64-bit scalar store of sd to sa + imm12. -/
  | st (d a : Reg) (imm : BitVec 12)
  /-- BEQZ (R84). Branch to cp + 4·offset if sa = 0. -/
  | beqz (a : Reg) (off : BitVec 18)
  /-- BNEZ (R84). Branch to cp + 4·offset if sa ≠ 0. -/
  | bnez (a : Reg) (off : BitVec 18)
  /-- J (R84). Jump to cp + 4·offset, with a 24-bit offset. -/
  | j (off : BitVec 24)
  /-- JAL (R84). Jump to cp + 4·offset and write the link to s63. -/
  | jal (off : BitVec 24)
  /-- JR (R84). Jump to sa + imm12. -/
  | jr (a : Reg) (imm : BitVec 12)
  /-- JALR (R84). Jump to sa + imm12 and write the link to s63. -/
  | jalr (a : Reg) (imm : BitVec 12)
  /-- LOOP (R88). Sets up hardware loop level k with count sa, or skips the body when the count is 0. -/
  | loop (k : Bool) (a : Reg) (off : BitVec 12)
  /-- CRD (R69). Reads a control register into sd. -/
  | crd (d : Reg) (r : BitVec 12)
  /-- CWR (R69). Writes sa to a control register, field by field by access code. -/
  | cwr (a : Reg) (r : BitVec 12)
  /-- SETVL (R105). VL := min(sa, VLMAX); VSTART := 0; sd := VL. -/
  | setvl (d a : Reg)
  /-- TAND (R112). td := ta AND tb in each acted element. -/
  | tand (td ta tb : Tag) (m : Mask)
  /-- TOR (R112). td := ta OR tb. -/
  | tor (td ta tb : Tag) (m : Mask)
  /-- TXOR (R112). td := ta XOR tb. -/
  | txor (td ta tb : Tag) (m : Mask)
  /-- TANDN (R112). td := ta AND NOT tb. -/
  | tandn (td ta tb : Tag) (m : Mask)
  /-- TNOT (R112). td := NOT ta. -/
  | tnot (td ta : Tag) (m : Mask)
  /-- TSET (R112). td := 1 in each acted element. -/
  | tset (td : Tag) (m : Mask)
  /-- TCLR (R112). td := 0 in each acted element. -/
  | tclr (td : Tag) (m : Mask)
  /-- TMOV (R112). td := ta. -/
  | tmov (td ta : Tag) (m : Mask)
  /-- TCNT (R113). sd := the number of active elements with ta set. -/
  | tcnt (d : Reg) (ta : Tag) (m : Mask)
  /-- TANY (R113). sd := 1 if any active element has ta set, else 0. -/
  | tany (d : Reg) (ta : Tag) (m : Mask)
  /-- TFIRST (R113). sd := the least active index with ta set, or VL if there is none. -/
  | tfirst (d : Reg) (ta : Tag) (m : Mask)
  /-- TPICK (R114). td keeps the sa lowest-indexed set elements of ta. -/
  | tpick (td ta : Tag) (a : Reg) (m : Mask)
  /-- BRK (R370). Raises BREAK (user class), with TVAL = imm. -/
  | brk (imm : BitVec 12)
  /-- SVC (R370). Raises SVC (privileged class), with TVAL = imm. -/
  | svc (imm : BitVec 12)
  /-- FENCE (R242). Orders the earlier-set accesses before the later-set accesses at the given scope. -/
  | fence (imm : BitVec 12)
  /-- EXIT (R371). Waits for the hart's accesses to drain, then ends the hart. -/
  | exit
  /-- EXIT_FAIL (R371). Privileged only: ends the launch with a failure status. -/
  | exitFail
  /-- YIELD (R362). The hart becomes the youngest ready hart and lets a ready sibling issue next. -/
  | yield
  /-- URET (R369). Returns from the user handler to TPC and TCI. -/
  | uret
  /-- ERET (R369). Returns from the privileged handler to PTPC and PTCI, restoring the view. -/
  | eret
  /-- ADDW (R78). sd := sa + sext(ext). -/
  | addw (o : SForm)
  /-- MOVW (R78). sd := sext(ext). -/
  | movw (o : SForm)
  /-- MOVHI (R78). sd := concat(ext, sa[31:0]). -/
  | movhi (o : SForm)
  /-- LDS (R81). Sized scalar load with order and scope. -/
  | lds (o : SForm)
  /-- STS (R81). Sized scalar store with order and scope. -/
  | sts (o : SForm)
  /-- BC (R85). Conditional branch comparing sa with sb. -/
  | bc (o : SForm)
  /-- JL (R85). Jump with a 32-bit offset, writing the link to s63. -/
  | jl (o : SForm)
  /-- SEL (R78). sd := sa if sc ≠ 0, else sb. -/
  | sel (o : SForm)
  /-- BEXT (R78). Extracts a bit field of sa, zero- or sign-extended. -/
  | bext (o : SForm)
  /-- BINS (R78). Inserts sb's low bits into a bit field of sa. -/
  | bins (o : SForm)
  /-- LPSET (R91). Restores the registers of loop level k. -/
  | lpset (o : SForm)
  /-- MOVL (R78). sd := the 64-bit constant K. -/
  | movl (o : SForm) (lit : BitVec 32)
  /-- ADDL (R78). sd := sa + K. -/
  | addl (o : SForm) (lit : BitVec 32)
  /-- ANDL (R78). sd := sa AND K. -/
  | andl (o : SForm) (lit : BitVec 32)
  /-- ORL (R78). sd := sa OR K. -/
  | orl (o : SForm) (lit : BitVec 32)
  /-- XORL (R78). sd := sa XOR K. -/
  | xorl (o : SForm) (lit : BitVec 32)
  /-- BCL (R85). Conditional branch comparing sa with a 32-bit literal. -/
  | bcl (o : SForm) (lit : BitVec 32)
  /-- LOOPL (R88). Sets up loop level k with a literal count. -/
  | loopl (o : SForm) (lit : BitVec 32)
  /-- ASRCH (R107). Masked key search of field F, combined into tag td. -/
  | asrch (o : SForm)
  /-- AWR (R108). Tagged write of field F, with an optional full/empty action. -/
  | awr (o : SForm)
  /-- ASRCHL (R107). Search of field F against a literal key. -/
  | asrchl (o : SForm)
  /-- AWRL (R108). Tagged write of a literal value to field F. -/
  | awrl (o : SForm)
  /-- TSHUP (R110). Shifts a tag up by sa elements. -/
  | tshup (o : SForm)
  /-- TSHDN (R110). Shifts a tag down by sa elements. -/
  | tshdn (o : SForm)
  /-- AMCODE_RUN (R117). Runs a user microcode routine of passes. -/
  | amcodeRun (o : SForm)
  /-- AMCODE_LOAD (R118). Loads microwords into user microcode entries. -/
  | amcodeLoad (o : SForm)
  /-- VADD (R137). Associative add. -/
  | vadd (v : VForm)
  /-- VSUB (R137). Associative subtract. -/
  | vsub (v : VForm)
  /-- VADDS (R137). Saturating associative add. -/
  | vadds (v : VForm)
  /-- VSUBS (R137). Saturating associative subtract. -/
  | vsubs (v : VForm)
  /-- VMUL (R138). Associative multiply. -/
  | vmul (v : VForm)
  /-- VMULH (R138). Widening multiply into high and low fields D and C. -/
  | vmulh (v : VForm)
  /-- VMAC (R138). Multiply-accumulate into D. -/
  | vmac (v : VForm)
  /-- VNEG (R139). Negate. -/
  | vneg (v : VForm)
  /-- VABS (R139). Absolute value. -/
  | vabs (v : VForm)
  /-- VABSD (R139). Absolute difference. -/
  | vabsd (v : VForm)
  /-- VMIN (R139). Elementwise minimum. -/
  | vmin (v : VForm)
  /-- VMAX (R139). Elementwise maximum. -/
  | vmax (v : VForm)
  /-- VAND (R140). Bitwise AND. -/
  | vand (v : VForm)
  /-- VOR (R140). Bitwise OR. -/
  | vor (v : VForm)
  /-- VXOR (R140). Bitwise XOR. -/
  | vxor (v : VForm)
  /-- VNOT (R140). Bitwise NOT. -/
  | vnot (v : VForm)
  /-- VSHL (R140). Shift left, optionally saturating. -/
  | vshl (v : VForm)
  /-- VSHR (R140). Logical shift right. -/
  | vshr (v : VForm)
  /-- VSRA (R140). Arithmetic shift right. -/
  | vsra (v : VForm)
  /-- VCMP (R141). Compare, writing a tag. -/
  | vcmp (v : VForm)
  /-- VSEL (R141). Select A or B by tag. -/
  | vsel (v : VForm)
  /-- VMOV (R141). Copy a field or a broadcast value. -/
  | vmov (v : VForm)
  /-- VCVT (R143). Associative format conversion. -/
  | vcvt (v : VForm)
  /-- VPOPC (R142). Population count of A. -/
  | vpopc (v : VForm)
  /-- VDIV (R142). Divide, or remainder with .rem. -/
  | vdiv (v : VForm)
  /-- VMULL (R138). Exact widening multiply. -/
  | vmull (v : VForm)
  /-- VBFPQ (R127). Quantises blocks to block floating point. -/
  | vbfpq (v : VForm)
  /-- VSCALE (R145). Adjusts the block exponents. -/
  | vscale (v : VForm)
  /-- VRSUM (R153). Sum reduction into sd. -/
  | vrsum (v : VForm)
  /-- VRMIN (R154). Minimum reduction, marking the winners in tw. -/
  | vrmin (v : VForm)
  /-- VRMAX (R154). Maximum reduction, marking the winners in tw. -/
  | vrmax (v : VForm)
  /-- VSCAN (R156). Running sum, optionally exclusive or segmented. -/
  | vscan (v : VForm)
  /-- VTOPK (R157). Selects the k best keys into td, with the boundary set in tc. -/
  | vtopk (v : VForm)
  /-- VSIMH (R158). Hamming similarity or distance to a broadcast query. -/
  | vsimh (v : VForm)
  /-- VSIMD (R159). Packed dot product with a broadcast query. -/
  | vsimd (v : VForm)
  /-- VCBOUND (R334). Score upper bound of each page from its bounds entry. -/
  | vcbound (v : VForm)
  /-- VCWALK (R332). Cellar walk for each element. -/
  | vcwalk (v : VForm)
  /-- VCDIRTY (R345). Reads, and optionally clears, dirty-map bits into a tag. -/
  | vcdirty (v : VForm)
  /-- UNMK (R340). Commits one unmasking round and posts the dirty-map update. -/
  | unmk (v : VForm)
  /-- FADD (R173). Element-pipe floating add. -/
  | fadd (v : VForm)
  /-- FSUB (R173). Element-pipe floating subtract. -/
  | fsub (v : VForm)
  /-- FMUL (R173). Element-pipe floating multiply. -/
  | fmul (v : VForm)
  /-- FFMA (R173). Fused multiply-add. -/
  | ffma (v : VForm)
  /-- FFMS (R173). Fused multiply-subtract. -/
  | ffms (v : VForm)
  /-- FMIN (R173). Floating minimum. -/
  | fmin (v : VForm)
  /-- FMAX (R173). Floating maximum. -/
  | fmax (v : VForm)
  /-- FABS (R173). Floating absolute value. -/
  | fabs (v : VForm)
  /-- FNEG (R173). Floating negate. -/
  | fneg (v : VForm)
  /-- FCMP (R174). Floating compare, writing a tag. -/
  | fcmp (v : VForm)
  /-- FCVT (R176). Element-pipe conversion. -/
  | fcvt (v : VForm)
  /-- FDIV (R173). Floating divide. -/
  | fdiv (v : VForm)
  /-- FSQRT (R173). Floating square root. -/
  | fsqrt (v : VForm)
  /-- FRCP (R178). Reciprocal. -/
  | frcp (v : VForm)
  /-- FRSQ (R178). Reciprocal square root. -/
  | frsq (v : VForm)
  /-- FEXP2 (R178). Power of 2. -/
  | fexp2 (v : VForm)
  /-- FLOG2 (R178). Logarithm base 2. -/
  | flog2 (v : VForm)
  /-- FSIN (R179). Sine, full or fast form. -/
  | fsin (v : VForm)
  /-- FCOS (R179). Cosine, full or fast form. -/
  | fcos (v : VForm)
  /-- FTANH (R178). Hyperbolic tangent. -/
  | ftanh (v : VForm)
  /-- FSIG (R178). Sigmoid. -/
  | fsig (v : VForm)
  /-- FERF (R178). Error function. -/
  | ferf (v : VForm)
  /-- FRSUM (R180). FP32 sum reduction into sd. -/
  | frsum (v : VForm)
  /-- FRMAX (R181). Floating maximum reduction into sd. -/
  | frmax (v : VForm)
  /-- GANG (R184). Reports the gang's shape and the hart's slot. -/
  | gang (o : SForm)
  /-- VBCAST (R186). Broadcasts element n of A to D. -/
  | vbcast (o : SForm)
  /-- VEXT (R186). Extracts element n of A to sd. -/
  | vext (o : SForm)
  /-- VINS (R186). Inserts sv into element n of D. -/
  | vins (o : SForm)
  /-- VSLIDE (R186). Slides elements up or down with a fill value. -/
  | vslide (o : SForm)
  /-- VPERMR (R186). Permutes elements by XOR or rotation. -/
  | vpermr (o : SForm)
  /-- VGRANT (R189). Narrows or widens the gang's row grant. -/
  | vgrant (o : SForm)
  /-- MMA (R196). Matrix multiply-accumulate into a tile. -/
  | mma (v : VForm)
  /-- MMAS (R199). Sliding-window matrix product for convolution. -/
  | mmas (v : VForm)
  /-- MMAU (R201). Matrix product with an unfolded A operand. -/
  | mmau (v : VForm)
  /-- MLDA (R210). Loads a tile from rows. -/
  | mlda (o : SForm)
  /-- MSTA (R211). Stores a tile to rows with conversion. -/
  | msta (o : SForm)
  /-- MZERO (R212). Zeroes a tile; with .free the tile leaves use. -/
  | mzero (o : SForm)
  /-- MDESC (R213). Writes an unfolding descriptor. -/
  | mdesc (o : SForm)
  /-- MDESC_RD (R213). Reads an unfolding descriptor. -/
  | mdescRd (o : SForm)
  /-- MWAIT (R214). Waits for the hart's queued matrix instructions to commit or fail. -/
  | mwait (o : SForm)
  /-- MCHK (R215). Reads and clears a tile's rerun and discard counts and failure marks. -/
  | mchk (o : SForm)
  /-- VLD (R228). Unit-stride vector load. -/
  | vld (o : SForm)
  /-- VST (R228). Unit-stride vector store. -/
  | vst (o : SForm)
  /-- VLDS (R227). Strided vector load. -/
  | vlds (o : SForm)
  /-- VSTS (R227). Strided vector store. -/
  | vsts (o : SForm)
  /-- VLDX (R227). Indexed vector load. -/
  | vldx (o : SForm)
  /-- VSTX (R227). Indexed vector store. -/
  | vstx (o : SForm)
  /-- VLDFF (R230). First-fault load that shortens VL instead of trapping at a later element. -/
  | vldff (o : SForm)
  /-- RLD (R232). Loads whole 64-byte rows. -/
  | rld (o : SForm)
  /-- RST (R232). Stores whole 64-byte rows. -/
  | rst (o : SForm)
  /-- PREF (R233). Prefetches lines into their home slices, and into replicas with .rep. -/
  | pref (o : SForm)
  /-- CWB (R233). Writes CXL lines back to their device, optionally dropping them. -/
  | cwb (o : SForm)
  /-- AMO (R256). Scalar atomic performed at the home. -/
  | amo (o : SForm)
  /-- VAMO (R259). Vector atomic, one element per index. -/
  | vamo (o : SForm)
  /-- LDF (R265). Waits until the word is full, then loads it. -/
  | ldf (o : SForm)
  /-- LDFE (R265). Waits until the word is full, loads it and marks it empty. -/
  | ldfe (o : SForm)
  /-- STE (R265). Waits until the word is empty, stores it and marks it full. -/
  | ste (o : SForm)
  /-- STF (R265). Stores and marks full without waiting. -/
  | stf (o : SForm)
  /-- FESET (R268). Marks a range of words full or empty. -/
  | feset (o : SForm)
  /-- WAITA (R269). Waits until a value at an address meets a condition. -/
  | waita (o : SForm)
  /-- STWK (R270). Stores with release and wakes the watches on the address. -/
  | stwk (o : SForm)
  /-- BAR_GANG (R273). Arrives at the gang barrier. -/
  | barGang (o : SForm)
  /-- BAR_CLUS (R273). Arrives at a cluster barrier with count n. -/
  | barClus (o : SForm)
  /-- DQPUSH (R276). Pushes an entry at the tail of the core's deque. -/
  | dqpush (o : SForm)
  /-- DQPOP (R276). Pops the tail entry, waiting unless .nb. -/
  | dqpop (o : SForm)
  /-- DQSTEAL (R276). Steals the head entry of a victim core's deque. -/
  | dqsteal (o : SForm)
  /-- CPUSH (R294). Pushes a transfer record into a copy channel. -/
  | cpush (o : SForm)
  /-- CSTAT (R295). Snapshot of a copy channel's state. -/
  | cstat (o : SForm)
  /-- CWAIT (R296). Waits until earlier records of the channel are done, or traps on error. -/
  | cwait (o : SForm)
  /-- CKILL (R297). Abandons a channel's records and clears its error. -/
  | ckill (o : SForm)
  /-- CKILL_REL (R297). Releases a pinned record back to software. -/
  | ckillRel (o : SForm)
  /-- XROW (R298). Synchronous copy of whole rows within the grant. -/
  | xrow (o : SForm)
  /-- PDEP (R313). Deposits a tuple into a Pantry region. -/
  | pdep (o : SForm)
  /-- PCOPY (R313). Copies the oldest matching tuple. -/
  | pcopy (o : SForm)
  /-- PTAKE (R313). Takes the oldest matching tuple. -/
  | ptake (o : SForm)
  /-- PCNL (R313). Cancels an outstanding PCOPY or PTAKE. -/
  | pcnl (o : SForm)
  /-- PCNT (R313). Counts the matching tuples at the home. -/
  | pcnt (o : SForm)
  /-- CWALK (R331). Scalar Cellar walk to a page or bounds address. -/
  | cwalk (o : SForm)
  /-- CDIRTY (R346). Sets or clears a block of dirty-map bits. -/
  | cdirty (o : SForm)
  /-- LAUNCH (R375). Writes a launch record into a queue and advances TAIL. -/
  | launch (o : SForm)
  /-- PREEMPT (R375). Requests pre-emption of a queue's launch. -/
  | preempt (o : SForm)
  /-- CTXSV (R375). Stops and saves a gang to a context area. -/
  | ctxsv (o : SForm)
  /-- CTXLD (R375). Loads a saved gang onto a position and resumes it. -/
  | ctxld (o : SForm)
  /-- MIGR (R375). Moves a gang as thermal migration does. -/
  | migr (o : SForm)
  /-- LCIDSET (R375). Exchanges the LCIDs of two idle cores. -/
  | lcidset (o : SForm)
  /-- TLBINV (R375). Invalidates one page's translations in every TLB. -/
  | tlbinv (o : SForm)
  /-- TLBINVA (R375). Invalidates every translation of the named queues. -/
  | tlbinva (o : SForm)
  /-- BRING_UP (R400). The boot ROM checks the retirement table and applies every entry before any queue runs: row remap, channel capacity and lane retirement. -/
  | bringUp (boot : BootInput)
  /-- PAGE_WALK (R225). The cluster walker resolves a translation that missed both TLBs, reading the table levels. -/
  | pageWalk (hart : Nat) (va : W64)
  /-- THERMAL_REQUEST (R379). A sensor reading above THERM_LIMIT raises a migration request for the gang on that core. -/
  | thermalRequest (core : Nat) (deg : Nat)
  /-- LQ_TAIL_WRITE (R353). A write to LQ.TAIL makes records visible and fixes each record's expert gate and privilege permission. -/
  | lqTailWrite (q : Nat) (value : W64)
  /-- CONTROL_REGISTER_WRITE (R2). A write to a control-space or control-register field that has no row of its own, applied by its access code. -/
  | controlRegisterWrite (off : Nat) (size : Nat) (value : W64)
  /-- PHASE_DELAY_EXPIRE (R358). A cluster's kernel-start phase delay ends and that cluster's first dispatch proceeds. -/
  | phaseDelayExpire (q : Nat) (cluster : Nat)
  /-- MATRIX_COMMIT (R207). After the checksum checks, the tile and flags of a matrix instruction are committed. -/
  | matrixCommit (core : Nat) (check : MatrixCheck)
  /-- COPY_LINE_LAND (R286). One destination line of a copy record is written atomically and its words are marked full. -/
  | copyLineLand (core : Nat) (ch : Nat)
  /-- COPY_RECORD_COMPLETE (R288). After its last line lands, the record writes its completion word and clears OWN. -/
  | copyRecordComplete (core : Nat) (ch : Nat)
  /-- PANTRY_TIMEOUT (R317). A park timeout expires and the request is withdrawn with status 3. -/
  | pantryTimeout (hart : Nat) (status : Nat)
  /-- PRGN_WRITE (R305). A write of a Pantry region entry enables the region or is refused, or disables it and discards its tuples and parked requests. -/
  | prgnWrite (region : Nat) (value : W64)
  /-- MQ_TAIL_WRITE (R394). A write to MQ.TAIL releases new migration records to the migration engine. -/
  | mqTailWrite (value : W64)
  /-- HOST_WRITE (R386). A host write through BAR0 or BAR2 is performed in arrival order as a system-scope store. -/
  | hostWrite (bar2 : Bool) (off : Nat) (size : Nat) (value : BitVec 512)
  /-- HOST_READ (R386). A host read is performed after every host write that arrived before it. -/
  | hostRead (bar2 : Bool) (off : Nat) (size : Nat)
  /-- REMOTE_REQUEST (R389). A peer's access arriving on a scale-up link is performed at its home, or refused if it addresses control space. -/
  | remoteRequest (pa : Nat) (op : PeerOp)
  /-- RETIREMENT_APPEND (R399). The management controller appends a chained entry to the retirement table. -/
  | retirementAppend (kind : Nat) (loc : Nat)
  /-- STORE_DRAIN (R235). A store's data, drained after its convoy has retired, is performed at its home, where it may be held by a page move. -/
  | storeDrain (hart : Nat) (n : Nat)
  /-- SINGLE_BIT_UPSET (R99). A soft error flips a bit of an array row, so compare passes may mis-match until a scrub or a write pass corrects it. -/
  | singleBitUpset (core : Nat) (array : Nat) (row : Nat) (bit : Nat)
  /-- DEVICE_RESET (R3). A device reset puts every field at its stated reset value, including the shared phase table and THERM_LIMIT. -/
  | deviceReset
  /-- CONVOY_ISSUE (R361). Each cycle the sequencer picks one ready hart by age and priority, runs the issue checks and issues that hart's convoy. -/
  | convoyIssue
  /-- LINE_FETCH (R37). A fetched line is checked before any of its convoys issues: translation, parity, line format and entry. -/
  | lineFetch
  /-- LINE_REFETCH (R36). After a parity mismatch the line is read once more from memory; a second mismatch raises LINE_PARITY. -/
  | lineRefetch
  /-- CONVOY_RETIRE (R89). A convoy retires, VSTART becomes 0, and the loop registers are checked to choose the next pc. -/
  | convoyRetire
  /-- REGISTER_FILL (R66). A long-latency producer writes its result, or a poison mark, and the destination register becomes full. -/
  | registerFill
  /-- VECTOR_LOAD_FILL (R228). The data of a vector load element lands and its destination words are marked full. -/
  | vectorLoadFill
  /-- ARRAY_SCRUB (R99). Every SCRUB.MS milliseconds the scrub walks all rows, corrects single-bit errors and logs them in MCHKLOG. -/
  | arrayScrub
  /-- DROOP_FREEZE (R378). A droop detection freezes array passes and matrix work cycles in the cluster for DROOP_HOLD cycles. -/
  | droopFreeze
  /-- DROOP_HOLD_EXPIRE (R97). The freeze count runs out and passes resume, each one shifted later by the freeze. -/
  | droopHoldExpire
  /-- MIGRATION_SEARCH (R379). Every 1,300 cycles the request looks for, and reserves, the coolest free position of the same shape, or is withdrawn if its cores have cooled. -/
  | migrationSearch
  /-- THERMAL_MIGRATION (R380). The gang stops at a convoy boundary, is settled, and its state moves to the destination core. -/
  | thermalMigration
  /-- LCID_EXCHANGE (R380). When the move ends, the LCIDs of source and destination are exchanged, held traffic is released and the harts resume. -/
  | lcidExchange
  /-- LQ_PREEMPT (R363). Writing 1 to LQ.CTL.PREEMPT requests pre-emption of the running launch; outside STATE 1 or 4 the request is dropped. -/
  | lqPreempt
  /-- LQ_RESUME (R363). Writing 1 to LQ.CTL.RESUME while STATE is 3 starts the resumption of the pre-empted launch. -/
  | lqResume
  /-- LAUNCH_START (R351). An enabled idle queue with pending records fetches record HEAD as an acquire and starts it. -/
  | launchStart
  /-- ITERATION_DISPATCH (R357). The grid walker hands the next iteration to a free slot, or takes a new gang position once one is free. -/
  | iterationDispatch
  /-- HART_END (R371). Once EXIT's drain is complete the hart ends and frees its slot. -/
  | hartEnd
  /-- LAUNCH_COMPLETE (R359). With all harts exited and all copies and posted operations settled, the launch is cleaned up and completes. -/
  | launchComplete
  /-- PREEMPTION_SAVE (R363). Once every hart has stopped, each gang is settled and written to the context area, and status 0x14 is reported. -/
  | preemptionSave
  /-- GANG_RESUME_PLACE (R363). A saved gang is placed on a free position of the same shape and resumes at its saved pc. -/
  | gangResumePlace
  /-- QUANTUM_END (R248). A hart's quantum ends after MODE.DETQ convoys have retired. -/
  | quantumEnd
  /-- QUANTUM_COMMIT (R249). When every running hart has ended the quantum, their buffers and pending synchronising instructions are performed in HARTID order. -/
  | quantumCommit
  /-- MATRIX_START (R216). The matrix engine starts the next queued instruction once it is free and the first chunk's words are full. -/
  | matrixStart
  /-- COPY_RECORD_BEGIN (R285). The copy engine fetches a pushed record, checks it and marks its destination words empty. -/
  | copyRecordBegin
  /-- HOME_ATOMIC_PERFORM (R254). A home performs an arriving atomic, wait or wake request serially per word, in requester-key order within a cycle. -/
  | homeAtomicPerform
  /-- PARK_RETRY (R255). A waiting request refused by a full park table is retried after an interval that doubles up to 1,024 cycles. -/
  | parkRetry
  /-- FE_WAIT_SERVE (R266). A marking that changes a word's full/empty state serves the parked requests in arrival order. -/
  | feWaitServe
  /-- WAIT_TIMEOUT_EXPIRE (R267). A wait's timeout runs out; the request is withdrawn and WAIT_TIMEOUT is raised, or a WAITA returns the current value. -/
  | waitTimeoutExpire
  /-- WATCH_REEVALUATE (R271). A WAITA watch is re-evaluated after a waking STWK, and at least every 4,096 cycles. -/
  | watchReevaluate
  /-- BARRIER_RELEASE (R274). A completed barrier releases its waiting harts with the number of the phase that completed. -/
  | barrierRelease
  /-- BARRIER_TIMEOUT (R274). A barrier timeout expires, the arrival is withdrawn and sd receives 2^63 plus the phase number. -/
  | barrierTimeout
  /-- PANTRY_MESSAGE_SERVE (R315). The home slice serves one Pantry message per cycle: it matches, stores, parks or refuses. -/
  | pantryMessageServe
  /-- PANTRY_REFUSE_RETRY (R316). A refused Pantry message is retried after an interval that doubles, and arrives as a new message. -/
  | pantryRefuseRetry
  /-- PANTRY_REPLY (R312). A Pantry reply arrives and writes the status and the bound fields, to registers or row words. -/
  | pantryReply
  /-- CELLAR_WALK_SERVE (R328). The radix walker follows parents from the leaf and reads the page-list entry to give an address or a CELLAR fault. -/
  | cellarWalkServe
  /-- MOVE (R396). The MOVE command moves COUNT pages to their destination one at a time, installing a redirect for each. -/
  | move
  /-- RELEASE (R395). The RELEASE command removes the redirects of COUNT source pages. -/
  | release
  /-- HEATDUMP (R395). The HEATDUMP command writes the heat counters of COUNT pages to memory. -/
  | heatdump
  /-- MOVE_PAGE_CUTOVER (R396). A page copy finishes, the redirect is installed and the held writes are performed at the destination. -/
  | movePageCutover
  /-- HEAT_EPOCH_HALVE (R393). At every multiple of 2^EPOCH cycles every page-heat counter is halved. -/
  | heatEpochHalve
  /-- REMOTE_TIMEOUT (R390). A non-posted remote request with no answer after 1 ms completes with poisoned data and sets DSTAT.LINKERR. -/
  | remoteTimeout
  /-- POWER_CLAMP (R402). The power clamp holds module input to 3,000 W, bringing on droop freezes and setting DSTAT.CLAMP. -/
  | powerClamp
  /-- THERMAL_TRIP (R402). A sensor at 110 °C stops the compute clocks, puts memory into self-refresh and sets DSTAT.TRIP. -/
  | thermalTrip
  /-- BAR2_RESIZE (R384). A host resize of BAR2 clears the BAR2WIN.BASE bits that lie below the new BAR2 size. -/
  | bar2Resize
  deriving DecidableEq, Repr

end Sys2Proof
end

