-- ==== Sys2Proof/Machine/Forms.lean ====
section
/-! DEFINITION. Reading the sub-fields of an instruction's form: field operands (R46), masks (R48, R106, R111, R226),
B modes (R133) and the ext layouts of the S-form classes. Everything here is a function of the encoding alone. -/

namespace Sys2Proof

/-- x[hi:lo] as a natural number (R8). -/
def bits (x : Nat) (hi lo : Nat) : Nat := (x >>> lo) % 2 ^ (hi + 1 - lo)

/-- Bit `i` of a natural number. -/
def bit (x i : Nat) : Bool := x.testBit i

/-- sext(x, 64) of the low `w` bits of a natural number (R8). -/
def sextNat (w x : Nat) : Int :=
  let v := x % 2 ^ w
  if w ≠ 0 ∧ v.testBit (w - 1) then (v : Int) - 2 ^ w else v

/-- An integer as a 64-bit word. -/
def word64 (i : Int) : W64 := BitVec.ofInt 64 i

namespace Fld

/-- First bit of a field operand (R46). -/
def start (f : BitVec 15) : Nat := bits f.toNat 8 0

/-- Width of a field operand (R46). -/
def width (f : BitVec 15) : Nat := bits f.toNat 14 9 + 1

/-- start + width ≤ 512 (R46). -/
def ok (f : BitVec 15) : Bool := start f + width f ≤ 512

/-- Whether two fields share a bit. -/
def share (f g : BitVec 15) : Bool :=
  start f < start g + width g && start g < start f + width f

/-- Equal, or sharing no bit. -/
def equalOrApart (f g : BitVec 15) : Bool := f == g || !share f g

/-- The 32-bit words of a row that a bit range touches (R13, R51). -/
def wordsOf (start width : Nat) : List Nat :=
  (List.range 16).filter fun w => start < 32 * w + 32 && 32 * w < start + width

/-- The words a field operand covers. -/
def words (f : BitVec 15) : List Nat := wordsOf (start f) (width f)

/-- Whether the field covers any bit of the scale field [511:504] (R126). -/
def coversScale (f : BitVec 15) : Bool := start f + width f > 504

/-- The field operand f(start, width). -/
def mk (start width : Nat) : BitVec 15 := BitVec.ofNat 15 (start + 2 ^ 9 * (width - 1))

end Fld

/-- A mask whose enable is clear has its other bits clear (R48, R106, R111). -/
def Mask.ok (m : Mask) : Bool := m.en || (m.tag == 0 && !m.compl)

namespace SForm

/-- ext[hi:lo]. -/
def e (o : SForm) (hi lo : Nat) : Nat := bits o.ext.toNat hi lo

/-- ext[i]. -/
def eb (o : SForm) (i : Nat) : Bool := o.ext.toNat.testBit i

/-- so as a number. -/
def sz (o : SForm) : Nat := o.so.toNat

/-- The operand field at ext[14:0]. -/
def fld (o : SForm) : BitVec 15 := o.ext.extractLsb' 0 15

/-- The mask at ext[24:20] of the associative and vector memory classes (R106, R226). -/
def mask (o : SForm) : Mask := ⟨o.eb 23, o.ext.extractLsb' 20 3, o.eb 24⟩

/-- Instruction bits [31:16] as the 16-bit literal of ASRCHL and AWRL (R106). -/
def lit16 (o : SForm) : Nat :=
  o.a.toNat + 2 ^ 6 * o.b.toNat + 2 ^ 12 * o.pa.toNat + 2 ^ 13 * o.pb.toNat + 2 ^ 14 * o.so.toNat

/-- The 64-bit constant K of the L form (R78). -/
def konst (o : SForm) (lit : BitVec 32) : W64 := lit ++ o.ext

/-- The exchange class's mask in b (R185). -/
def xmask (o : SForm) : Mask := ⟨o.b.toNat.testBit 3, o.b.extractLsb' 0 3, o.b.toNat.testBit 4⟩

/-- Field A at ext[29:15] of the exchange class (R185). -/
def xA (o : SForm) : BitVec 15 := o.ext.extractLsb' 15 15

/-- Index field of VLDX and VSTX (R226). -/
def vIndex (o : SForm) : BitVec 15 := Fld.mk (32 * o.e 28 25) (if o.eb 29 then 64 else 32)

/-- Scope of the vector memory class (R226). -/
def vScope (o : SForm) : Nat := o.e 17 15

/-- Field F of VAMO (R257). -/
def amoF (o : SForm) : BitVec 15 := o.ext.extractLsb' 17 15

/-- Index field of VAMO, in b (R257). -/
def amoIndex (o : SForm) : BitVec 15 :=
  Fld.mk (32 * bits o.b.toNat 3 0) (if o.b.toNat.testBit 4 then 64 else 32)

/-- Mask of VAMO at ext[16:12] (R257). -/
def amoMask (o : SForm) : Mask := ⟨o.eb 12, o.ext.extractLsb' 13 3, o.eb 16⟩

/-- Tile, engine and row type of the matrix support class (R209). -/
def mT (o : SForm) : Nat := o.e 18 15
def mE (o : SForm) : Nat := o.e 20 19
def mRT (o : SForm) : Nat := o.e 23 21

/-- Copy class: channel, engine (R293). -/
def cCh (o : SForm) : Nat := o.e 2 0
def cE (o : SForm) : Nat := o.e 4 3

/-- Pantry pattern: length k (R309). -/
def pK (o : SForm) : Nat := o.e 18 16 + 1

/-- Pantry pattern: code of field j (R308, R309). -/
def pCode (o : SForm) (j : Nat) : Nat := o.e (2 * j + 1) (2 * j)

/-- The codes of the pattern's k fields. -/
def pCodes (o : SForm) : List Nat := (List.range o.pK).map o.pCode

/-- The number of value registers: one per e, two per r (R308). -/
def pV (o : SForm) : Nat := (o.pCodes.map fun c => if c = 1 then 1 else if c = 2 then 2 else 0).sum

/-- The number of bound fields. -/
def pB (o : SForm) : Nat := (o.pCodes.filter (· = 3)).length

/-- Result register field of the Pantry class. -/
def pRes (o : SForm) : Nat := o.e 27 22

end SForm

namespace VForm

/-- The mask operand: enable and tag in mask, complement in fn4[3] (R44, R48). -/
def m (v : VForm) : Mask := ⟨v.mask.toNat.testBit 3, v.mask.extractLsb' 0 3, v.fn4.toNat.testBit 3⟩

/-- fn4[2:0]. -/
def fn (v : VForm) : Nat := bits v.fn4.toNat 2 0

/-- fn4[i]. -/
def fnb (v : VForm) (i : Nat) : Bool := v.fn4.toNat.testBit i

/-- The B mode of the associative arithmetic, fn4[1:0] (R133). -/
def bm (v : VForm) : Nat := bits v.fn4.toNat 1 0

/-- The type code. -/
def ty (v : VForm) : Nat := v.type.toNat

/-- x[hi:lo]. -/
def xb (v : VForm) (hi lo : Nat) : Nat := bits v.x.toNat hi lo

/-- The register B[5:0]. -/
def bReg (v : VForm) : Reg := v.B.extractLsb' 0 6

/-- The register D[5:0]. -/
def dReg (v : VForm) : Reg := v.D.extractLsb' 0 6

/-- B mode 1 leaves B[14:6] zero (R133). -/
def bRegOk (v : VForm) : Bool := bits v.B.toNat 14 6 == 0

/-- The tag D[2:0] (R141). -/
def dTag (v : VForm) : Tag := v.D.extractLsb' 0 3

/-- Condition code D[5:3] of VCMP and FCMP (R141). -/
def cc (v : VForm) : Nat := bits v.D.toNat 5 3

/-- Third field operand C in x[14:0] (R44). -/
def fC (v : VForm) : BitVec 15 := v.x.extractLsb' 0 15

/-- A register named by six bits of x starting at `lo`. -/
def xReg (v : VForm) (lo : Nat) : Reg := v.x.extractLsb' lo 6

/-- Matrix class (R202). -/
def mT (v : VForm) : Nat := bits v.D.toNat 3 0
def mE (v : VForm) : Nat := bits v.D.toNat 5 4

end VForm

/-- The field sources A, and A and B where B mode 0 makes B a field, with their policy bits and `true` for B (R133, R135).
-/
def VForm.fieldsA (v : VForm) : List (BitVec 15 × Bool × Bool) := [(v.A, v.pa, false)]
def VForm.fieldsAB (v : VForm) : List (BitVec 15 × Bool × Bool) :=
  if v.bm = 0 then [(v.A, v.pa, false), (v.B, v.pb, true)] else v.fieldsA

/-- The field sources of the element pipe, where x[0] makes B a register (R168). -/
def VForm.fieldsPipe (v : VForm) : List (BitVec 15 × Bool × Bool) :=
  if v.x.getLsbD 0 then v.fieldsA else [(v.A, v.pa, false), (v.B, v.pb, true)]

/-- The words of field sources. -/
def sourceWords (fs : List (BitVec 15 × Bool × Bool)) : List Nat := fs.flatMap fun x => Fld.words x.1

/-- The element width a type code requires of a field of width `w` (R47); `true` when it does. -/
def typeWidth (t w : Nat) : Bool :=
  match t with
  | 0 => 1 ≤ w && w ≤ 64
  | 1 => 1 ≤ w && w ≤ 64
  | 2 => w == 32
  | 3 => w == 16
  | 4 => w == 16
  | 5 => w == 8
  | 6 => w == 8
  | 7 => 2 ≤ w && w ≤ 8
  | _ => false

/-- Integer type codes. -/
def isInt (t : Nat) : Bool := t == 0 || t == 1

/-- The floating types of the associative arithmetic: BF16, E4M3, E5M2 (R134). -/
def isAssocFloat (t : Nat) : Bool := t == 3 || t == 5 || t == 6

/-- The floating types of the element pipe: FP32, BF16, FP16 (R168). -/
def isPipeFloat (t : Nat) : Bool := t == 2 || t == 3 || t == 4

/-- Any floating type code. -/
def isFloat (t : Nat) : Bool := 2 ≤ t && t ≤ 6

/-- Operand width of a matrix instruction (R194, R202). -/
def VForm.ew (v : VForm) : Nat :=
  match v.ty with
  | 3 => 16
  | 4 => 16
  | 5 => 8
  | 6 => 8
  | _ => bits v.D.toNat 9 6 + 1

/-- ⌈a / b⌉. -/
def ceilDiv (a b : Nat) : Nat := (a + b - 1) / b

/-- Operand values per row of a matrix instruction, p (R194). -/
def VForm.perRow (v : VForm) : Nat := Fld.width v.A / v.ew

/-- Width of a matrix row type (R209). -/
def rowTypeWidth (rt : Nat) : Nat :=
  match rt with
  | 0 => 32
  | 1 => 16
  | 2 => 16
  | 3 => 8
  | 4 => 8
  | 5 => 32
  | 6 => 16
  | _ => 8

end Sys2Proof
end

