-- ==== Sys2Proof/Machine/Sparse.lean ====
section
/-! DEFINITION. Sparse tables in one canonical form: keys strictly rising and no entry equal to the value an unlisted
key reads as, so that equal tables are equal lists. -/

namespace Sys2Proof

/-- The entry listed at a key. -/
def SMap.find {α : Type} (m : SMap α) (k : Nat) : Option α :=
  match m with
  | [] => none
  | (j, v) :: t => if j = k then some v else SMap.find t k

/-- Enter a value at a key, in key order. -/
def SMap.put {α : Type} (m : SMap α) (k : Nat) (v : α) : SMap α :=
  match m with
  | [] => [(k, v)]
  | (j, u) :: t => if j < k then (j, u) :: SMap.put t k v else if j = k then (k, v) :: t else (k, v) :: (j, u) :: t

/-- Remove a key. -/
def SMap.del {α : Type} (m : SMap α) (k : Nat) : SMap α := m.filter fun e => e.1 != k

/-- Read a key whose unlisted value is `d`. -/
def SMap.getD {α : Type} (m : SMap α) (k : Nat) (d : α) : α := (SMap.find m k).getD d

/-- Write a key whose unlisted value is `d`: writing `d` removes the entry. -/
def SMap.setD {α : Type} [DecidableEq α] (m : SMap α) (k : Nat) (d v : α) : SMap α :=
  if v = d then SMap.del m k else SMap.put m k v

/-- Keys strictly rising. -/
def SMap.sorted {α : Type} : SMap α → Bool
  | [] => true
  | (j, _) :: t => (t.all fun e => j < e.1) && SMap.sorted t

/-- The canonical form of a table whose unlisted value is `d`. -/
def SMap.wf {α : Type} [DecidableEq α] (d : α) (m : SMap α) : Bool :=
  SMap.sorted m && m.all fun e => e.2 ≠ d

/-- Keep the entries whose keys satisfy `p`. -/
def SMap.restrict {α : Type} (m : SMap α) (p : Nat → Bool) : SMap α := m.filter fun e => p e.1

/-- Little-endian value of bytes (R1). -/
def leNat : List Byte → Nat
  | [] => 0
  | b :: t => b.toNat + 256 * leNat t

/-- The `n` little-endian bytes of a number (R1). -/
def leBytes : Nat → Nat → List Byte
  | 0, _ => []
  | n + 1, x => BitVec.ofNat 8 (x % 256) :: leBytes n (x / 256)

/-- Replace the bits of `x` that lie in [start, start + width) by those of `v`. -/
def putBits (x : BitVec 512) (start width v : Nat) : BitVec 512 :=
  let m : BitVec 512 := (BitVec.ofNat 512 (2 ^ width - 1)) <<< start
  (x &&& ~~~m) ||| ((BitVec.ofNat 512 (v % 2 ^ width)) <<< start)

/-- The bits of `x` in [start, start + width). -/
def takeBits (x : BitVec 512) (start width : Nat) : Nat := (x.toNat >>> start) % 2 ^ width

/-- Replace element `i` of a list; a list too short is left alone. -/
def setAt {α : Type} (l : List α) (i : Nat) (v : α) : List α := l.set i v

end Sys2Proof
end

