-- ==== Sys2Proof/Machine/State.lean ====
section
/-! DEFINITION. Every piece of state the spec gives the CL9, as plain data, and the machine right after reset (R3).
Tables that are mostly at their reset value are sparse (`SMap`): keys strictly rising, no entry equal to the value an
unlisted key reads as. Fields marked MODEL are the model's own bookkeeping and no state of the spec. -/

namespace Sys2Proof.Machine

open Sys2Proof

/-! ## Rows -/

/-- One array row (R13, R92): 512 data bits, 16 full/empty bits, tag latches t0 to t7, as they were last written. Its 70
check bits are a function of them whose code the spec does not give: what is held of them is which are upset, in
`State.upsets` (DEDUCED, log 9). -/
structure Row where
  data : BitVec 512
  full : BitVec 16
  tags : BitVec 8
  deriving DecidableEq, Repr

/-- A cleared row (R360). -/
def Row.clear : Row := ⟨0, 0xFFFF, 0⟩

/-! ## Causes -/

/-- The causes of R366, less PREEMPT, which is never taken. -/
inductive Cause where
  | illegalOp | lineFormat | lineParity | priv | fetchXlate | dataXlate | dataProt | align | emptyTrap | waitTimeout
  | convoyRule | vlRange | matrixErr | poison | pantry | copyRec | cellar | brk | svc | watch
  deriving DecidableEq, Repr

/-- The cause codes (R366). -/
def Cause.code : Cause → Nat
  | .illegalOp => 0x01 | .lineFormat => 0x02 | .lineParity => 0x03 | .priv => 0x04 | .fetchXlate => 0x05
  | .dataXlate => 0x06 | .dataProt => 0x07 | .align => 0x08 | .emptyTrap => 0x09 | .waitTimeout => 0x0A
  | .convoyRule => 0x0B | .vlRange => 0x0C | .matrixErr => 0x0D | .poison => 0x0E | .pantry => 0x0F
  | .copyRec => 0x10 | .cellar => 0x11 | .brk => 0x12 | .svc => 0x13 | .watch => 0x15

/-- Whether a cause is of the user class (R366). -/
def Cause.user : Cause → Bool
  | .align | .emptyTrap | .vlRange | .brk | .watch => true
  | _ => false

/-! ## A convoy in progress -/

/-- A stop of a convoy at an instruction (R368). `cause = none` is a stop without a trap: for a pre-emption or a
migration (R363), or with `pauses` at the end of the quantum (R248). `elem = none` is a trap at issue or at an
instruction: VSTART keeps its value. -/
structure Stop where
  k : Nat
  cause : Option Cause
  tval : W64
  elem : Option Nat
  pauses : Bool
  deriving DecidableEq, Repr

/-- How the hart reached its pc: in sequence, by a landing (reason 6), by one at an address whose bits [1:0] are not zero,
which the pc does not hold (R38), or by a trap return (reason 7) (R39). -/
inductive Entry where
  | sequential | landing | misaligned | trapReturn
  deriving DecidableEq, Repr

/-- An issued convoy: its instructions with their first parcels, the next one to run, the stop if there was one, the
transfer taken, and the flags it has changed from 0 to 1 (R368, R372). -/
structure Conv where
  instrs : List Instr
  heads : List Parcel
  /-- The sequential successor (R38). -/
  succ : W64
  idx : Nat
  stop : Option Stop
  target : Option W64
  raised : BitVec 6
  /-- The EMPTY_TRAP verdict on each instruction's field sources, made as the convoy issued (R135, R150, R205). -/
  ftraps : List (Option W64)
  /-- The routine of each AMCODE run, read as the convoy issued; none for one behind an AMCODE load of it (R117). -/
  routines : List (Option (List W64))
  /-- The region of each Pantry instruction and the physical address of its row, as checked at issue (R310). -/
  pages : List (Option (Nat × Option Nat))
  deriving DecidableEq, Repr

/-! ## Long-latency work of a hart -/

/-- A scalar result on its way (R66): the value, or a poison mark with the value the producer recorded (R68). -/
structure Fill where
  reg : Reg
  value : W64
  poison : Bool
  deriving DecidableEq, Repr

/-- A field write on its way to a row (R228): the words it covers become full when it lands. -/
structure VFill where
  row : Nat
  start : Nat
  width : Nat
  value : Nat
  deriving DecidableEq, Repr

/-- A store that has retired and not yet been performed at its home (R235), or with no bytes a write-back that its
device has not accepted yet (R233). -/
structure Drain where
  /-- MODEL: its place among the hart's accesses, one for the elements of one instruction. -/
  serial : Nat
  /-- An element of an .ord store: after the lower elements (R231). -/
  ord : Bool
  pa : Nat
  bytes : List Byte
  deriving DecidableEq, Repr

/-- An outstanding Pantry request of a hart (R311): what its reply will write. -/
structure PReq where
  serial : Nat
  /-- The instruction, with the values it read. -/
  instr : Instr
  region : Nat
  /-- The tuple deposited, or the values of the pattern. -/
  vals : List W64
  status : Option Reg
  /-- Row of the row form, as a physical address (R309); it follows the hart's core (R319). -/
  rowPa : Option Nat
  timeout : Option Nat
  deriving DecidableEq, Repr

/-! ## Harts -/

/-- A hart (R19, R65, R69 to R74, R100, R200, R366 to R373). -/
structure Hart where
  queue : Nat
  hartid : Nat
  gang : Nat
  slot : Nat
  iter : Nat
  regs : Vector W64 64
  full : BitVec 64
  poison : BitVec 64
  poisonVal : SMap W64
  pc : W64
  ci : Nat
  entry : Entry
  /-- The privileged view. -/
  view : Bool
  vl : Nat
  vstart : Nat
  /-- VGRANT.ROWS (R100, R189). -/
  rows : Nat
  fst : BitVec 6
  frm : BitVec 4
  vstat : BitVec 2
  lb0 : W64
  le0 : W64
  lc0 : W64
  lb1 : W64
  le1 : W64
  lc1 : W64
  uh : Bool
  tcode : BitVec 8
  tpc : W64
  tci : BitVec 2
  tval : W64
  uhpc : W64
  uwatch : BitVec 6
  ph : Bool
  ppv : Bool
  ptcode : BitVec 8
  ptpc : W64
  ptci : BitVec 2
  ptval : W64
  tvec : W64
  la : Bool
  det : Bool
  detq : BitVec 17
  prof : BitVec 2
  skew : BitVec 3
  droop : BitVec 11
  ctxbase : W64
  xctl : BitVec 7
  gangid : Nat
  adesc : Vector W64 4
  conv : Option Conv
  /-- The convoy's instruction is waiting (R361). -/
  waiting : Bool
  /-- Elements below this one are done with in a row-mode instruction that waits for the next element group (R24). -/
  done : Nat
  /-- The elements that a reduction of the element pipe has read so far, with their values (R24, R170). -/
  taken : List (Nat × Nat)
  /-- The VAMO it has come to has sent its requests and waits for their results: the element of R259 at which it ends,
  with its fault, and the elements whose words the homes found poisoned, with their addresses (R259, R260). -/
  sent : Option (Nat × Option (Cause × W64))
  lost : List (Nat × W64)
  fills : List Fill
  vfills : List VFill
  drain : List Drain
  /-- Flags of committed matrix results, raised in FST at the next convoy boundary (R372). -/
  mflags : BitVec 6
  /-- The pending watch set and the convoy it belongs to (R372). -/
  pwatch : BitVec 6
  pwatchPc : W64
  /-- The commit buffer (R248): distinct bytes by physical address. -/
  buf : SMap Byte
  /-- Lines that one store of the quantum writes whole (R398). -/
  bufLines : List Nat
  /-- The address of each store in the buffer: each is a request of its own at its home (R393). -/
  bufTouch : List Nat
  /-- Convoys retired in the quantum, and its length, fixed when it began (R72, R248). -/
  qcount : Nat
  qlim : Nat
  qend : Bool
  blocked : Bool
  go : Bool
  preqs : List PReq
  /-- Serial numbers of the copy records a CWAIT waits for (R296), or the gang a MIGR is moving (R375). -/
  cwait : Option (List Nat)
  /-- Arrived at a barrier and waiting: the phase it arrived in, the barrier (none: gang) (R273). -/
  barrier : Option (Option Nat × Nat)
  /-- A barrier release on its way to the hart (R278). -/
  released : Option Nat
  /-- The remaining timeout of a wait that a pre-emption withdrew; 0 is none (R278, R365). -/
  waitLeft : W64
  /-- MODEL: convoys issued by siblings since this hart last issued, and its rank among ready harts (R361). -/
  skips : Nat
  age : Nat
  yielded : Bool
  deriving DecidableEq, Repr

/-- Every register of a hart at its hart-start value; what the grid walker preloads is set by the walker (R65, R70,
R355). -/
def Hart.fresh : Hart where
  queue := 0
  hartid := 0
  gang := 0
  slot := 0
  iter := 0
  regs := Vector.replicate 64 0
  full := BitVec.allOnes 64
  poison := 0
  poisonVal := []
  pc := 0
  ci := 0
  entry := .landing
  view := false
  vl := 0
  vstart := 0
  rows := 1024
  fst := 0
  frm := 0
  vstat := 0
  lb0 := 0
  le0 := 0
  lc0 := 0
  lb1 := 0
  le1 := 0
  lc1 := 0
  uh := false
  tcode := 0
  tpc := 0
  tci := 0
  tval := 0
  uhpc := 0
  uwatch := 0
  ph := false
  ppv := false
  ptcode := 0
  ptpc := 0
  ptci := 0
  ptval := 0
  tvec := 0
  la := false
  det := false
  detq := 0
  prof := 0
  skew := 2
  droop := 64
  ctxbase := 0
  xctl := 0
  gangid := 0
  adesc := Vector.replicate 4 0
  conv := none
  waiting := false
  done := 0
  taken := []
  sent := none
  lost := []
  fills := []
  vfills := []
  drain := []
  mflags := 0
  pwatch := 0
  pwatchPc := 0
  buf := []
  bufLines := []
  bufTouch := []
  qcount := 0
  qlim := 4096
  qend := false
  blocked := false
  go := false
  preqs := []
  cwait := none
  barrier := none
  released := none
  waitLeft := 0
  skips := 0
  age := 0
  yielded := false

/-- A gang (R19, R20, R183, R272): its queue, ordinal, shape, first core and GBAR. -/
structure Gang where
  queue : Nat
  ordinal : Nat
  g : Nat
  h : Nat
  na : Nat
  first : Nat
  /-- GANGID: the LCID of its first core when it was formed (R30, R73). -/
  gangid : Nat
  live : BitVec 4
  arr : BitVec 4
  phase : BitVec 8
  /-- Stopping for pre-emption or migration (R363, R380). -/
  stopping : Bool
  deriving DecidableEq, Repr

/-! ## Matrix engines -/

/-- The state of a tile beside its words (R192, R208, R215). -/
structure Tile where
  inUse : Bool
  failed : Bool
  poisoned : Bool
  discarded : Nat
  reruns : Nat
  deriving DecidableEq, Repr

/-- A tile that is not in use. -/
def Tile.free : Tile := ⟨false, false, false, 0, 0⟩

/-- An entry of a matrix queue with what it sampled at entry (R206): registers, FRM, descriptors, the tag bits of its
mask by row index (DEDUCED, log 19). -/
structure MEntry where
  hart : Nat
  core : Nat
  instr : Instr
  regs : List Nat
  frm : BitVec 4
  fz : Bool
  adesc : Vector W64 4
  tags : List Bool
  started : Bool
  /-- Queued behind a failure on its tile: it will be discarded (R208). -/
  doomed : Bool
  /-- Under MODE.DET, the bytes of its operand rows that the pusher's buffered stores had written at entry: row key, first
  bit and byte (R205, R248). -/
  overlay : List (Nat × Nat × Byte)
  deriving DecidableEq, Repr

/-! ## Copy engines -/

/-- A copy record pushed and not yet done (R280 to R292). -/
structure CRec where
  serial : Nat
  hart : Nat
  queue : Nat
  /-- First core of the pushing gang. -/
  first : Nat
  addr : Nat
  ch : Nat
  /-- XCTL.CHAIN of the pusher at the push (R285). -/
  chain : Bool
  status : Option Reg
  /-- The eight doublewords fetched, when begun. -/
  words : Option (List W64)
  /-- Next stream offset. -/
  off : Nat
  /-- Source bytes read ahead, by stream position, `none` for poison: at the begin those of a record whose source and
  destination overlap, and at a line the rest of a source word that goes on in the next one (R287). -/
  snap : SMap (Option Byte)
  /-- Reached through NEXT (R290). -/
  chained : Bool
  deriving DecidableEq, Repr

/-- A channel's error: the failed record's address and the reason (R292). -/
structure CErr where
  addr : Nat
  reason : Nat
  deriving DecidableEq, Repr

/-- A parameter-cache entry (R291). -/
structure PCache where
  queue : Nat
  addr : Nat
  ch : Nat
  words : List W64
  deriving DecidableEq, Repr

/-! ## Cores and clusters -/

/-- What a core holds beside its rows and tiles (R11, R12, R94, R275, R280, R376) (DESIGN CHOICE, log 30). -/
structure Core where
  /-- LANEMAP.MAP: present lanes (R12). -/
  lanes : BitVec 8
  /-- Lanes retired while the core held a gang, taken when it next holds none (R400). -/
  pendingLanes : BitVec 8
  /-- Reserved as the destination of a migration (R413). -/
  reserved : Bool
  mchk : BitVec 7
  deque : List (BitVec 63)
  /-- A droop freeze is in force (R378). -/
  frozen : Bool
  /-- Sensor reading in degrees C (R379). -/
  sensor : Nat
  /-- A migration request is raised (R379). -/
  request : Bool
  mqueue : List MEntry
  copies : List CRec
  errs : SMap CErr
  pcache : List PCache
  /-- Row spares used, by array (R400). -/
  spares : SMap Nat
  /-- The queue of the launch that the loaded user microcode belongs to (R119). -/
  ucodeOwner : Option Nat
  deriving DecidableEq, Repr

/-- A core after bring-up with every lane present (R360, R376) (DESIGN CHOICE, log 3). -/
def Core.fresh : Core where
  lanes := 0xFF
  pendingLanes := 0
  reserved := false
  mchk := 0
  deque := []
  frozen := false
  sensor := 0
  request := false
  mqueue := []
  copies := []
  errs := []
  pcache := []
  spares := []
  ucodeOwner := none

/-- A cluster barrier of one launch queue (R273): count, harts arrived in order, phases completed. -/
structure Bar where
  count : Nat
  arrived : List Nat
  phase : Nat
  deriving DecidableEq, Repr

/-- A cluster barrier at launch start. -/
def Bar.fresh : Bar := ⟨0, [], 0⟩

/-! ## Waiting and home requests -/

/-- A parked request at a bank unit, slice or deque (R255, R266, R269, R276), in arrival order. -/
structure Park where
  hart : Nat
  /-- Physical address watched or waited on; for a deque the LCID of its core. -/
  pa : Nat
  bytes : Nat
  /-- 0 LDF or LDFE (words full), 1 STE (words empty), 2 WAITA, 3 DQPOP. -/
  kind : Nat
  /-- Refused by a full park table (R255). -/
  refused : Bool
  /-- MODEL: its place in the order of arrivals, peers' requests among them (R254, R266). -/
  serial : Nat
  /-- The entry of a push that a waiting DQPOP has taken (R276). -/
  got : Option (BitVec 63)
  deriving DecidableEq, Repr

/-- A full/empty request of a peer that waits at a local store (R253, R266). -/
structure PeerWait where
  pa : Nat
  op : PeerOp
  refused : Bool
  /-- MODEL: its place in the order of arrivals. -/
  serial : Nat
  deriving DecidableEq, Repr

/-- Where a returning atomic delivers its result (R256, R257) (DEDUCED, log 33). -/
inductive AtomDest where
  | posted
  | reg (r : Reg) (va : W64)
  | field (row start width : Nat) (elem : Nat) (va : W64)
  deriving DecidableEq, Repr

/-- An atomic on its way to its home (R253 to R258): function code of R57, operand `v` (ACAS: the compare value) and
ACAS's new value. -/
structure AtomReq where
  hart : Nat
  fn : Nat
  pa : Nat
  size : Nat
  v : W64
  v' : W64
  /-- MODEL: its place among the hart's accesses, one for the elements of one instruction. -/
  serial : Nat
  /-- Performed only after the lower elements of its instruction (R259): its own element. -/
  ord : Bool
  elem : Nat
  dest : AtomDest
  deriving DecidableEq, Repr

/-! ## Pantry -/

/-- A stored tuple (R307). -/
structure Tuple where
  region : Nat
  age : Nat
  fields : List W64
  deriving DecidableEq, Repr

/-- A Pantry message in flight, or an entry of a slice's park table (R315). -/
structure PMsg where
  serial : Nat
  hart : Nat
  slice : Nat
  region : Nat
  instr : Instr
  vals : List W64
  age : Nat
  /-- Refused by a full park table; sent again by PANTRY_REFUSE_RETRY (R316). -/
  refused : Bool
  /-- The region was disabled before it arrived (R305). -/
  stale : Bool
  timeout : Option Nat
  deriving DecidableEq, Repr

/-- A Pantry reply: the status and the tuple served (R312). -/
structure PReply where
  serial : Nat
  hart : Nat
  status : W64
  fields : List W64
  deriving DecidableEq, Repr

/-! ## Caches of translations, lines, replicas and nodes -/

/-- A TLB entry, of a core or with no core of its cluster's second level (R14, R225): the page and its leaf, and for a
PANTRY page the region's EN and NF. -/
structure Tlb where
  cluster : Nat
  core : Option Nat
  queue : Nat
  base : Nat
  size : Nat
  leaf : W64
  en : Bool
  nf : Nat
  deriving DecidableEq, Repr

/-- A line in a core's line buffer (R36, R41). -/
structure LBuf where
  core : Nat
  queue : Nat
  va : Nat
  data : BitVec 512
  deriving DecidableEq, Repr

/-- A line of memory in the shared cache of its home slice (R15, R219): its data, and whether memory still lacks them. -/
structure CLine where
  data : BitVec 512
  dirty : Bool
  deriving DecidableEq, Repr

/-- A replica of a line in a replica slice (R247). -/
structure Replica where
  slice : Nat
  queue : Nat
  line : Nat
  data : BitVec 512
  deriving DecidableEq, Repr

/-- What a cluster's node cache keeps of a sealed node (R324, R330): its doublewords 0 to 3, or a page-list entry. -/
structure Node where
  cluster : Nat
  queue : Nat
  /-- Address of the node. -/
  node : Nat
  va : Nat
  words : List W64
  deriving DecidableEq, Repr

/-! ## Launch queues -/

/-- A gang saved in a context area (R363, R365, R375): its record, and of each core what has no given form there. Its
harts stay in `State.harts`, with no gang on a core (DESIGN CHOICE, log 25). -/
structure SavedGang where
  gang : Gang
  cores : List Core
  /-- The LCIDs its cores had. -/
  lcids : List Nat
  /-- Saved by CTXSV: loaded by CTXLD only. -/
  byCtxsv : Bool
  deriving DecidableEq, Repr

/-- A running, pre-empted or ending launch (R352 to R363). -/
structure Launch where
  /-- The sixteen doublewords of the record. -/
  record : List W64
  /-- Next iteration to hand out, and how many there are. -/
  next : Nat
  total : Nat
  /-- Clusters whose phase delay has run out, and those waiting on it (R358). -/
  phased : List Nat
  delayed : List Nat
  /-- Harts placed at the first dispatch under MODE.DET; 0 before it (R357). -/
  detHarts : Nat
  /-- Under MODE.DET: the HARTID next in the commit in progress (R249). -/
  commit : Option Nat
  /-- The ending that closed it: status, convoy address, value, HARTID (R373). -/
  ending : Option (Nat × W64 × W64 × Nat)
  /-- Gangs saved in a context area (R363, R375). -/
  saved : List SavedGang
  /-- A copy channel was left in error (R292). -/
  copyErr : Bool
  deriving DecidableEq, Repr

/-- A launch queue's registers and launch (R350). -/
structure LQ where
  base : W64
  size : BitVec 4
  head : Nat
  tail : Nat
  cpl : W64
  tvec : W64
  root : W64
  vec : BitVec 11
  msi : Bool
  state : Nat
  resume : Bool
  preempt : Bool
  xok : Bool
  privok : Bool
  en : Bool
  fpc : W64
  fval : W64
  fhart : Nat
  /-- Gate and privilege permission of each visible record, oldest first (R353). -/
  gates : List (Bool × Bool)
  /-- BASE, SIZE, ROOT, TVEC as the running launch took them (R350). -/
  runRoot : W64
  runTvec : W64
  launch : Option Launch
  deriving DecidableEq, Repr

/-- A launch queue at reset (R350). -/
def LQ.reset : LQ where
  base := 0
  size := 0
  head := 0
  tail := 0
  cpl := 0
  tvec := 0
  root := 0
  vec := 0
  msi := false
  state := 0
  resume := false
  preempt := false
  xok := false
  privok := false
  en := false
  fpc := 0
  fval := 0
  fhart := 0
  gates := []
  runRoot := 0
  runTvec := 0
  launch := none

/-! ## The hub -/

/-- Device control (R384), less the route bytes. -/
structure DevCtl where
  devid : Nat
  linkErr : Bool
  clamp : Bool
  trip : Bool
  recov : Bool
  bootOk : Bool
  /-- BAR2WIN.BASE, bits [45:30]. -/
  bar2Base : BitVec 16
  /-- log2 of the BAR2 size (R385). -/
  bar2Log : Nat
  hbmHalf : Nat
  ucGib : Nat
  heatEn : Bool
  heatEpoch : BitVec 5
  scrubMs : BitVec 7
  /-- MCHKLOG.UE of the hub (R398). -/
  hubUe : Bool
  deriving DecidableEq, Repr

/-- Device control at reset (R384). BAR2's size at reset is 1 GiB (DESIGN CHOICE, log 2). -/
def DevCtl.reset : DevCtl where
  devid := 0
  linkErr := false
  clamp := false
  trip := false
  recov := false
  bootOk := false
  bar2Base := 0
  bar2Log := 30
  hbmHalf := 768
  ucGib := 0
  heatEn := true
  heatEpoch := 20
  scrubMs := 10
  hubUe := false

/-- A store held by a page move, of the host when `host` is set (R386, R396). -/
structure Held where
  pa : Nat
  bytes : List Byte
  host : Bool
  deriving DecidableEq, Repr

/-- A host request that waits for an earlier write of the host which a page move holds (R386). -/
inductive HostReq where
  | write (bar2 : Bool) (off size : Nat) (value : BitVec 512)
  | read (bar2 : Bool) (off size : Nat)
  deriving DecidableEq, Repr

/-- The page the migration engine is moving (R396). -/
structure Moving where
  src : Nat
  dst : Nat
  /-- Lines copied so far. -/
  lines : Nat
  held : List Held
  deriving DecidableEq, Repr

/-- The migration queue and its engine (R394, R395). -/
structure MQ where
  base : W64
  size : BitVec 4
  head : Nat
  tail : Nat
  cpl : W64
  vec : BitVec 11
  msi : Bool
  en : Bool
  /-- The MOVE in progress: source page, destination page, pages done, pages in all. -/
  job : Option (Nat × Nat × Nat × Nat)
  moving : Option Moving
  deriving DecidableEq, Repr

/-- The migration queue at reset. -/
def MQ.reset : MQ := ⟨0, 0, 0, 0, 0, 0, false, false, none, none⟩

/-- A retirement-table entry: doublewords 0 and 1 (R399). -/
structure RtEntry where
  w0 : W64
  w1 : W64
  deriving DecidableEq, Repr

/-- A non-posted request to another device (R389, R390): with `dest` the register its answer fills and the virtual
address a poison mark records, else an element's request whose answer is kept (`some none` is poisoned data). -/
structure Remote where
  /-- MODEL: its place among the hart's accesses. -/
  serial : Nat
  /-- The scale-up port it goes out on (R388). -/
  port : Nat
  /-- An acquire: the hart's later accesses wait for the answer (R239). -/
  acq : Bool
  /-- A posted request: its answer is its acceptance (R245). -/
  posted : Bool
  /-- Performed only after the lower elements of its instruction, which `tag` less one tells apart (R259). -/
  ord : Bool
  hart : Nat
  pa : Nat
  op : PeerOp
  sext : Bool
  dest : Option (Reg × W64)
  /-- Tells apart requests of the elements of one instruction. -/
  tag : Nat
  answer : Option (Option (BitVec 512))
  deriving DecidableEq, Repr

/-- What this device sends on a scale-up port: a posted write (R388, R389). -/
structure Sent where
  port : Nat
  pa : Nat
  bytes : List Byte
  deriving DecidableEq, Repr

/-- A migration of a gang in progress (R380): the gang, its number of cores, and the first cores it moves between. -/
structure Mig where
  gang : Nat
  size : Nat
  src : Nat
  dst : Nat
  moved : Bool
  /-- Requests of other harts withdrawn from the two cores, in order (R411). -/
  withdrawn : List Park
  deriving DecidableEq, Repr

/-- MODEL: what happens next, when the outside world or a schedule says so (DESIGN CHOICE, log 4). -/
inductive Input where
  /-- An event on an agent. -/
  | event (i : Instr) (who : Nat)
  /-- A step of one hart. -/
  | hart (h : Nat)
  /-- A peer's answer to request n: a value, or poisoned data. -/
  | answer (n : Nat) (value : Option (BitVec 512))
  /-- A flip of a byte in the Undercroft's memory itself, by a media error or by another host (R392, R398). -/
  | mediaFlip (pa : Nat) (mask : Byte)
  /-- A poison or media-error response for a line of the Undercroft (R392). -/
  | mediaPoison (pa : Nat)
  /-- A home slice writes a cached line back and drops it (R15). -/
  | evict (line : Nat)
  /-- A scale-up link goes down or comes up (R390). -/
  | link (port : Nat) (up : Bool)
  | power
  deriving DecidableEq, Repr

/-- The state of the machine. -/
structure State where
  /-- MODEL: inputs and scheduling choices still to come, next first. -/
  agenda : List Input
  /-- MODEL: the core, hart, queue or entry an event acts on. -/
  who : Nat
  /-- MODEL: the hart whose instruction `exec` runs. -/
  cur : Option Nat
  /-- MODEL: harts found not ready since the state last changed. -/
  asleep : List Nat
  /-- MODEL: order of the elements of the next unordered vector instruction; `[]` is ascending. -/
  elemOrder : List Nat
  /-- MODEL: whether the caches the spec lets be filled (TLB, line buffer, node cache) keep what is read. -/
  keep : Bool
  /-- MODEL: serial numbers given so far. -/
  serial : Nat
  /-- Bytes of HBM4E and the Undercroft by device physical address [45:0] (R27). -/
  mem : List Host.Cell
  /-- Lines of memory in the shared caches, by line number (R15, R219). -/
  lines : SMap CLine
  /-- Poisoned 64-byte lines of memory, by line number (R398). -/
  poison : SMap Bool
  /-- Heat counters by 64 KiB page number (R393). -/
  heat : SMap Nat
  /-- Bits of the Undercroft's memory that no longer agree with the page's integrity tag (R398). -/
  flips : SMap Byte
  /-- Array rows by (core * 32 + physical array) * 1024 + row (R92). -/
  rows : SMap Row
  /-- Uncorrected upsets by 1024 * row key + bit; bits 0 to 511 data, 512 to 527 full/empty, 528 to 535 tags, 536 to 599
  the check bits of doublewords 0 to 7, 600 to 605 those of the tag and full/empty group (R92, R99). -/
  upsets : SMap Bool
  /-- Rows left poisoned by the scrub, or written with a poison mark (R99). -/
  badRows : SMap Bool
  /-- Accumulator words by (core * 16 + tile) * 4096 + word (R192). -/
  tileWords : SMap (BitVec 32)
  tiles : SMap Tile
  /-- Loaded user microcode by core * 1024 + entry - 3072 (R94, R119). -/
  ucode : SMap W64
  cores : SMap Core
  /-- Cores whose LCID is not their physical index (R29). -/
  lcids : SMap Nat
  /-- Cluster barriers by (cluster * 16 + queue) * 32 + id (R273). -/
  bars : SMap Bar
  /-- Gangs by 65536 * queue + ordinal. -/
  gangs : SMap Gang
  /-- Harts by 65536 * queue + HARTID. -/
  harts : SMap Hart
  lqs : SMap LQ
  tlb : List Tlb
  lbuf : List LBuf
  replicas : List Replica
  nodes : List Node
  atoms : List AtomReq
  parks : List Park
  migs : List Mig
  /-- Pantry region table, entry n of R303. -/
  prgn : SMap W64
  tuples : List (Nat × Tuple)
  pmsgs : List PMsg
  pparks : List PMsg
  preplies : List PReply
  /-- Position of the next deposit in its slice's arrival order (R307). -/
  pages : Nat
  dev : DevCtl
  /-- Route bytes by device (R384). -/
  routes : SMap (BitVec 4)
  mq : MQ
  /-- Redirects: source page, destination page (R396). -/
  redirects : SMap Nat
  rt : List RtEntry
  rtFull : Bool
  /-- Retirements after the table was full, which last until the next power cycle (R399). -/
  rtLate : List RtEntry
  meas : SMap (BitVec 512)
  /-- MSI-X table by doubleword number, pending bits by vector (R382, R387). -/
  msix : SMap W64
  pba : SMap Bool
  /-- Messages sent to the host: address and data, oldest first. -/
  msgs : List (W64 × W64)
  /-- Host requests that wait for an earlier one, oldest first (R386). -/
  hostQ : List HostReq
  /-- Answers to host reads, oldest first. -/
  hostReads : List (List Byte)
  remotes : List Remote
  /-- Harts whose access to the local store of a migrating core is held, with the LCID, in the order held (R412). -/
  heldAt : List (Nat × Nat)
  /-- Scale-up ports whose link is down (R390). -/
  linksDown : BitVec 8
  /-- Full/empty requests of peers that wait at a local store, oldest first. -/
  peerWaits : List PeerWait
  /-- Posted writes sent to peers, oldest first. -/
  outbox : List Sent
  /-- Answers to peers' requests, oldest first: `none` is a refusal, `some none` poisoned data. -/
  peerAnswers : List (Option (Option (BitVec 512)))
  /-- PHASE0 to PHASE15 and THERM_LIMIT, one table for the module (R377). -/
  phase : SMap (BitVec 32)
  thermLimit : BitVec 8
  deriving DecidableEq, Repr

/-- Why a step can stop. -/
inductive Fault where
  /-- An instruction is run with no hart issuing it. Raised by every instruction's meaning when `State.cur` names no
  hart. Safe: no step of the machine runs an instruction without a hart. -/
  | noHart
  deriving DecidableEq, Repr

/-- Why an instruction is refused. -/
inductive Refusal where
  /-- The instruction has no meaning yet. Raised by `exec`'s arms only. Safe. -/
  | notModelled (mnemonic : String)
  deriving DecidableEq, Repr

/-- The machine right after reset: every field at its stated value, no launch running, memory with nothing listed (R3,
R70, R303, R350, R384, R394) (DESIGN CHOICE, log 1, DESIGN CHOICE, log 3). -/
def State.reset : State where
  agenda := []
  who := 0
  cur := none
  asleep := []
  elemOrder := []
  keep := false
  serial := 0
  mem := []
  lines := []
  poison := []
  heat := []
  flips := []
  rows := []
  upsets := []
  badRows := []
  tileWords := []
  tiles := []
  ucode := []
  cores := []
  lcids := []
  bars := []
  gangs := []
  harts := []
  lqs := []
  tlb := []
  lbuf := []
  replicas := []
  nodes := []
  atoms := []
  parks := []
  migs := []
  prgn := []
  tuples := []
  pmsgs := []
  pparks := []
  preplies := []
  pages := 0
  dev := DevCtl.reset
  routes := []
  mq := MQ.reset
  redirects := []
  rt := []
  rtFull := false
  rtLate := []
  meas := []
  msix := []
  pba := []
  msgs := []
  hostQ := []
  hostReads := []
  remotes := []
  heldAt := []
  linksDown := 0
  peerWaits := []
  outbox := []
  peerAnswers := []
  phase := []
  thermLimit := 95

end Sys2Proof.Machine
end

