-- ==== Sys2Proof/Machine/Ops.lean ====
section
/-! DEFINITION. The named operations over the state: agents, rows, tiles, homes and physical memory (R9 to R30, R219),
scalar registers (R65 to R68), and taking a trap (R368) with the return from one (R369). -/

namespace Sys2Proof.Machine

open Sys2Proof

/-! ## Agents -/

/-- The state has changed, so sleeping harts are looked at again. -/
def awake (s : State) : State := { s with asleep := [] }

/-- The hart with this key. -/
def State.hartAt (s : State) (id : Nat) : Option Hart := SMap.find s.harts id

/-- Replace a hart. -/
def State.putHart (s : State) (id : Nat) (h : Hart) : State := { s with harts := SMap.put s.harts id h }

/-- The core with this physical index (R9). -/
def State.coreAt (s : State) (p : Nat) : Core := SMap.getD s.cores p Core.fresh

/-- Replace a core. -/
def State.putCore (s : State) (p : Nat) (c : Core) : State := { s with cores := SMap.setD s.cores p Core.fresh c }

/-- Launch queue q (R350). -/
def State.lqAt (s : State) (q : Nat) : LQ := SMap.getD s.lqs q LQ.reset

/-- Replace a launch queue. -/
def State.putLq (s : State) (q : Nat) (l : LQ) : State := { s with lqs := SMap.setD s.lqs q LQ.reset l }

/-- The gang with this key. -/
def State.gangAt (s : State) (g : Nat) : Option Gang := SMap.find s.gangs g

/-- Replace a gang. -/
def State.putGang (s : State) (k : Nat) (g : Gang) : State := { s with gangs := SMap.put s.gangs k g }

/-- The key of a hart: its queue and HARTID. -/
def hartKey (q hartid : Nat) : Nat := 65536 * q + hartid

/-- The key of a gang: its queue and ordinal. -/
def gangKey (q ordinal : Nat) : Nat := 65536 * q + ordinal

/-- The launch running from queue q. -/
def State.launchAt (s : State) (q : Nat) : Option Launch := (s.lqAt q).launch

/-- Replace the launch of queue q. -/
def State.putLaunch (s : State) (q : Nat) (l : Option Launch) : State :=
  s.putLq q { s.lqAt q with launch := l }

/-- LCID of the core with physical index p (R29) (DESIGN CHOICE, log 3). -/
def State.lcidOf (s : State) (p : Nat) : Nat := SMap.getD s.lcids p p

/-- The core that bears LCID j, one of its cluster's 24 (R29). -/
def State.coreOfLcid (s : State) (j : Nat) : Nat :=
  ((List.range 24).map fun c => 24 * (j / 24) + c).find? (fun p => s.lcidOf p == j) |>.getD j

/-- Exchange the LCIDs of two cores (R29, R375). -/
def State.swapLcids (s : State) (p q : Nat) : State :=
  let a := s.lcidOf p
  let b := s.lcidOf q
  { s with lcids := SMap.setD (SMap.setD s.lcids p p b) q q a }

/-- The gang that holds core p, with its key. -/
def State.gangOn (s : State) (p : Nat) : Option (Nat × Gang) :=
  s.gangs.find? fun e => e.2.first ≤ p && p < e.2.first + e.2.g

/-- Whether a commit of queue q's launch is under way (R249). -/
def State.committing (s : State) (q : Nat) : Bool :=
  match s.launchAt q with
  | some la => la.commit.isSome
  | none => false

/-- Whether core p belongs to the pair of a migration in progress (R380); one whose gang is in a commit begins to hold
traffic when the commit is over. -/
def State.coreMoving (s : State) (p : Nat) : Bool :=
  s.migs.any fun m =>
    ((m.src ≤ p && p < m.src + m.size) || (m.dst ≤ p && p < m.dst + m.size)) &&
      (m.moved || !s.committing (m.gang / 65536))

/-- The LCID in a local-store address (R27). -/
def lcidIn (pa : Nat) : Nat := (pa % 2 ^ 46 - 0x200000000000) / 0x200000

/-- Whether the place of an access that was held for core LCID l keeps it at its sender: a core that bears the LCID moves,
or an access held before it for that LCID has still to go (R412). -/
def State.placeHeld (s : State) (id l : Nat) : Bool :=
  s.coreMoving (s.coreOfLcid l) || (s.heldAt.takeWhile fun e => e.1 != id).any fun e => e.2 == l

/-- A hart or an engine gives up its place among the held accesses (R412). -/
def State.givePlace (s : State) (id : Nat) : State := { s with heldAt := s.heldAt.filter fun e => e.1 != id }

/-- It gives up a place that holds it no longer: what it still waits for has nothing to do with a migration. -/
def State.endPlace (s : State) (id : Nat) : State :=
  { s with heldAt := s.heldAt.filter fun e => e.1 != id || s.placeHeld id e.2 }

/-- Number of set bits. -/
def popCount (n : Nat) (x : Nat) : Nat := ((List.range n).filter fun i => x.testBit i).length

/-- The lanes present on core p, ascending (R12). -/
def State.lanesOf (s : State) (p : Nat) : List Nat :=
  (List.range 8).filter fun g => (s.coreAt p).lanes.getLsbD g

/-- NA of core p: its gang's (R20), or every present lane's when no gang holds it (R12). -/
def State.naOf (s : State) (p : Nat) : Nat :=
  match s.gangOn p with
  | some (_, g) => g.na
  | none => 4 * (s.lanesOf p).length

/-- Physical array of logical array a on core p (R12): present lanes in ascending order. -/
def State.physArray (s : State) (p a : Nat) : Nat := 4 * (s.lanesOf p).getD (a / 4) 0 + a % 4

/-- Size in bytes of core p's local store (R13). -/
def State.lsSize (s : State) (p : Nat) : Nat := s.naOf p * 65536

/-! ## Rows -/

/-- Key of a row in `State.rows`. -/
def rowKey (p arr row : Nat) : Nat := (p * 32 + arr) * 1024 + row

/-- Key of local-store row L of core p (R13). -/
def State.lsRow (s : State) (p l : Nat) : Nat :=
  let na := s.naOf p
  rowKey p (s.physArray p (l % na)) (l / na)

/-- A row. -/
def State.rowAt (s : State) (k : Nat) : Row := SMap.getD s.rows k Row.clear

/-- Replace a row. -/
def State.putRow (s : State) (k : Nat) (r : Row) : State := { s with rows := SMap.setD s.rows k Row.clear r }

/-- The groups of bits that share check bits (R92): group d below 8 is doubleword d with its 8 check bits, group 8 the
full/empty bits and tags with their 6. Bits of a row are numbered as `State.upsets` lists them. -/
def inGroup (d b : Nat) : Bool :=
  if d < 8 then b / 64 == d && b < 512 || 536 + 8 * d ≤ b && b < 544 + 8 * d
  else 512 ≤ b && b < 536 || 600 ≤ b && b < 606

/-- The bits of a row that are upset (R99). -/
def State.upsetBits (s : State) (k : Nat) : List Nat :=
  s.upsets.filterMap fun e => if e.1 / 1024 = k then some (e.1 % 1024) else none

/-- The upset bits of a group of a row. -/
def State.upsetsIn (s : State) (k d : Nat) : List Nat := (s.upsetBits k).filter (inGroup d)

/-- Drop the upsets of a group of a row. -/
def State.dropUpsets (s : State) (k d : Nat) : State :=
  { s with upsets := SMap.restrict s.upsets fun e => !(e / 1024 == k && inGroup d (e % 1024)) }

/-- Whether a row-mode read of word w of a row meets a double-bit error, in its doubleword or in the full/empty bits
that the row port moves with it, or a row left poisoned (R92, R99) (DEDUCED, log 9). -/
def State.wordBad (s : State) (k w : Nat) : Bool :=
  SMap.getD s.badRows k false || 2 ≤ (s.upsetsIn k (w / 2)).length || 2 ≤ (s.upsetsIn k 8).length

/-- The row as a compare pass sees it: raw bits, upsets included (R99) (DEDUCED, log 9). -/
def State.rawRow (s : State) (k : Nat) : Row :=
  let r := s.rowAt k
  if s.upsets.isEmpty then r
  else
    let flip (lo hi : Nat) : Nat := (((s.upsetBits k).filter fun b => lo ≤ b && b < hi).map fun b => 2 ^ (b - lo)).sum
    ⟨r.data ^^^ BitVec.ofNat 512 (flip 0 512), r.full ^^^ BitVec.ofNat 16 (flip 512 528),
      r.tags ^^^ BitVec.ofNat 8 (flip 528 536)⟩

/-- Log an event in MCHKLOG of a core (R376). -/
def State.logCore (s : State) (p bit : Nat) : State :=
  let c := s.coreAt p
  s.putCore p { c with mchk := c.mchk ||| (1#7 <<< bit) }

/-- A group of a row whose bits as they stand are good: an uncorrectable error stays in them. -/
def Row.settled (r raw : Row) (d : Nat) : Row :=
  if d < 8 then { r with data := putBits r.data (64 * d) 64 (takeBits raw.data (64 * d) 64) }
  else ⟨r.data, raw.full, raw.tags⟩

/-- What a write does to the group of a row it writes into (R99): a single-bit error is corrected and logged; with a
double-bit error the other bits stay as they stand, and the new check bits cover them (DEDUCED, log 9). -/
def State.mendGroup (s : State) (k d : Nat) : State :=
  if s.upsets.isEmpty then s
  else
    match (s.upsetsIn k d).length with
    | 0 => s
    | 1 => (s.dropUpsets k d).logCore (k / 32768) 0
    | _ => ((s.dropUpsets k d).putRow k ((s.rowAt k).settled (s.rawRow k) d)).logCore (k / 32768) 1

/-- What a write of bits [start, start + width) does to the check groups it touches; a whole row written is good (R99,
DEDUCED, log 9). -/
def State.mendRow (s : State) (k start width : Nat) : State :=
  let s := if width = 512 then { s with badRows := SMap.del s.badRows k } else s
  if s.upsets.isEmpty then s
  else
    (List.range 8).foldl (fun s d => if start < 64 * d + 64 && 64 * d < start + width then s.mendGroup k d else s) s

/-- What a row-mode read of words of a row logs: a corrected single-bit error, a double-bit error found (R99, R376)
(DEDUCED, log 9). -/
def State.noteRow (s : State) (k : Nat) (ws : List Nat) : State :=
  if s.upsets.isEmpty then s
  else
    (List.range 9).foldl (fun s d =>
      if d < 8 && !(ws.any fun w => w / 2 == d) then s
      else
        match (s.upsetsIn k d).length with
        | 0 => s
        | 1 => s.logCore (k / 32768) 0
        | _ => s.logCore (k / 32768) 1) s

/-- Write bits [start, start + width) of a row. -/
def State.writeRow (s : State) (k start width v : Nat) : State :=
  let s := s.mendRow k start width
  let r := s.rowAt k
  s.putRow k { r with data := putBits r.data start width v }

/-- The 32-bit words that bits [start, start + width) touch, as a mask. -/
def wordMask (start width : Nat) : BitVec 16 :=
  BitVec.ofNat 16 ((Fld.wordsOf start width).map fun w => 2 ^ w).sum

/-- Mark words of a row full or empty. -/
def State.markRow (s : State) (k : Nat) (m : BitVec 16) (full : Bool) : State :=
  let s := s.mendGroup k 8
  let r := s.rowAt k
  s.putRow k { r with full := if full then r.full ||| m else r.full &&& ~~~m }

/-- Set tag t of a row. -/
def State.tagRow (s : State) (k : Nat) (t : Tag) (b : Bool) : State :=
  let s := s.mendGroup k 8
  let r := s.rowAt k
  let m : BitVec 8 := 1#8 <<< t.toNat
  s.putRow k { r with tags := if b then r.tags ||| m else r.tags &&& ~~~m }

/-- Clear every row of core p (R360). -/
def State.clearRows (s : State) (p : Nat) : State :=
  let keep (k : Nat) : Bool := k / 32768 != p
  { s with
    rows := SMap.restrict s.rows keep
    badRows := SMap.restrict s.badRows keep
    upsets := SMap.restrict s.upsets fun e => keep (e / 1024) }

/-! ## Tiles -/

/-- Key of tile t of core p's engine. -/
def tileKey (p t : Nat) : Nat := p * 16 + t

/-- State of a tile (R192). -/
def State.tileAt (s : State) (k : Nat) : Tile := SMap.getD s.tiles k Tile.free

/-- Replace a tile's state. -/
def State.putTile (s : State) (k : Nat) (t : Tile) : State := { s with tiles := SMap.setD s.tiles k Tile.free t }

/-- Word w of tile k. -/
def State.tileWord (s : State) (k w : Nat) : BitVec 32 := SMap.getD s.tileWords (k * 4096 + w) 0

/-- Replace the words of tile k: those listed, the others zero. -/
def State.putTileWords (s : State) (k : Nat) (ws : List (BitVec 32)) : State :=
  let others (p : Nat → Bool) := SMap.restrict s.tileWords p
  let mine := ((List.range ws.length).zip ws).filterMap fun e => if e.2 = 0 then none else some (k * 4096 + e.1, e.2)
  { s with tileWords := others (fun j => j < k * 4096) ++ mine ++ others (fun j => (k + 1) * 4096 ≤ j) }

/-- Zero the tiles of core p's engine and free them (R360). -/
def State.clearTiles (s : State) (p : Nat) : State :=
  { s with
    tileWords := SMap.restrict s.tileWords fun k => k / 65536 != p
    tiles := SMap.restrict s.tiles fun k => k / 16 != p }

/-! ## Homes and physical memory -/

/-- Where a physical address lives (R27, R219). -/
inductive Home where
  | mem (a : Nat)
  | ls (core off : Nat)
  | ctrl (off : Nat)
  | remote
  /-- Reserved, unattached or unroutable: DATA_XLATE (R27, R224, R388). -/
  | absent
  deriving DecidableEq, Repr

/-- The physical address of this device's local-store byte `off` of the core with LCID j (R27). -/
def State.lsPa (s : State) (j off : Nat) : Nat := s.dev.devid * 2 ^ 46 + 0x200000000000 + j * 0x200000 + off

/-- Whether device-local address a lies in present HBM4E or Undercroft (R27, R384, R392, R400). -/
def State.memPresent (s : State) (a : Nat) : Bool :=
  (a < 0x6000000000 && a < s.dev.hbmHalf * 2 ^ 29) ||
  (0x100000000000 ≤ a && a < 0x110000000000 + s.dev.ucGib * 2 ^ 30 && a < 0x200000000000)

/-- Whether a device's layout has something at [45:0]: every other range is reserved on every device (R27). -/
def inLayout (a : Nat) : Bool :=
  a < 0x6000000000 || (0x100000000000 ≤ a && a < 0x200030000000) || (0x300000000000 ≤ a && a < 0x300004000000)

/-- The home of a physical address (R26, R27, R219, R388). -/
def State.home (s : State) (pa : Nat) : Home :=
  let d := pa / 2 ^ 46
  let a := pa % 2 ^ 46
  if 768 ≤ d then .absent
  else if d ≠ s.dev.devid then if inLayout a && (SMap.getD s.routes d 0).getLsbD 3 then .remote else .absent
  else if s.memPresent a then .mem a
  else if 0x200000000000 ≤ a && a < 0x200030000000 then
    let p := s.coreOfLcid ((a - 0x200000000000) / 0x200000)
    let off := a % 0x200000
    if off < s.lsSize p then .ls p off else .absent
  else if 0x300000000000 ≤ a && a < 0x300004000000 then .ctrl (a - 0x300000000000)
  else .absent

/-- The page that n redirects in a row lead to (R396). -/
def State.redirectPage (s : State) : Nat → Nat → Nat
  | 0, p => p
  | n + 1, p =>
    match SMap.find s.redirects p with
    | some q => s.redirectPage n q
    | none => p

/-- Where an access to a page goes after the redirects of moved pages (R396) (DEDUCED, log 41). -/
def State.redirect (s : State) (a : Nat) : Nat :=
  s.redirectPage s.redirects.length (a / 65536) * 65536 + a % 65536

/-- A physical address after the redirects of moved pages: two addresses of one byte of memory have one place (R237,
R396). -/
def State.placeOfPa (s : State) (pa : Nat) : Nat :=
  match s.home pa with
  | .mem a => pa - a + s.redirect a
  | _ => pa

/-- The canonical form of memory: addresses strictly rising, no entry equal to what an unlisted address reads as. -/
def Memory.wf (m : List Host.Cell) : Bool := SMap.wf (0 : Byte) m

/-- Byte i of a cached line. -/
def CLine.byte (l : CLine) (i : Nat) : Byte := l.data.extractLsb' (8 * i) 8

/-- A byte of HBM4E or the Undercroft as its home gives it: the cached line's, else memory's (R219); a byte nothing has
written reads zero (DESIGN CHOICE, log 1). -/
def State.memByte (s : State) (a : Nat) : Byte :=
  match SMap.find s.lines (s.redirect a / 64) with
  | some l => l.byte (s.redirect a % 64)
  | none => SMap.getD s.mem (s.redirect a) 0

/-- Write a byte of HBM4E or the Undercroft at its home: in the cached line, else in memory (R219) (DESIGN CHOICE, log
1). -/
def State.setMemByte (s : State) (a : Nat) (b : Byte) : State :=
  let p := s.redirect a
  match SMap.find s.lines (p / 64) with
  | some l =>
    { s with lines := SMap.put s.lines (p / 64) ⟨putBits l.data (8 * (p % 64)) 8 b.toNat, true⟩ }
  | none => { s with mem := SMap.setD s.mem p 0 b, flips := SMap.del s.flips p }

/-- Write bytes of HBM4E or the Undercroft, ascending from a. -/
def State.setMemBytes (s : State) (a : Nat) : List Byte → State
  | [] => s
  | b :: t => (s.setMemByte a b).setMemBytes (a + 1) t

/-- Read n bytes of memory or of one local-store row; other homes give none. -/
def State.physRead (s : State) (pa n : Nat) : List Byte :=
  match s.home pa with
  | .mem a => (List.range n).map fun i => s.memByte (a + i)
  | .ls p off => leBytes n (takeBits (s.rowAt (s.lsRow p (off / 64))).data (8 * (off % 64)) (8 * n))
  | _ => []

/-- Read a little-endian value of n bytes. -/
def State.physVal (s : State) (pa n : Nat) : Nat := leNat (s.physRead pa n)

/-- Whether a read of n bytes meets poisoned data (R99, R398). -/
def State.physPoison (s : State) (pa n : Nat) : Bool :=
  match s.home pa with
  | .mem a => SMap.getD s.poison (s.redirect a / 64) false
  | .ls p off =>
    (Fld.wordsOf (8 * (off % 64)) (8 * n)).any fun w => s.wordBad (s.lsRow p (off / 64)) w
  | _ => false

/-- Whether a device-local memory address lies in the page the migration engine is moving (R396). -/
def State.inMove (s : State) (a : Nat) : Bool :=
  match s.mq.moving with
  | some m => s.redirect a / 65536 == m.src
  | none => false

/-- Hold a write behind a page move, in order of arrival (R396). -/
def State.hold (s : State) (w : Held) : State :=
  { s with mq := { s.mq with moving := s.mq.moving.map fun m => { m with held := m.held ++ [w] } } }

/-- Perform a store at its home in memory; one that writes a whole line clears its poison mark (R398). -/
def State.memStore (s : State) (a : Nat) (bs : List Byte) : State :=
  let s := s.setMemBytes a bs
  if a % 64 = 0 && bs.length = 64 then { s with poison := SMap.del s.poison (s.redirect a / 64) } else s

/-- The scale-up port an access to another device goes out on (R388). -/
def State.portOf (s : State) (pa : Nat) : Nat := ((SMap.getD s.routes (pa / 2 ^ 46) 0).extractLsb' 0 3).toNat

/-- Perform a store at its home: memory, a local-store row, or a posted write on another device's port (R245, R389). A
store to a page being moved is held (R396); one whose link is down, or that has no route any more, is dropped and logged
(R390). -/
def State.physWrite (s : State) (pa : Nat) (bs : List Byte) : State :=
  match s.home pa with
  | .mem a => if s.inMove a then s.hold ⟨pa, bs, false⟩ else s.memStore a bs
  | .ls p off => s.writeRow (s.lsRow p (off / 64)) (8 * (off % 64)) (8 * bs.length) (leNat bs)
  | .remote =>
    if s.linksDown.getLsbD (s.portOf pa) then { s with dev := { s.dev with linkErr := true } }
    else { s with outbox := s.outbox ++ [⟨s.portOf pa, pa, bs⟩] }
  | _ => if pa / 2 ^ 46 = s.dev.devid then s else { s with dev := { s.dev with linkErr := true } }

/-- Store a little-endian value of n bytes. -/
def State.physStore (s : State) (pa n v : Nat) : State := s.physWrite pa (leBytes n v)

/-- The full/empty bits of the n words from a local-store address, one row. -/
def State.lsFull (s : State) (p off n : Nat) : List Bool :=
  let r := s.rowAt (s.lsRow p (off / 64))
  (List.range n).map fun i => r.full.getLsbD (off % 64 / 4 + i)

/-- Mark n words from a local-store address, within one row. -/
def State.lsMark (s : State) (p off n : Nat) (full : Bool) : State :=
  s.markRow (s.lsRow p (off / 64)) (wordMask (8 * (off % 64)) (32 * n)) full

/-! ## Scalar registers -/

/-- Read a scalar register; s0 reads zero (R65). -/
def Hart.reg (h : Hart) (r : Reg) : W64 := if r = 0 then 0 else h.regs[r.toNat]'(r.isLt)

/-- Write a scalar register: it becomes full and loses a poison mark (R68). A write to s0 is discarded (R65). -/
def Hart.setReg (h : Hart) (r : Reg) (v : W64) : Hart :=
  if r = 0 then h
  else
    { h with
      regs := h.regs.set r.toNat v r.isLt
      full := h.full ||| (1#64 <<< r.toNat)
      poison := h.poison &&& ~~~(1#64 <<< r.toNat) }

/-- Whether a register is full; s0 always is (R65). -/
def Hart.isFull (h : Hart) (r : Reg) : Bool := r == 0 || h.full.getLsbD r.toNat

/-- Whether a register is marked poisoned (R68). -/
def Hart.isPoisoned (h : Hart) (r : Reg) : Bool := r != 0 && h.poison.getLsbD r.toNat

/-- Mark a register empty (R66). -/
def Hart.empty (h : Hart) (r : Reg) : Hart :=
  if r = 0 then h
  else
    { h with
      full := h.full &&& ~~~(1#64 <<< r.toNat)
      poison := h.poison &&& ~~~(1#64 <<< r.toNat) }

/-- A long-latency result: the register is empty until REGISTER_FILL delivers the value (R66) (DESIGN CHOICE, log 12).
-/
def Hart.later (h : Hart) (r : Reg) (v : W64) : Hart :=
  if r = 0 then h else { h.empty r with fills := h.fills ++ [⟨r, v, false⟩] }

/-- A long-latency producer that received poison: the register stays empty and poisoned (R68). -/
def Hart.laterPoison (h : Hart) (r : Reg) (v : W64) : Hart :=
  if r = 0 then h else { h.empty r with fills := h.fills ++ [⟨r, v, true⟩] }

/-- Deliver one result (R66, R68); one for s0 is discarded (R65). -/
def Hart.deliver (h : Hart) (f : Fill) : Hart :=
  if f.reg = 0 then h
  else if f.poison then
    { h with
      full := h.full &&& ~~~(1#64 <<< f.reg.toNat)
      poison := h.poison ||| (1#64 <<< f.reg.toNat)
      poisonVal := SMap.put h.poisonVal f.reg.toNat f.value }
  else h.setReg f.reg f.value

/-- The instruction a hart is at. -/
def Hart.current (h : Hart) : Option Instr := h.conv.bind fun c => c.instrs[c.idx]?

/-- Raise flags, remembering those that changed from 0 to 1 for the watch (R71, R372). -/
def Hart.raise (h : Hart) (f : BitVec 6) : Hart :=
  { h with
    fst := h.fst ||| f
    conv := h.conv.map fun c => { c with raised := c.raised ||| (f &&& ~~~h.fst) } }

/-- Land at an address (R38, R39): the pc holds no bits [1:0]. -/
def Hart.landAt (h : Hart) (t : W64) : Hart :=
  { h with pc := t &&& ~~~3#64, entry := if t.toNat % 4 = 0 then .landing else .misaligned }

/-- The bits [51:2] of an address register. -/
def addrBits (x : W64) : W64 := x &&& 0x000FFFFFFFFFFFFC

/-! ## Ending a launch, taking a trap and returning from one -/

/-- End the launch of queue q (R373): the ending of the first hart to do so is kept. -/
def State.endLaunch (s : State) (q status : Nat) (pc val : W64) (hartid : Nat) : State :=
  match s.launchAt q with
  | some l =>
    match l.ending with
    | some _ => s
    | none => s.putLq q { s.lqAt q with state := 5, launch := some { l with ending := some (status, pc, val, hartid) } }
  | none => s

/-- Flags that the convoy at the pc has changed from 0 to 1 join the hart's pending watch set, except in a handler
(R372). -/
def Hart.keepFlags (h : Hart) (new : BitVec 6) : Hart :=
  if h.uh || h.ph || new = 0 then h
  else { h with pwatch := (if h.pwatchPc = h.pc then h.pwatch else 0) ||| new, pwatchPc := h.pc }

/-- Raise the flags of committed matrix results, at a convoy boundary or where FST is read or written (R130, R372)
(DEDUCED, log 37). -/
def Hart.takeFlags (h : Hart) : Hart :=
  match h.conv with
  | some _ => { h.raise h.mflags with mflags := 0 }
  | none => { h with fst := h.fst ||| h.mflags, mflags := 0 }.keepFlags (h.mflags &&& ~~~h.fst)

/-- Forget the convoy in progress; its committed flag changes, with those of matrix results, stay as the pending watch
set, except for a convoy of a handler (R372) (DEDUCED, log 37). -/
def Hart.dropConv (h : Hart) : Hart :=
  let h := h.takeFlags
  { h with conv := none, waiting := false, done := 0, taken := [] }.keepFlags (match h.conv with | some c => c.raised | none => 0)

/-- The hart in its handler (R368): the user handler for a user-class cause of an unprivileged hart that is not in it
and has one, the privileged handler otherwise; `none` when there is no handler to enter. -/
def Hart.trapped (h : Hart) (c : Cause) (addr : W64) (k : Nat) (tval : W64) : Option Hart :=
  let h := { h with entry := .landing, ci := 0, waiting := false, done := 0, taken := [], conv := none, cwait := none }
  if c.user && !h.view && !h.uh && h.uhpc ≠ 0 then
    some { h with
      uh := true, tcode := BitVec.ofNat 8 c.code, tpc := addrBits addr, tci := BitVec.ofNat 2 k, tval := tval
      pc := h.uhpc }
  else if h.ph || h.tvec = 0 then none
  else
    some { h with
      ph := true, ppv := h.view, ptcode := BitVec.ofNat 8 c.code, ptpc := addrBits addr, ptci := BitVec.ofNat 2 k
      ptval := tval, pc := h.tvec, view := true }

/-- Take a trap with cause c at the convoy at `addr`, instruction k (R368); with no handler the launch ends (R373). -/
def State.takeTrap (s : State) (id : Nat) (h : Hart) (c : Cause) (addr : W64) (k : Nat) (tval : W64) : State :=
  match h.dropConv.trapped c addr k tval with
  | some h' => s.putHart id h'
  | none => (s.putHart id { h.dropConv with conv := none }).endLaunch h.queue c.code addr tval h.hartid

/-- A return lands at `addr` from instruction `ci` (R369); a return to another convoy empties the pending watch set
(R372). -/
def Hart.returnTo (h : Hart) (addr : W64) (ci : Nat) : Hart :=
  { h with
    pc := addr, ci := ci, entry := .trapReturn
    pwatch := if addr = h.pwatchPc then h.pwatch else 0 }

/-- URET's effect (R369). -/
def Hart.uret (h : Hart) : Hart := { h.returnTo h.tpc h.tci.toNat with uh := false }

/-- ERET's effect (R369). -/
def Hart.eret (h : Hart) : Hart := { h.returnTo h.ptpc h.ptci.toNat with view := h.ppv, ph := false }

end Sys2Proof.Machine
end

