-- ==== Sys2Proof/Machine/Shake.lean ====
section
/-! DEFINITION. SHAKE256 (FIPS 202) of a short message, for the chain of the retirement table (R399, log 22). -/

namespace Sys2Proof.Machine

open Sys2Proof

namespace Keccak

/-- Rotation offsets of lanes x + 5y. -/
def rots : List Nat := [0, 1, 62, 28, 27, 36, 44, 6, 55, 20, 3, 10, 43, 25, 39, 41, 45, 15, 21, 8, 18, 2, 61, 56, 14]

/-- Round constants. -/
def consts : List W64 :=
  [0x0000000000000001, 0x0000000000008082, 0x800000000000808A, 0x8000000080008000, 0x000000000000808B,
    0x0000000080000001, 0x8000000080008081, 0x8000000000008009, 0x000000000000008A, 0x0000000000000088,
    0x0000000080008009, 0x000000008000000A] ++
  [0x000000008000808B, 0x800000000000008B, 0x8000000000008089, 0x8000000000008003, 0x8000000000008002,
    0x8000000000000080, 0x000000000000800A, 0x800000008000000A, 0x8000000080008081, 0x8000000000008080,
    0x0000000080000001, 0x8000000080008008]

/-- Lane x + 5y. -/
def lane (a : List W64) (x y : Nat) : W64 := a.getD (x % 5 + 5 * (y % 5)) 0

/-- One round: theta, rho, pi, chi, iota. -/
def round (a : List W64) (rc : W64) : List W64 :=
  let c : List W64 := (List.range 5).map fun x => lane a x 0 ^^^ lane a x 1 ^^^ lane a x 2 ^^^ lane a x 3 ^^^ lane a x 4
  let d : List W64 := (List.range 5).map fun x => c.getD ((x + 4) % 5) 0 ^^^ (c.getD ((x + 1) % 5) 0).rotateLeft 1
  let t : List W64 := (List.range 25).map fun i => (a.getD i 0 ^^^ d.getD (i % 5) 0).rotateLeft (rots.getD i 0)
  let b : List W64 := (List.range 25).map fun i => lane t (i % 5 + 3 * (i / 5)) (i % 5)
  let e : List W64 := (List.range 25).map fun i =>
    lane b (i % 5) (i / 5) ^^^ (~~~lane b (i % 5 + 1) (i / 5) &&& lane b (i % 5 + 2) (i / 5))
  e.set 0 (e.getD 0 0 ^^^ rc)

/-- The permutation. -/
def permute (a : List W64) : List W64 := consts.foldl round a

end Keccak

/-- The first 32 bits of SHAKE256 over a 16-byte message of two little-endian doublewords, as a little-endian number
(DEDUCED, log 22). -/
def shake32 (w0 w1 : W64) : BitVec 32 :=
  ((Keccak.permute ([w0, w1, 0x1F] ++ List.replicate 13 0 ++ [0x8000000000000000] ++ List.replicate 8 0)).getD 0 0).setWidth 32

end Sys2Proof.Machine
end

