-- ==== Sys2Proof/Config.lean ====
section
/-! DEFINITION. What the spec leaves open, as constants without a body: nothing can be proved of their values. -/

namespace Sys2Proof.Config

/-- Which neighbour an FP32 special function returns (R179, DESIGN CHOICE, log 20): function code, operand; `true` is
the upper. -/
opaque sfuUpper : Nat → BitVec 32 → Bool

/-- Which two partial results an order-free floating reduction merges next when MODE.LA = 0 (R148, DESIGN CHOICE, log
21): element count, NA, cores of the gang, harts of the gang, step; taken modulo the number of pairs left. -/
opaque mergePick : Nat → Nat → Nat → Nat → Nat → Nat

/-- What a row-mode read of VSCAN or of VRSUM on blocks gives for poisoned data, after which R150 lets neither stop
(DESIGN CHOICE, log 51): a serial number of the instruction, and the element (twice its index, plus one for the scale
field of its block). -/
opaque lostRead : Nat → Nat → BitVec 64

/-- A page-table entry, or a doubleword of a context area, in the memory of another device (R225, R375) (DESIGN CHOICE, log
56): a serial number, and the physical address. -/
opaque farEntry : Nat → Nat → BitVec 64

end Sys2Proof.Config
end

