-- ==== Sys2Proof/Machine/Legal.lean ====
section
/-! DEFINITION. Which encodings are legal: the ILLEGAL_OP rules that depend on the bits of the instruction alone
(R4, R46 to R50, R58 and each chapter's own table). `legal i = false` is ILLEGAL_OP at issue (R55). -/

namespace Sys2Proof

namespace Legal

/-- The V form's common rules: mask bits (R48), no .ord form among the V-form instructions, a known type (R47). -/
def vBase (v : VForm) : Bool := v.m.ok && !v.ord && v.ty ≤ 7

/-- Unused B operand. -/
def bUnused (v : VForm) : Bool := v.B == 0 && !v.pb

/-- The B operand of the associative arithmetic for operand width `w` (R133), among the allowed modes. -/
def bOperand (v : VForm) (w : Nat) (modes : List Nat) : Bool :=
  modes.contains v.bm &&
  match v.bm with
  | 0 => Fld.ok v.B && Fld.width v.B == w && v.x == 0
  | 1 => v.bRegOk && v.x == 0
  | 2 => bUnused v && (isInt v.ty || v.ty == 7 || v.x.toNat < 2 ^ w)
  | _ => false

/-- D may equal a source or be apart from it (R134). -/
def dEqualOk (v : VForm) : Bool :=
  Fld.equalOrApart v.D v.A && (v.bm != 0 || Fld.equalOrApart v.D v.B)

/-- D shares no bit with a source (R134). -/
def dApart (v : VForm) : Bool := !Fld.share v.D v.A && (v.bm != 0 || !Fld.share v.D v.B)

/-- D and A are fields of one width that the type allows. -/
def dA (v : VForm) : Bool :=
  Fld.ok v.D && Fld.ok v.A && Fld.width v.D == Fld.width v.A && typeWidth v.ty (Fld.width v.D)

/-- Binary associative arithmetic (R134): types, option allowed, modes, D equal-or-apart. -/
def binary (v : VForm) (types : Nat → Bool) (opt : Bool) (modes : List Nat) : Bool :=
  vBase v && types v.ty && dA v && bOperand v (Fld.width v.A) modes && (!v.fnb 2 || opt) && dEqualOk v

/-- Unary associative arithmetic (R134). -/
def unary (v : VForm) (types : Nat → Bool) (opt : Bool) : Bool :=
  vBase v && types v.ty && dA v && bUnused v && v.bm == 0 && v.x == 0 && (!v.fnb 2 || opt) &&
  Fld.equalOrApart v.D v.A

def intOrFloat (t : Nat) : Bool := isInt t || isAssocFloat t

/-- VMUL, VDIV and VMULL, whose D shares no bit with a source. -/
def product (v : VForm) (types : Nat → Bool) (opt : Bool) (wD : Nat) : Bool :=
  vBase v && types v.ty && Fld.ok v.D && Fld.ok v.A && typeWidth v.ty (Fld.width v.A) &&
  Fld.width v.D == wD && bOperand v (Fld.width v.A) [0, 1, 2] && (!v.fnb 2 || opt) && dApart v

def vmulh (v : VForm) : Bool :=
  vBase v && isInt v.ty && dA v && (v.bm == 0 || v.bm == 1) && !v.fnb 2 &&
  (if v.bm == 0 then Fld.ok v.B && Fld.width v.B == Fld.width v.A else v.bRegOk) &&
  v.xb 23 15 == 0 && Fld.ok v.fC && Fld.width v.fC == Fld.width v.A && dApart v &&
  !Fld.share v.fC v.A && (v.bm != 0 || !Fld.share v.fC v.B) && !Fld.share v.D v.fC

def vmac (v : VForm) : Bool :=
  vBase v && intOrFloat v.ty && Fld.ok v.D && Fld.ok v.A && typeWidth v.ty (Fld.width v.A) &&
  typeWidth v.ty (Fld.width v.D) && bOperand v (Fld.width v.A) [0, 1, 2] && (!v.fnb 2 || isInt v.ty) && dApart v

def vcmp (v : VForm) : Bool :=
  vBase v && intOrFloat v.ty && v.cc ≤ 5 && bits v.D.toNat 14 6 == 0 && Fld.ok v.A &&
  typeWidth v.ty (Fld.width v.A) && bOperand v (Fld.width v.A) [0, 1, 2] && !v.fnb 2

def vsel (v : VForm) : Bool :=
  vBase v && v.ty ≤ 6 && dA v && (v.bm == 0 || v.bm == 1) && !v.fnb 2 && v.xb 23 3 == 0 &&
  (if v.bm == 0 then Fld.ok v.B && Fld.width v.B == Fld.width v.A else v.bRegOk) && dEqualOk v

def vmov (v : VForm) : Bool :=
  vBase v && v.ty ≤ 6 && !v.fnb 2 && Fld.ok v.D && typeWidth v.ty (Fld.width v.D) &&
  match v.bm with
  | 0 => dA v && bUnused v && v.x == 0 && Fld.equalOrApart v.D v.A
  | 1 => v.A == 0 && !v.pa && v.bRegOk && v.x == 0
  | 2 => v.A == 0 && !v.pa && bUnused v && (isInt v.ty || v.x.toNat < 2 ^ Fld.width v.D)
  | _ => false

/-- A conversion pair (R143): destination 0 to 6, source 0 to `stMax`, and where .sat may stand. -/
def cvtPair (dt st : Nat) (sat : Bool) (stMax : Nat) : Bool :=
  dt ≤ 6 && st ≤ stMax && !(st == 7 && isInt dt) && (!sat || (isInt dt && isInt st) || dt == 5 || dt == 6)

def cvt (v : VForm) (stMax : Nat) : Bool :=
  vBase v && cvtPair v.ty (v.xb 4 0) (v.xb 5 5 == 1) stMax && v.xb 23 6 == 0 && bUnused v && v.fn ≤ 5 &&
  Fld.ok v.D && Fld.ok v.A && typeWidth v.ty (Fld.width v.D) && typeWidth (v.xb 4 0) (Fld.width v.A)

def vpopc (v : VForm) : Bool :=
  vBase v && v.ty == 0 && Fld.ok v.D && Fld.ok v.A && bUnused v && v.fn == 0 && v.x == 0 && !Fld.share v.D v.A

def vbfpq (v : VForm) : Bool :=
  vBase v && v.ty == 7 && Fld.ok v.D && Fld.ok v.A && typeWidth 7 (Fld.width v.D) && !Fld.coversScale v.D &&
  v.xb 4 0 ≤ 6 && v.xb 23 5 == 0 && typeWidth (v.xb 4 0) (Fld.width v.A) && v.fn == 0 && bUnused v &&
  !Fld.share v.D v.A

def vscale (v : VForm) : Bool :=
  vBase v && v.ty == 7 && Fld.ok v.D && typeWidth 7 (Fld.width v.D) && !Fld.coversScale v.D && v.A == 0 && !v.pa &&
  !v.fnb 2 && match v.bm with
    | 1 => v.bRegOk && v.x == 0
    | 2 => bUnused v
    | _ => false

/-! Reductions (R149, R161). -/

def vrsum (v : VForm) : Bool :=
  vBase v && (isInt v.ty || v.ty == 7) && Fld.ok v.A && typeWidth v.ty (Fld.width v.A) && bits v.D.toNat 14 6 == 0 &&
  bUnused v && !v.fnb 2 && !(v.fnb 1 && v.ty == 7) && v.x == 0

def vrminmax (v : VForm) : Bool :=
  vBase v && v.ty ≤ 6 && Fld.ok v.A && typeWidth v.ty (Fld.width v.A) && bits v.D.toNat 14 9 == 0 && bUnused v &&
  !v.fnb 2 && !v.fnb 1 && v.x == 0

def vscan (v : VForm) : Bool :=
  vBase v && isInt v.ty && Fld.ok v.D && Fld.ok v.A && Fld.width v.A ≤ Fld.width v.D && Fld.equalOrApart v.D v.A &&
  bUnused v && !v.fnb 2 && v.xb 23 3 == 0 && (v.fnb 1 || v.x == 0)

def vtopk (v : VForm) : Bool :=
  let td := bits v.D.toNat 8 6
  let tc := bits v.D.toNat 11 9
  vBase v && v.ty ≤ 6 && Fld.ok v.A && typeWidth v.ty (Fld.width v.A) && bits v.D.toNat 14 12 == 0 && v.bRegOk &&
  !v.fnb 2 && !v.fnb 1 && v.x == 0 && td != tc &&
  (!v.m.en || (v.m.tag.toNat != td && v.m.tag.toNat != tc))

def vsimh (v : VForm) : Bool :=
  vBase v && v.ty == 0 && Fld.ok v.D && Fld.ok v.A && !Fld.share v.D v.A && v.bRegOk && !v.fnb 2 && !v.fnb 1 && v.x == 0

def vsimd (v : VForm) : Bool :=
  vBase v && isInt v.ty && Fld.ok v.D && Fld.ok v.A && !Fld.share v.D v.A && v.bRegOk && !v.fnb 2 && v.x == 0 &&
  Fld.width v.A % 2 ^ (bits v.fn4.toNat 1 0) == 0

/-! Cellar (R349). -/

def vcbound (v : VForm) : Bool :=
  vBase v && v.ty == 2 && Fld.ok v.D && Fld.ok v.A && Fld.width v.D == 32 && Fld.width v.A == 64 && v.bRegOk &&
  v.fn == 0 && v.x == 0 && !Fld.share v.D v.A

def vcwalk (v : VForm) : Bool :=
  vBase v && v.ty == 0 && Fld.ok v.D && Fld.ok v.A && Fld.width v.D == 64 && Fld.width v.A ≤ 48 && v.xb 23 6 == 0 &&
  !Fld.share v.D v.A && match v.bm with
    | 0 => Fld.ok v.B && Fld.width v.B == 64 && !Fld.share v.D v.B && !v.pb
    | 1 => v.bRegOk
    | _ => false

def vcdirty (v : VForm) : Bool :=
  vBase v && v.ty == 0 && bits v.D.toNat 14 3 == 0 && Fld.ok v.A && Fld.width v.A ≤ 32 && v.bRegOk && v.bm == 0 &&
  v.xb 23 6 == 0

/-- UNMK (R338, R349): pb is its policy for the field B, as R338 says, where the row "all" of R349 would have it zero
(DEDUCED, log 54). -/
def unmk (v : VForm) : Bool :=
  let tc := v.xb 2 0
  let sp := v.xb 8 3
  let sd := v.xb 14 9
  vBase v && v.m.en && !v.m.compl && v.fn == 0 && v.xb 23 15 == 0 && Fld.ok v.D && Fld.ok v.A && Fld.ok v.B &&
  (v.ty == 0 || v.ty == 3 || v.ty == 4) && typeWidth v.ty (Fld.width v.A) && Fld.width v.A ≤ 16 &&
  Fld.width v.B ≤ 32 && Fld.width v.D == Fld.width v.B && !Fld.share v.D v.A && !Fld.share v.D v.B &&
  v.m.tag.toNat != tc && sp ≤ 59 && !(sp ≤ sd && sd ≤ sp + 4)

/-! Element pipe and special functions (R168, R172). -/

/-- The B operand of the element pipe: x[0] chooses a register (R168). -/
def pipeB (v : VForm) : Bool :=
  v.xb 23 1 == 0 &&
  if v.xb 0 0 == 1 then v.bRegOk else Fld.ok v.B && Fld.width v.B == Fld.width v.A

def pipeBApart (v : VForm) : Bool := v.xb 0 0 == 1 || Fld.equalOrApart v.D v.B

def pipeBinary (v : VForm) (fnMax : Nat) : Bool :=
  vBase v && isPipeFloat v.ty && dA v && pipeB v && v.fn ≤ fnMax && Fld.equalOrApart v.D v.A && pipeBApart v

def pipeUnary (v : VForm) (fnMax : Nat) : Bool :=
  vBase v && isPipeFloat v.ty && dA v && bUnused v && v.x == 0 && v.fn ≤ fnMax && Fld.equalOrApart v.D v.A

def ffma (v : VForm) : Bool :=
  vBase v && isPipeFloat v.ty && dA v && Fld.ok v.B && Fld.width v.B == Fld.width v.A && v.xb 23 15 == 0 &&
  Fld.ok v.fC && Fld.width v.fC == Fld.width v.A && v.fn ≤ 5 && Fld.equalOrApart v.D v.A &&
  Fld.equalOrApart v.D v.B && Fld.equalOrApart v.D v.fC

def fcmp (v : VForm) : Bool :=
  vBase v && isPipeFloat v.ty && Fld.ok v.A && typeWidth v.ty (Fld.width v.A) && pipeB v && v.fn == 0 &&
  v.cc ≤ 5 && bits v.D.toNat 14 6 == 0

/-- FSIN and FCOS have .fast on FP32 only; the other special functions have no option. -/
def sfu (v : VForm) (fast : Bool) : Bool := pipeUnary v (if fast && v.ty == 2 then 1 else 0)

def freduce (v : VForm) : Bool :=
  vBase v && isPipeFloat v.ty && Fld.ok v.A && typeWidth v.ty (Fld.width v.A) && bits v.D.toNat 14 6 == 0 &&
  bUnused v && v.x == 0 && v.fn ≤ 1

/-! Matrix (R202, R203, R209): what does not depend on the gang. -/

def mmaType (v : VForm) : Bool :=
  match v.ty with
  | 0 => v.ew == 4 || v.ew == 8
  | 1 => v.ew == 4 || v.ew == 8
  | 3 => bits v.D.toNat 9 6 == 0
  | 4 => bits v.D.toNat 9 6 == 0
  | 5 => bits v.D.toNat 9 6 == 0
  | 6 => bits v.D.toNat 9 6 == 0
  | 7 => 2 ≤ v.ew && v.ew ≤ 8
  | _ => false

def mma (v : VForm) : Bool :=
  v.m.ok && !v.ord && mmaType v && bits v.D.toNat 14 10 == 0 && Fld.ok v.A && Fld.ok v.B &&
  Fld.width v.A == Fld.width v.B && Fld.width v.A % v.ew == 0 &&
  (!v.fnb 0 || isInt v.ty || v.ty == 5 || v.ty == 6) && bits v.fn4.toNat 2 1 ≤ 2 &&
  (v.m.en || bits v.fn4.toNat 2 1 == 0)

def mmau (v : VForm) : Bool :=
  mma v && v.xb 5 0 == 0 && v.xb 23 12 == 0 && (!v.m.en || bits v.fn4.toNat 2 1 != 0)

/-- Fields the matrix support instructions leave zero. -/
def mRegsZero (o : SForm) (d a : Bool) : Bool :=
  (d || o.d == 0) && (a || (o.a == 0 && !o.pa)) && o.b == 0 && !o.pb && o.so == 0

def mldSta (o : SForm) (sta : Bool) : Bool :=
  mRegsZero o false true && o.e 31 26 == 0 && !o.eb 24 && Fld.ok o.fld &&
  Fld.width o.fld % rowTypeWidth o.mRT == 0 &&
  (!o.eb 25 || (sta && [3, 4, 6, 7].contains o.mRT))

/-! Memory (R81, R234), atomics and synchronisation (R263, R279). -/

def ldsts (o : SForm) (load : Bool) : Bool :=
  o.b == 0 && !o.pb && o.e 31 30 == 0 && o.e 29 27 ≤ 4 && o.e 26 25 ≤ 2 && (o.e 26 25 != 0 || o.e 29 27 == 0) &&
  (load || !o.eb 24)

/-- Vector memory (R234). `stride`, `index`: which address operand; `load`; `row`: RLD and RST. -/
def vmem (o : SForm) (load stride index row : Bool) : Bool :=
  o.d == 0 && (stride || (o.b == 0 && !o.pb)) && o.sz ≤ 2 && o.vScope ≤ 4 && (o.sz != 0 || o.vScope == 0) &&
  (!o.eb 18 || (load && o.sz == 0)) && o.mask.ok && o.e 31 30 == 0 &&
  (if row then o.fld == 0 else Fld.ok o.fld && [8, 16, 32, 64].contains (Fld.width o.fld)) &&
  (if index then !(o.eb 29 && (o.e 28 25 % 2 == 1 || o.e 28 25 > 14)) && !(load && Fld.share o.fld o.vIndex)
   else o.e 29 25 == 0)

def lines (o : SForm) : Bool := o.d == 0 && o.so == 0 && !o.pb && o.e 31 1 == 0

def amo (o : SForm) : Bool :=
  let fn := o.e 3 0
  let order := o.e 10 8
  2 ≤ o.sz && fn ≤ 10 && !(fn == 1 && o.sz == 3) && o.e 7 5 ≤ 4 && order ≤ 4 && (order != 0 || o.e 7 5 == 0) &&
  !(o.eb 4 && (o.d != 0 || order != 0 || fn == 10)) && (fn == 10 || o.e 16 11 == 0) && o.e 31 17 == 0

def vamo (o : SForm) : Bool :=
  let fn := o.e 3 0
  let order := o.e 10 8
  let w := Fld.width o.amoF
  let xj := bits o.b.toNat 3 0
  o.so == 0 && fn ≤ 10 && Fld.ok o.amoF && (w == 32 || w == 64) && !(fn == 1 && w == 64) && o.e 7 5 ≤ 4 && order ≤ 4 &&
  (order != 0 || o.e 7 5 == 0) && !(o.eb 4 && (order != 0 || fn == 10)) && (o.d == 0 || fn == 10) &&
  !o.b.toNat.testBit 5 && !o.pb && !(o.b.toNat.testBit 4 && (xj % 2 == 1 || xj > 14)) && o.amoMask.ok &&
  !Fld.share o.amoF o.amoIndex

/-- LDF, LDFE, STE (and STF, which has no timeout) (R264, R279). -/
def ldf (o : SForm) (timeout : Bool) : Bool :=
  2 ≤ o.sz && !o.pb && (o.eb 16 || o.b == 0) && (timeout || !o.eb 16) && o.e 19 17 ≤ 4 && o.e 31 20 == 0

def feset (o : SForm) : Bool :=
  o.d == 0 && !o.pb && o.sz ≤ 1 && o.e 16 0 == 0 && o.e 19 17 ≤ 4 && o.e 31 20 == 0

def waita (o : SForm) : Bool :=
  2 ≤ o.sz && o.e 2 0 ≤ 5 && (o.eb 3 || o.e 9 4 == 0) && o.e 12 10 ≤ 4 && o.e 31 13 == 0

def stwk (o : SForm) : Bool := o.d == 0 && 2 ≤ o.sz && o.e 2 0 ≤ 4 && o.e 31 3 == 0

def barGang (o : SForm) : Bool := o.sz == 0 && o.a == 0 && !o.pa && !o.pb && (o.eb 0 || o.b == 0) && o.e 31 1 == 0

def barClus (o : SForm) : Bool := o.sz == 1 && !o.pb && (o.eb 0 || o.b == 0) && o.e 31 1 == 0

/-! Copy (R299). -/

def copyBase (o : SForm) (so : Nat) : Bool := o.sz == so && o.e 31 7 == 0

def cpush (o : SForm) : Bool := copyBase o 0 && o.b == 0 && !o.pb && o.e 6 5 == 0

def cstat (o : SForm) : Bool := cpush o && o.a == 0 && !o.pa

def cwait (o : SForm) : Bool :=
  copyBase o 0 && o.d == 0 && o.a == 0 && !o.pa && !o.pb && (o.eb 6 == (o.b != 0)) && !(o.eb 5 && o.cCh != 0)

def ckillRel (o : SForm) : Bool :=
  copyBase o 1 && o.d == 0 && o.b == 0 && !o.pb && o.e 6 5 == 0 && o.cCh == 0

def xrow (o : SForm) : Bool := copyBase o 0 && o.e 6 5 == 0 && o.cCh == 0

/-! Pantry (R309, R314). -/

def patOk (o : SForm) : Bool := (List.range 8).all fun j => j < o.pK || o.pCode j == 0

def pdep (o : SForm) : Bool :=
  o.so == 0 && o.e 31 28 == 0 && o.pRes == 0 && !o.eb 19 && o.e 15 0 == 0 && (o.eb 20 || o.d == 0) &&
  (o.eb 21 || o.b.toNat + o.pK - 1 ≤ 63)

/-- PCOPY and PTAKE: RES is a position that they use in every form, so its value is free in a scalar form without a bound
field (R50, R309) (DESIGN CHOICE, log 68). -/
def pget (o : SForm) : Bool :=
  o.so == 0 && o.e 31 29 == 0 && patOk o && o.pCode 0 == 1 && o.b.toNat + o.pV - 1 ≤ 63 &&
  (!o.eb 28 || o.b.toNat + o.pV ≤ 63) &&
  (o.eb 21 || o.pB == 0 || (o.pRes + o.pB - 1 ≤ 63 && !(o.pRes ≤ o.d.toNat && o.d.toNat < o.pRes + o.pB)))

def pcnt (o : SForm) : Bool :=
  o.so == 0 && o.e 31 29 == 0 && !o.eb 28 && !o.eb 20 && !o.eb 21 && o.pRes == 0 && patOk o && o.pCode 0 == 1 &&
  o.b.toNat + o.pV - 1 ≤ 63

def pcnl (o : SForm) : Bool :=
  o.so == 0 && o.a == 0 && o.b == 0 && !o.pa && !o.pb && o.e 31 6 == 0

/-! Exchange (R185, R186). -/

def xMaskOk (o : SForm) : Bool := o.xmask.ok && !o.b.toNat.testBit 5 && !o.pb

def xFields (o : SForm) : Bool := Fld.ok o.fld && Fld.ok o.xA && Fld.width o.fld == Fld.width o.xA

def vbcast (o : SForm) : Bool :=
  o.so == 0 && o.d == 0 && xMaskOk o && xFields o && o.e 31 30 == 0 && Fld.equalOrApart o.fld o.xA

def vext (o : SForm) : Bool := o.so == 0 && o.b == 0 && !o.pb && o.fld == 0 && Fld.ok o.xA && !o.eb 31

def vins (o : SForm) : Bool := o.so == 0 && o.b == 0 && !o.pb && Fld.ok o.fld && o.e 31 15 == 0

def vslide (o : SForm) : Bool :=
  o.sz ≤ 1 && xMaskOk o && xFields o && o.e 31 30 == 0 && !Fld.share o.fld o.xA

def vpermr (o : SForm) : Bool := vslide o && o.d == 0

/-! Associative primitives (R106, R110, R116). -/

def asrch (o : SForm) : Bool := o.d == 0 && o.so == 0 && o.e 31 25 == 0 && o.mask.ok && Fld.ok o.fld

def litFits (o : SForm) : Bool := Fld.width o.fld ≥ 16 || o.lit16 < 2 ^ Fld.width o.fld

def asrchl (o : SForm) : Bool := o.d == 0 && o.e 31 25 == 0 && o.mask.ok && Fld.ok o.fld && litFits o

def awrExt (o : SForm) : Bool := o.e 19 18 ≤ 2 && o.e 17 15 == 0

def tsh (o : SForm) : Bool :=
  o.d == 0 && o.b == 0 && !o.pb && o.so == 0 && o.e 14 3 == 0 && !o.eb 19 && o.e 31 25 == 0 && o.mask.ok &&
  o.e 2 0 != o.e 17 15

def amcode (o : SForm) (so : Nat) : Bool :=
  o.sz == so && o.d == 0 && 3072 ≤ o.e 11 0 && o.e 19 12 == 0 && o.e 31 25 == 0 && o.mask.ok &&
  (so == 0 || o.e 24 20 == 0)

/-! Privileged class (R374). -/

def sysBase (o : SForm) : Bool := o.so == 0 && o.ext == 0 && !(o.pb && o.b == 0)

/-- Control register numbers of R70. -/
def crNumber (r : BitVec 12) : Bool :=
  let n := r.toNat
  n ≤ 0x006 || (0x010 ≤ n && n ≤ 0x012) || (0x020 ≤ n && n ≤ 0x025) || (0x030 ≤ n && n ≤ 0x035) ||
  (0x040 ≤ n && n ≤ 0x044) || n == 0x050 || (0x060 ≤ n && n ≤ 0x063) || (0x070 ≤ n && n ≤ 0x072) ||
  (0x080 ≤ n && n ≤ 0x084) || (0x090 ≤ n && n ≤ 0x09F)

/-- FENCE's imm12 (R242). -/
def fence (i : BitVec 12) : Bool :=
  let n := i.toNat
  bits n 11 8 == 0 && bits n 2 0 ≤ 4 && bits n 4 3 != 0 && bits n 6 5 != 0 && (!bit n 7 || bits n 6 3 == 15)

def bfield (o : SForm) : Bool := o.e 5 0 + (o.e 11 6 + 1) ≤ 64 && o.so == 0

end Legal

open Legal in
/-- The encoding-only ILLEGAL_OP rules of every instruction (R4, R55). Events have no encoding. -/
def legal : Instr → Bool
  | .fence i => fence i
  | .loop _ _ off => off != 0
  | .crd _ r => crNumber r
  | .cwr _ r => crNumber r
  | .tand _ _ _ m => m.ok
  | .tor _ _ _ m => m.ok
  | .txor _ _ _ m => m.ok
  | .tandn _ _ _ m => m.ok
  | .tnot _ _ m => m.ok
  | .tset _ m => m.ok
  | .tclr _ m => m.ok
  | .tmov _ _ m => m.ok
  | .tcnt _ _ m => m.ok
  | .tany _ _ m => m.ok
  | .tfirst _ _ m => m.ok
  | .tpick td ta _ m => m.ok && td != ta
  | .addw o => o.b == 0 && !o.pb && o.so == 0
  | .movw o => o.a == 0 && o.b == 0 && !o.pa && !o.pb && o.so == 0
  | .movhi o => o.b == 0 && !o.pb && o.so == 0
  | .lds o => ldsts o true
  | .sts o => ldsts o false
  | .bc o => o.d.toNat ≤ 5 && o.so == 0
  | .jl o => o.d == 0 && o.a == 0 && o.b == 0 && !o.pa && !o.pb && o.so == 0
  | .sel o => o.e 31 6 == 0 && o.so == 0
  | .bext o => o.b == 0 && !o.pb && o.e 31 13 == 0 && bfield o
  | .bins o => o.e 31 12 == 0 && bfield o
  | .lpset o => o.e 31 1 == 0 && o.so == 0
  | .movl o _ => o.a == 0 && o.b == 0 && !o.pa && !o.pb && o.so == 0
  | .addl o _ => o.b == 0 && !o.pb && o.so == 0
  | .andl o _ => o.b == 0 && !o.pb && o.so == 0
  | .orl o _ => o.b == 0 && !o.pb && o.so == 0
  | .xorl o _ => o.b == 0 && !o.pb && o.so == 0
  | .bcl o _ => o.d.toNat ≤ 5 && o.b == 0 && !o.pb && o.so == 0
  | .loopl o _ => o.d.toNat ≤ 1 && o.a == 0 && o.b == 0 && !o.pa && !o.pb && o.so == 0 && o.ext != 0
  | .asrch o => asrch o
  | .awr o => asrch o && awrExt o
  | .asrchl o => asrchl o
  | .awrl o => asrchl o && awrExt o
  | .tshup o => tsh o
  | .tshdn o => tsh o
  | .amcodeRun o => amcode o 0
  | .amcodeLoad o => amcode o 1
  | .vadd v => binary v intOrFloat false [0, 1, 2]
  | .vsub v => binary v intOrFloat false [0, 1, 2]
  | .vadds v => binary v isInt false [0, 1, 2]
  | .vsubs v => binary v isInt false [0, 1, 2]
  | .vmul v => product v intOrFloat (isInt v.ty) (Fld.width v.A)
  | .vmulh v => vmulh v
  | .vmac v => vmac v
  | .vneg v => unary v intOrFloat (v.ty == 1)
  | .vabs v => unary v (fun t => t == 1 || isAssocFloat t) (v.ty == 1)
  | .vabsd v => binary v isInt false [0, 1, 2]
  | .vmin v => binary v intOrFloat false [0, 1, 2]
  | .vmax v => binary v intOrFloat false [0, 1, 2]
  | .vand v => binary v isInt false [0, 1, 2]
  | .vor v => binary v isInt false [0, 1, 2]
  | .vxor v => binary v isInt false [0, 1, 2]
  | .vnot v => unary v isInt false
  | .vshl v => binary v isInt true [1, 2]
  | .vshr v => binary v isInt false [1, 2]
  | .vsra v => binary v (· == 1) false [1, 2]
  | .vcmp v => vcmp v
  | .vsel v => vsel v
  | .vmov v => vmov v
  | .vcvt v => cvt v 7 && !Fld.share v.D v.A
  | .vpopc v => vpopc v
  | .vdiv v => product v isInt true (Fld.width v.A)
  | .vmull v => Fld.width v.A ≤ 32 && product v isInt false (2 * Fld.width v.A)
  | .vbfpq v => vbfpq v
  | .vscale v => vscale v
  | .vrsum v => vrsum v
  | .vrmin v => vrminmax v
  | .vrmax v => vrminmax v
  | .vscan v => vscan v
  | .vtopk v => vtopk v
  | .vsimh v => vsimh v
  | .vsimd v => vsimd v
  | .vcbound v => vcbound v
  | .vcwalk v => vcwalk v
  | .vcdirty v => vcdirty v
  | .unmk v => unmk v
  | .fadd v => pipeBinary v 5
  | .fsub v => pipeBinary v 5
  | .fmul v => pipeBinary v 5
  | .ffma v => ffma v
  | .ffms v => ffma v
  | .fmin v => pipeBinary v 0
  | .fmax v => pipeBinary v 0
  | .fabs v => pipeUnary v 0
  | .fneg v => pipeUnary v 0
  | .fcmp v => fcmp v
  | .fcvt v => cvt v 6 && Fld.equalOrApart v.D v.A
  | .fdiv v => pipeBinary v 5
  | .fsqrt v => pipeUnary v 5
  | .frcp v => sfu v false
  | .frsq v => sfu v false
  | .fexp2 v => sfu v false
  | .flog2 v => sfu v false
  | .fsin v => sfu v true
  | .fcos v => sfu v true
  | .ftanh v => sfu v false
  | .fsig v => sfu v false
  | .ferf v => sfu v false
  | .frsum v => freduce v
  | .frmax v => freduce v
  | .gang o => o.so == 0 && o.a == 0 && o.b == 0 && !o.pa && !o.pb && o.ext == 0
  | .vbcast o => vbcast o
  | .vext o => vext o
  | .vins o => vins o
  | .vslide o => vslide o
  | .vpermr o => vpermr o
  | .vgrant o => o.b == 0 && !o.pb && o.so == 0 && o.ext == 0
  | .mma v => mma v && v.xb 23 18 == 0
  | .mmas v => mma v
  | .mmau v => mmau v
  | .mlda o => mldSta o false
  | .msta o => mldSta o true
  | .mzero o => mRegsZero o false false && o.e 31 22 == 0 && o.e 14 0 == 0
  | .mdesc o => o.d == 0 && o.b == 0 && !o.pb && o.sz == 0 && o.e 31 2 == 0
  | .mdescRd o => o.a == 0 && !o.pa && o.b == 0 && !o.pb && o.sz == 1 && o.e 31 2 == 0
  | .mwait o => mRegsZero o false false && o.e 31 23 == 0 && o.e 21 21 == 0 && o.e 18 0 == 0 && !(o.eb 22 && o.mE != 0)
  | .mchk o => mRegsZero o true false && o.e 31 21 == 0 && o.e 14 0 == 0
  | .vld o => vmem o true false false false
  | .vst o => vmem o false false false false
  | .vlds o => vmem o true true false false
  | .vsts o => vmem o false true false false
  | .vldx o => vmem o true false true false
  | .vstx o => vmem o false false true false
  | .vldff o => vmem o true false false false
  | .rld o => vmem o true false false true
  | .rst o => vmem o false false false true
  | .pref o => lines o
  | .cwb o => lines o
  | .amo o => amo o
  | .vamo o => vamo o
  | .ldf o => ldf o true
  | .ldfe o => ldf o true
  | .ste o => ldf o true
  | .stf o => ldf o false
  | .feset o => feset o
  | .waita o => waita o
  | .stwk o => stwk o
  | .barGang o => barGang o
  | .barClus o => barClus o
  | .dqpush o => o.so == 0 && o.b == 0 && !o.pb && o.ext == 0
  | .dqpop o => o.so == 0 && o.a == 0 && !o.pa && o.b == 0 && !o.pb && o.e 31 1 == 0
  | .dqsteal o => o.so == 0 && o.b == 0 && !o.pb && o.ext == 0
  | .cpush o => cpush o
  | .cstat o => cstat o
  | .cwait o => cwait o
  | .ckill o => cstat o
  | .ckillRel o => ckillRel o
  | .xrow o => xrow o
  | .pdep o => pdep o
  | .pcopy o => pget o
  | .ptake o => pget o
  | .pcnl o => pcnl o
  | .pcnt o => pcnt o
  | .cwalk o => o.so == 0 && o.e 31 7 == 0
  | .cdirty o => o.sz ≤ 1 && o.d == 0 && o.e 31 28 == 0
  | .launch o => sysBase o
  | .preempt o => sysBase o && o.b == 0 && !o.pb
  | .ctxsv o => sysBase o
  | .ctxld o => sysBase o
  | .migr o => sysBase o
  | .lcidset o => sysBase o
  | .tlbinv o => sysBase o && o.d == 0
  | .tlbinva o => sysBase o && o.d == 0 && o.a == 0 && !o.pa
  | _ => true

end Sys2Proof
end

