-- ==== Sys2Proof/WellFormed.lean ====
section
/-! DEFINITION. When an instruction is well formed: its encoding breaks none of the ILLEGAL_OP rules that depend on the
bits alone. The rules themselves stand in Machine/Legal.lean. -/

namespace Sys2Proof

/-- An instruction whose encoding is legal (R4). -/
def WellFormed (i : Instr) : Bool := legal i

end Sys2Proof
end

