-- ==== Sys2Proof/Decode.lean ====
section
/-! DEFINITION. Decoding (R34, R42 to R58): total on any parcels, refusing by name; then the encoder, written from the
same encoding tables of the spec. -/

namespace Sys2Proof

/-- Why parcels are no instruction. Every one of them is ILLEGAL_OP at issue (R4). -/
inductive Reject where
  /-- Fewer parcels than the length code asks for. -/
  | truncated
  /-- Length code 0b11 (R34). -/
  | lengthCode
  /-- An operation code the map of R56 does not assign. -/
  | unassigned
  /-- A spare or unused position that is not zero, or a value the instruction does not define. -/
  | operands
  deriving DecidableEq, Repr

/-- Number of parcels of an instruction from its length code; 0b11 counts as one (R34). -/
def parcelsOf (p : Parcel) : Nat :=
  match bits p.toNat 1 0 with
  | 1 => 2
  | 2 => 3
  | _ => 1

/-! The forms. -/

/-- The S form's operand fields (R43). -/
def SForm.ofBits (w : BitVec 64) : SForm where
  d := w.extractLsb' 10 6
  a := w.extractLsb' 16 6
  b := w.extractLsb' 22 6
  pa := w.getLsbD 28
  pb := w.getLsbD 29
  so := w.extractLsb' 30 2
  ext := w.extractLsb' 32 32

/-- The V form's operand fields (R44). -/
def VForm.ofBits (w : BitVec 96) : VForm where
  mask := w.extractLsb' 10 4
  ord := w.getLsbD 14
  D := w.extractLsb' 16 15
  A := w.extractLsb' 31 15
  B := w.extractLsb' 46 15
  pa := w.getLsbD 61
  pb := w.getLsbD 62
  type := w.extractLsb' 63 5
  fn4 := w.extractLsb' 68 4
  x := w.extractLsb' 72 24

/-- The S form as 64 bits: ext, so, pb, pa, b, a, d, op8, length (R43). -/
def SForm.toBits (o : SForm) (op8 : BitVec 8) (len : BitVec 2) : BitVec 64 :=
  o.ext ++ (o.so ++ (BitVec.ofBool o.pb ++ (BitVec.ofBool o.pa ++ (o.b ++ (o.a ++ (o.d ++ (op8 ++ len)))))))

/-- The V form as 96 bits: x, fn4, type, pb, pa, B, A, D, spare, ord, mask, op8, length (R44). -/
def VForm.toBits (v : VForm) (op8 : BitVec 8) : BitVec 96 :=
  v.x ++ (v.fn4 ++ (v.type ++ (BitVec.ofBool v.pb ++ (BitVec.ofBool v.pa ++ (v.B ++ (v.A ++ (v.D ++
    (0#1 ++ (BitVec.ofBool v.ord ++ (v.mask ++ (op8 ++ 0b10#2)))))))))))

/-- The C form as 32 bits: imm12, a, d, op6, length 0b00 (R42). -/
def cBits (op6 : BitVec 6) (d a : Reg) (imm : BitVec 12) : BitVec 32 :=
  imm ++ (a ++ (d ++ (op6 ++ 0#2)))

/-- The ALU group as 32 bits: fn6, b, a, d, op6 = 0x0B, length (R42). -/
def aluBits (fn6 : BitVec 6) (d a b : Reg) : BitVec 32 :=
  fn6 ++ (b ++ (a ++ (d ++ (0x0B#6 ++ 0#2))))

/-- imm12 of a tag instruction: enable, mask tag, complement, four zero bits, tb (R111). -/
def tagImm (m : Mask) (t : Tag) : BitVec 12 :=
  BitVec.ofBool m.en ++ (m.tag ++ (BitVec.ofBool m.compl ++ (0#4 ++ t)))

/-- A tag number in a register position: the upper three bits zero (R111). -/
def tagReg (t : Tag) : Reg := 0#3 ++ t

/-- The mask of a tag instruction's imm12 (R111). -/
def immMask (imm : BitVec 12) : Mask := ⟨imm.getLsbD 11, imm.extractLsb' 8 3, imm.getLsbD 7⟩

/-- Whether a register position holds a tag number (its upper three bits zero). -/
def isTagReg (r : Reg) : Bool := r.extractLsb' 3 3 == 0#3

/-! Decoding by form. -/

/-- The ALU group, by fn6 (R76). CLZ, CTZ, POPC and MOV need b = 0. -/
def decodeAlu (fn6 : Nat) (d a b : Reg) : Option Instr :=
  match fn6 with
  | 0 => some (.add d a b)
  | 1 => some (.sub d a b)
  | 2 => some (.and d a b)
  | 3 => some (.or d a b)
  | 4 => some (.xor d a b)
  | 5 => some (.andn d a b)
  | 6 => some (.sll d a b)
  | 7 => some (.srl d a b)
  | 8 => some (.sra d a b)
  | 9 => some (.slt d a b)
  | 10 => some (.sltn d a b)
  | 11 => some (.min d a b)
  | 12 => some (.max d a b)
  | 13 => some (.minn d a b)
  | 14 => some (.maxn d a b)
  | 15 => some (.mul d a b)
  | 16 => some (.mulh d a b)
  | 17 => some (.mulhn d a b)
  | 18 => some (.div d a b)
  | 19 => some (.divn d a b)
  | 20 => some (.rem d a b)
  | 21 => some (.remn d a b)
  | 22 => if b = 0 then some (.clz d a) else none
  | 23 => if b = 0 then some (.ctz d a) else none
  | 24 => if b = 0 then some (.popc d a) else none
  | 25 => if b = 0 then some (.mov d a) else none
  | _ => none

/-- A tag instruction with td, ta and, where it has one, tb (R111): unused positions zero. -/
def tagOk (d a : Reg) (imm : BitVec 12) (useD useA useB : Bool) : Bool :=
  imm.extractLsb' 3 4 == 0#4 && (useD || isTagReg d) && (useA || isTagReg a) && (useB || imm.extractLsb' 0 3 == 0#3)

/-- The C form (R42, R56): op6, d, a, imm12. -/
def decodeC (op6 : Nat) (d a : Reg) (imm : BitVec 12) : Option Instr :=
  let td : Tag := d.extractLsb' 0 3
  let ta : Tag := a.extractLsb' 0 3
  let tb : Tag := imm.extractLsb' 0 3
  let m := immMask imm
  match op6 with
  | 0x00 => if d = 0 ∧ a = 0 ∧ imm = 0 then some .nop else none
  | 0x01 => some (.addi d a imm)
  | 0x02 => some (.andi d a imm)
  | 0x03 => some (.ori d a imm)
  | 0x04 => some (.xori d a imm)
  | 0x08 => some (.slti d a imm)
  | 0x09 => some (.sltin d a imm)
  | 0x05 => if imm.extractLsb' 6 6 = 0#6 then some (.slli d a (imm.extractLsb' 0 6)) else none
  | 0x06 => if imm.extractLsb' 6 6 = 0#6 then some (.srli d a (imm.extractLsb' 0 6)) else none
  | 0x07 => if imm.extractLsb' 6 6 = 0#6 then some (.srai d a (imm.extractLsb' 0 6)) else none
  | 0x0A => if a = 0 then some (.movi d imm) else none
  | 0x0B => decodeAlu (imm.extractLsb' 6 6).toNat d a (imm.extractLsb' 0 6)
  | 0x0C => some (.ld d a imm)
  | 0x0D => some (.st d a imm)
  | 0x0E => some (.beqz a (imm ++ d))
  | 0x0F => some (.bnez a (imm ++ d))
  | 0x10 => some (.j (imm ++ (a ++ d)))
  | 0x11 => some (.jal (imm ++ (a ++ d)))
  | 0x12 => if d = 0 then some (.jr a imm) else none
  | 0x13 => if d = 0 then some (.jalr a imm) else none
  | 0x14 => if d.extractLsb' 1 5 = 0#5 then some (.loop (d.getLsbD 0) a imm) else none
  | 0x15 => if a = 0 then some (.crd d imm) else none
  | 0x16 => if d = 0 then some (.cwr a imm) else none
  | 0x20 => if imm = 0 then some (.setvl d a) else none
  | 0x21 => if tagOk d a imm false false true then some (.tand td ta tb m) else none
  | 0x22 => if tagOk d a imm false false true then some (.tor td ta tb m) else none
  | 0x23 => if tagOk d a imm false false true then some (.txor td ta tb m) else none
  | 0x24 => if tagOk d a imm false false true then some (.tandn td ta tb m) else none
  | 0x25 => if tagOk d a imm false false false then some (.tnot td ta m) else none
  | 0x26 => if tagOk d a imm false false false ∧ a = 0 then some (.tset td m) else none
  | 0x27 => if tagOk d a imm false false false ∧ a = 0 then some (.tclr td m) else none
  | 0x28 => if tagOk d a imm false false false then some (.tmov td ta m) else none
  | 0x29 => if tagOk d a imm true false false then some (.tcnt d ta m) else none
  | 0x2a => if tagOk d a imm true false false then some (.tany d ta m) else none
  | 0x2b => if tagOk d a imm true false false then some (.tfirst d ta m) else none
  | 0x2C => if tagOk d a imm false true true then some (.tpick td tb a m) else none
  | 0x30 => if d = 0 ∧ a = 0 then some (.brk imm) else none
  | 0x31 => if d = 0 ∧ a = 0 then some (.svc imm) else none
  | 0x32 => if d = 0 ∧ a = 0 then some (.fence imm) else none
  | 0x33 => if d = 0 ∧ a = 0 then (if imm = 0 then some .exit else if imm = 1 then some .exitFail else none) else none
  | 0x34 => if d = 0 ∧ a = 0 ∧ imm = 0 then some .yield else none
  | 0x35 => if d = 0 ∧ a = 0 ∧ imm = 0 then some .uret else none
  | 0x36 => if d = 0 ∧ a = 0 ∧ imm = 0 then some .eret else none
  | _ => none

/-- The S form, by op8 (R56). Four codes hold two rows each, told apart by so (R116, R213, R273, R293). -/
def decodeS (op8 : Nat) (o : SForm) : Option Instr :=
  match op8 with
  | 0x00 => some (.addw o)
  | 0x01 => some (.movw o)
  | 0x02 => some (.movhi o)
  | 0x03 => some (.lds o)
  | 0x04 => some (.sts o)
  | 0x05 => some (.bc o)
  | 0x06 => some (.jl o)
  | 0x07 => some (.sel o)
  | 0x08 => some (.bext o)
  | 0x09 => some (.bins o)
  | 0x0a => some (.lpset o)
  | 0x40 => some (.vld o)
  | 0x41 => some (.vst o)
  | 0x42 => some (.vlds o)
  | 0x43 => some (.vsts o)
  | 0x44 => some (.vldx o)
  | 0x45 => some (.vstx o)
  | 0x46 => some (.vldff o)
  | 0x47 => some (.rld o)
  | 0x48 => some (.rst o)
  | 0x49 => some (.pref o)
  | 0x4a => some (.cwb o)
  | 0x60 => some (.amo o)
  | 0x61 => some (.vamo o)
  | 0x62 => some (.ldf o)
  | 0x63 => some (.ldfe o)
  | 0x64 => some (.ste o)
  | 0x65 => some (.stf o)
  | 0x66 => some (.feset o)
  | 0x67 => some (.waita o)
  | 0x68 => some (.stwk o)
  | 0x69 => if o.so = 0 then some (.barGang o) else if o.so = 1 then some (.barClus o) else none
  | 0x6a => some (.cpush o)
  | 0x6b => some (.cstat o)
  | 0x6c => some (.cwait o)
  | 0x6d => if o.so = 0 then some (.ckill o) else if o.so = 1 then some (.ckillRel o) else none
  | 0x6e => some (.xrow o)
  | 0x6f => some (.pdep o)
  | 0x70 => some (.pcopy o)
  | 0x71 => some (.ptake o)
  | 0x72 => some (.pcnl o)
  | 0x73 => some (.pcnt o)
  | 0x74 => some (.dqpush o)
  | 0x75 => some (.dqpop o)
  | 0x76 => some (.dqsteal o)
  | 0x77 => some (.cwalk o)
  | 0x78 => some (.cdirty o)
  | 0x80 => some (.gang o)
  | 0x81 => some (.vbcast o)
  | 0x82 => some (.vext o)
  | 0x83 => some (.vins o)
  | 0x84 => some (.vslide o)
  | 0x85 => some (.vpermr o)
  | 0x86 => some (.vgrant o)
  | 0xa0 => some (.mlda o)
  | 0xa1 => some (.msta o)
  | 0xa2 => some (.mzero o)
  | 0xa3 => if o.so = 0 then some (.mdesc o) else if o.so = 1 then some (.mdescRd o) else none
  | 0xa4 => some (.mwait o)
  | 0xa5 => some (.mchk o)
  | 0xc0 => some (.asrch o)
  | 0xc1 => some (.awr o)
  | 0xc2 => some (.asrchl o)
  | 0xc3 => some (.awrl o)
  | 0xc4 => some (.tshup o)
  | 0xc5 => some (.tshdn o)
  | 0xc6 => if o.so = 0 then some (.amcodeRun o) else if o.so = 1 then some (.amcodeLoad o) else none
  | 0xe0 => some (.launch o)
  | 0xe1 => some (.preempt o)
  | 0xe2 => some (.ctxsv o)
  | 0xe3 => some (.ctxld o)
  | 0xe4 => some (.migr o)
  | 0xe5 => some (.lcidset o)
  | 0xe6 => some (.tlbinv o)
  | 0xe7 => some (.tlbinva o)
  | _ => none

/-- The L form, by op8 0xA0 to 0xBF (R45, R57). -/
def decodeL (op8 : Nat) (o : SForm) (lit : BitVec 32) : Option Instr :=
  match op8 with
  | 0xa0 => some (.movl o lit)
  | 0xa1 => some (.addl o lit)
  | 0xa2 => some (.andl o lit)
  | 0xa3 => some (.orl o lit)
  | 0xa4 => some (.xorl o lit)
  | 0xa5 => some (.bcl o lit)
  | 0xa6 => some (.loopl o lit)
  | _ => none

/-- The V form, by op8 0x00 to 0x9F (R44, R57). -/
def decodeV (op8 : Nat) (v : VForm) : Option Instr :=
  match op8 with
  | 0x00 => some (.vadd v)
  | 0x01 => some (.vsub v)
  | 0x02 => some (.vadds v)
  | 0x03 => some (.vsubs v)
  | 0x04 => some (.vmul v)
  | 0x05 => some (.vmulh v)
  | 0x06 => some (.vmac v)
  | 0x07 => some (.vneg v)
  | 0x08 => some (.vabs v)
  | 0x09 => some (.vabsd v)
  | 0x0a => some (.vmin v)
  | 0x0b => some (.vmax v)
  | 0x0c => some (.vand v)
  | 0x0d => some (.vor v)
  | 0x0e => some (.vxor v)
  | 0x0f => some (.vnot v)
  | 0x10 => some (.vshl v)
  | 0x11 => some (.vshr v)
  | 0x12 => some (.vsra v)
  | 0x13 => some (.vcmp v)
  | 0x14 => some (.vsel v)
  | 0x15 => some (.vmov v)
  | 0x16 => some (.vcvt v)
  | 0x17 => some (.vpopc v)
  | 0x18 => some (.vdiv v)
  | 0x19 => some (.vmull v)
  | 0x1a => some (.vbfpq v)
  | 0x1b => some (.vscale v)
  | 0x40 => some (.vrsum v)
  | 0x41 => some (.vrmin v)
  | 0x42 => some (.vrmax v)
  | 0x43 => some (.vscan v)
  | 0x44 => some (.vtopk v)
  | 0x45 => some (.vsimh v)
  | 0x46 => some (.vsimd v)
  | 0x47 => some (.vcbound v)
  | 0x48 => some (.vcwalk v)
  | 0x49 => some (.vcdirty v)
  | 0x4a => some (.unmk v)
  | 0x60 => some (.fadd v)
  | 0x61 => some (.fsub v)
  | 0x62 => some (.fmul v)
  | 0x63 => some (.ffma v)
  | 0x64 => some (.ffms v)
  | 0x65 => some (.fmin v)
  | 0x66 => some (.fmax v)
  | 0x67 => some (.fabs v)
  | 0x68 => some (.fneg v)
  | 0x69 => some (.fcmp v)
  | 0x6a => some (.fcvt v)
  | 0x6b => some (.fdiv v)
  | 0x6c => some (.fsqrt v)
  | 0x6d => some (.frcp v)
  | 0x6e => some (.frsq v)
  | 0x6f => some (.fexp2 v)
  | 0x70 => some (.flog2 v)
  | 0x71 => some (.fsin v)
  | 0x72 => some (.fcos v)
  | 0x73 => some (.ftanh v)
  | 0x74 => some (.fsig v)
  | 0x75 => some (.ferf v)
  | 0x76 => some (.frsum v)
  | 0x77 => some (.frmax v)
  | 0x80 => some (.mma v)
  | 0x81 => some (.mmas v)
  | 0x82 => some (.mmau v)
  | _ => none

/-- The instruction of a bit string, with its assignment checked but not its operands. -/
def parse32 (w : BitVec 32) : Option Instr :=
  decodeC (w.extractLsb' 2 6).toNat (w.extractLsb' 8 6) (w.extractLsb' 14 6) (w.extractLsb' 20 12)

def parse64 (w : BitVec 64) : Option Instr := decodeS (w.extractLsb' 2 8).toNat (SForm.ofBits w)

/-- 96 bits: L for op8 0xA0 and above (the map assigns nothing above 0xBF), else V with its spare bit zero (R44, R45). -/
def parse96 (w : BitVec 96) : Option Instr :=
  let op8 := (w.extractLsb' 2 8).toNat
  if op8 ≥ 0xA0 then decodeL op8 (SForm.ofBits (w.extractLsb' 0 64)) (w.extractLsb' 64 32)
  else if w.getLsbD 15 then none else decodeV op8 (VForm.ofBits w)

/-- Keep an instruction that is well formed. -/
def checked : Option Instr → Except Reject Instr
  | none => .error .unassigned
  | some i => if WellFormed i then .ok i else .error .operands

/-- The instruction that begins with the first of the given parcels (R34, R55). -/
def decode : List Parcel → Except Reject Instr
  | [] => .error .truncated
  | p :: rest =>
    match bits p.toNat 1 0 with
    | 0 => checked (parse32 p)
    | 1 =>
      match rest with
      | q :: _ => checked (parse64 (q ++ p))
      | [] => .error .truncated
    | 2 =>
      match rest with
      | q :: r :: _ => checked (parse96 (r ++ (q ++ p)))
      | _ => .error .truncated
    | _ => .error .lengthCode

/-! Encoding. -/

/-- The parcels of 32, 64 and 96 bits (R32). -/
def parcels32 (w : BitVec 32) : List Parcel := [w]
def parcels64 (w : BitVec 64) : List Parcel := [w.extractLsb' 0 32, w.extractLsb' 32 32]
def parcels96 (w : BitVec 96) : List Parcel := [w.extractLsb' 0 32, w.extractLsb' 32 32, w.extractLsb' 64 32]

/-- The parcels of an instruction (R42 to R45, R56, R57). An event has none. -/
def encode : Instr → List Parcel
  | .nop => parcels32 0
  | .addi d a imm => parcels32 (cBits 0x01 d a imm)
  | .andi d a imm => parcels32 (cBits 0x02 d a imm)
  | .ori d a imm => parcels32 (cBits 0x03 d a imm)
  | .xori d a imm => parcels32 (cBits 0x04 d a imm)
  | .slti d a imm => parcels32 (cBits 0x08 d a imm)
  | .sltin d a imm => parcels32 (cBits 0x09 d a imm)
  | .slli d a n => parcels32 (cBits 0x05 d a (0#6 ++ n))
  | .srli d a n => parcels32 (cBits 0x06 d a (0#6 ++ n))
  | .srai d a n => parcels32 (cBits 0x07 d a (0#6 ++ n))
  | .movi d imm => parcels32 (cBits 0x0A d 0 imm)
  | .add d a b => parcels32 (aluBits 0 d a b)
  | .sub d a b => parcels32 (aluBits 1 d a b)
  | .and d a b => parcels32 (aluBits 2 d a b)
  | .or d a b => parcels32 (aluBits 3 d a b)
  | .xor d a b => parcels32 (aluBits 4 d a b)
  | .andn d a b => parcels32 (aluBits 5 d a b)
  | .sll d a b => parcels32 (aluBits 6 d a b)
  | .srl d a b => parcels32 (aluBits 7 d a b)
  | .sra d a b => parcels32 (aluBits 8 d a b)
  | .slt d a b => parcels32 (aluBits 9 d a b)
  | .sltn d a b => parcels32 (aluBits 10 d a b)
  | .min d a b => parcels32 (aluBits 11 d a b)
  | .max d a b => parcels32 (aluBits 12 d a b)
  | .minn d a b => parcels32 (aluBits 13 d a b)
  | .maxn d a b => parcels32 (aluBits 14 d a b)
  | .mul d a b => parcels32 (aluBits 15 d a b)
  | .mulh d a b => parcels32 (aluBits 16 d a b)
  | .mulhn d a b => parcels32 (aluBits 17 d a b)
  | .div d a b => parcels32 (aluBits 18 d a b)
  | .divn d a b => parcels32 (aluBits 19 d a b)
  | .rem d a b => parcels32 (aluBits 20 d a b)
  | .remn d a b => parcels32 (aluBits 21 d a b)
  | .clz d a => parcels32 (aluBits 22 d a 0)
  | .ctz d a => parcels32 (aluBits 23 d a 0)
  | .popc d a => parcels32 (aluBits 24 d a 0)
  | .mov d a => parcels32 (aluBits 25 d a 0)
  | .ld d a imm => parcels32 (cBits 0x0C d a imm)
  | .st d a imm => parcels32 (cBits 0x0D d a imm)
  | .beqz a off => parcels32 (cBits 0x0E (off.extractLsb' 0 6) a (off.extractLsb' 6 12))
  | .bnez a off => parcels32 (cBits 0x0F (off.extractLsb' 0 6) a (off.extractLsb' 6 12))
  | .j off => parcels32 (cBits 0x10 (off.extractLsb' 0 6) (off.extractLsb' 6 6) (off.extractLsb' 12 12))
  | .jal off => parcels32 (cBits 0x11 (off.extractLsb' 0 6) (off.extractLsb' 6 6) (off.extractLsb' 12 12))
  | .jr a imm => parcels32 (cBits 0x12 0 a imm)
  | .jalr a imm => parcels32 (cBits 0x13 0 a imm)
  | .loop k a off => parcels32 (cBits 0x14 (0#5 ++ BitVec.ofBool k) a off)
  | .crd d r => parcels32 (cBits 0x15 d 0 r)
  | .cwr a r => parcels32 (cBits 0x16 0 a r)
  | .setvl d a => parcels32 (cBits 0x20 d a 0)
  | .tand td ta tb m => parcels32 (cBits 0x21 (tagReg td) (tagReg ta) (tagImm m tb))
  | .tor td ta tb m => parcels32 (cBits 0x22 (tagReg td) (tagReg ta) (tagImm m tb))
  | .txor td ta tb m => parcels32 (cBits 0x23 (tagReg td) (tagReg ta) (tagImm m tb))
  | .tandn td ta tb m => parcels32 (cBits 0x24 (tagReg td) (tagReg ta) (tagImm m tb))
  | .tnot td ta m => parcels32 (cBits 0x25 (tagReg td) (tagReg ta) (tagImm m 0))
  | .tset td m => parcels32 (cBits 0x26 (tagReg td) 0 (tagImm m 0))
  | .tclr td m => parcels32 (cBits 0x27 (tagReg td) 0 (tagImm m 0))
  | .tmov td ta m => parcels32 (cBits 0x28 (tagReg td) (tagReg ta) (tagImm m 0))
  | .tcnt d ta m => parcels32 (cBits 0x29 d (tagReg ta) (tagImm m 0))
  | .tany d ta m => parcels32 (cBits 0x2a d (tagReg ta) (tagImm m 0))
  | .tfirst d ta m => parcels32 (cBits 0x2b d (tagReg ta) (tagImm m 0))
  | .tpick td ta a m => parcels32 (cBits 0x2C (tagReg td) a (tagImm m ta))
  | .brk imm => parcels32 (cBits 0x30 0 0 imm)
  | .svc imm => parcels32 (cBits 0x31 0 0 imm)
  | .fence imm => parcels32 (cBits 0x32 0 0 imm)
  | .exit => parcels32 (cBits 0x33 0 0 0)
  | .exitFail => parcels32 (cBits 0x33 0 0 1)
  | .yield => parcels32 (cBits 0x34 0 0 0)
  | .uret => parcels32 (cBits 0x35 0 0 0)
  | .eret => parcels32 (cBits 0x36 0 0 0)
  | .addw o => parcels64 (o.toBits 0x00 0b01)
  | .movw o => parcels64 (o.toBits 0x01 0b01)
  | .movhi o => parcels64 (o.toBits 0x02 0b01)
  | .lds o => parcels64 (o.toBits 0x03 0b01)
  | .sts o => parcels64 (o.toBits 0x04 0b01)
  | .bc o => parcels64 (o.toBits 0x05 0b01)
  | .jl o => parcels64 (o.toBits 0x06 0b01)
  | .sel o => parcels64 (o.toBits 0x07 0b01)
  | .bext o => parcels64 (o.toBits 0x08 0b01)
  | .bins o => parcels64 (o.toBits 0x09 0b01)
  | .lpset o => parcels64 (o.toBits 0x0a 0b01)
  | .vld o => parcels64 (o.toBits 0x40 0b01)
  | .vst o => parcels64 (o.toBits 0x41 0b01)
  | .vlds o => parcels64 (o.toBits 0x42 0b01)
  | .vsts o => parcels64 (o.toBits 0x43 0b01)
  | .vldx o => parcels64 (o.toBits 0x44 0b01)
  | .vstx o => parcels64 (o.toBits 0x45 0b01)
  | .vldff o => parcels64 (o.toBits 0x46 0b01)
  | .rld o => parcels64 (o.toBits 0x47 0b01)
  | .rst o => parcels64 (o.toBits 0x48 0b01)
  | .pref o => parcels64 (o.toBits 0x49 0b01)
  | .cwb o => parcels64 (o.toBits 0x4a 0b01)
  | .amo o => parcels64 (o.toBits 0x60 0b01)
  | .vamo o => parcels64 (o.toBits 0x61 0b01)
  | .ldf o => parcels64 (o.toBits 0x62 0b01)
  | .ldfe o => parcels64 (o.toBits 0x63 0b01)
  | .ste o => parcels64 (o.toBits 0x64 0b01)
  | .stf o => parcels64 (o.toBits 0x65 0b01)
  | .feset o => parcels64 (o.toBits 0x66 0b01)
  | .waita o => parcels64 (o.toBits 0x67 0b01)
  | .stwk o => parcels64 (o.toBits 0x68 0b01)
  | .barGang o => parcels64 (o.toBits 0x69 0b01)
  | .barClus o => parcels64 (o.toBits 0x69 0b01)
  | .cpush o => parcels64 (o.toBits 0x6a 0b01)
  | .cstat o => parcels64 (o.toBits 0x6b 0b01)
  | .cwait o => parcels64 (o.toBits 0x6c 0b01)
  | .ckill o => parcels64 (o.toBits 0x6d 0b01)
  | .ckillRel o => parcels64 (o.toBits 0x6d 0b01)
  | .xrow o => parcels64 (o.toBits 0x6e 0b01)
  | .pdep o => parcels64 (o.toBits 0x6f 0b01)
  | .pcopy o => parcels64 (o.toBits 0x70 0b01)
  | .ptake o => parcels64 (o.toBits 0x71 0b01)
  | .pcnl o => parcels64 (o.toBits 0x72 0b01)
  | .pcnt o => parcels64 (o.toBits 0x73 0b01)
  | .dqpush o => parcels64 (o.toBits 0x74 0b01)
  | .dqpop o => parcels64 (o.toBits 0x75 0b01)
  | .dqsteal o => parcels64 (o.toBits 0x76 0b01)
  | .cwalk o => parcels64 (o.toBits 0x77 0b01)
  | .cdirty o => parcels64 (o.toBits 0x78 0b01)
  | .gang o => parcels64 (o.toBits 0x80 0b01)
  | .vbcast o => parcels64 (o.toBits 0x81 0b01)
  | .vext o => parcels64 (o.toBits 0x82 0b01)
  | .vins o => parcels64 (o.toBits 0x83 0b01)
  | .vslide o => parcels64 (o.toBits 0x84 0b01)
  | .vpermr o => parcels64 (o.toBits 0x85 0b01)
  | .vgrant o => parcels64 (o.toBits 0x86 0b01)
  | .mlda o => parcels64 (o.toBits 0xa0 0b01)
  | .msta o => parcels64 (o.toBits 0xa1 0b01)
  | .mzero o => parcels64 (o.toBits 0xa2 0b01)
  | .mdesc o => parcels64 (o.toBits 0xa3 0b01)
  | .mdescRd o => parcels64 (o.toBits 0xa3 0b01)
  | .mwait o => parcels64 (o.toBits 0xa4 0b01)
  | .mchk o => parcels64 (o.toBits 0xa5 0b01)
  | .asrch o => parcels64 (o.toBits 0xc0 0b01)
  | .awr o => parcels64 (o.toBits 0xc1 0b01)
  | .asrchl o => parcels64 (o.toBits 0xc2 0b01)
  | .awrl o => parcels64 (o.toBits 0xc3 0b01)
  | .tshup o => parcels64 (o.toBits 0xc4 0b01)
  | .tshdn o => parcels64 (o.toBits 0xc5 0b01)
  | .amcodeRun o => parcels64 (o.toBits 0xc6 0b01)
  | .amcodeLoad o => parcels64 (o.toBits 0xc6 0b01)
  | .launch o => parcels64 (o.toBits 0xe0 0b01)
  | .preempt o => parcels64 (o.toBits 0xe1 0b01)
  | .ctxsv o => parcels64 (o.toBits 0xe2 0b01)
  | .ctxld o => parcels64 (o.toBits 0xe3 0b01)
  | .migr o => parcels64 (o.toBits 0xe4 0b01)
  | .lcidset o => parcels64 (o.toBits 0xe5 0b01)
  | .tlbinv o => parcels64 (o.toBits 0xe6 0b01)
  | .tlbinva o => parcels64 (o.toBits 0xe7 0b01)
  | .movl o lit => parcels96 (lit ++ o.toBits 0xa0 0b10)
  | .addl o lit => parcels96 (lit ++ o.toBits 0xa1 0b10)
  | .andl o lit => parcels96 (lit ++ o.toBits 0xa2 0b10)
  | .orl o lit => parcels96 (lit ++ o.toBits 0xa3 0b10)
  | .xorl o lit => parcels96 (lit ++ o.toBits 0xa4 0b10)
  | .bcl o lit => parcels96 (lit ++ o.toBits 0xa5 0b10)
  | .loopl o lit => parcels96 (lit ++ o.toBits 0xa6 0b10)
  | .vadd v => parcels96 (v.toBits 0x00)
  | .vsub v => parcels96 (v.toBits 0x01)
  | .vadds v => parcels96 (v.toBits 0x02)
  | .vsubs v => parcels96 (v.toBits 0x03)
  | .vmul v => parcels96 (v.toBits 0x04)
  | .vmulh v => parcels96 (v.toBits 0x05)
  | .vmac v => parcels96 (v.toBits 0x06)
  | .vneg v => parcels96 (v.toBits 0x07)
  | .vabs v => parcels96 (v.toBits 0x08)
  | .vabsd v => parcels96 (v.toBits 0x09)
  | .vmin v => parcels96 (v.toBits 0x0a)
  | .vmax v => parcels96 (v.toBits 0x0b)
  | .vand v => parcels96 (v.toBits 0x0c)
  | .vor v => parcels96 (v.toBits 0x0d)
  | .vxor v => parcels96 (v.toBits 0x0e)
  | .vnot v => parcels96 (v.toBits 0x0f)
  | .vshl v => parcels96 (v.toBits 0x10)
  | .vshr v => parcels96 (v.toBits 0x11)
  | .vsra v => parcels96 (v.toBits 0x12)
  | .vcmp v => parcels96 (v.toBits 0x13)
  | .vsel v => parcels96 (v.toBits 0x14)
  | .vmov v => parcels96 (v.toBits 0x15)
  | .vcvt v => parcels96 (v.toBits 0x16)
  | .vpopc v => parcels96 (v.toBits 0x17)
  | .vdiv v => parcels96 (v.toBits 0x18)
  | .vmull v => parcels96 (v.toBits 0x19)
  | .vbfpq v => parcels96 (v.toBits 0x1a)
  | .vscale v => parcels96 (v.toBits 0x1b)
  | .vrsum v => parcels96 (v.toBits 0x40)
  | .vrmin v => parcels96 (v.toBits 0x41)
  | .vrmax v => parcels96 (v.toBits 0x42)
  | .vscan v => parcels96 (v.toBits 0x43)
  | .vtopk v => parcels96 (v.toBits 0x44)
  | .vsimh v => parcels96 (v.toBits 0x45)
  | .vsimd v => parcels96 (v.toBits 0x46)
  | .vcbound v => parcels96 (v.toBits 0x47)
  | .vcwalk v => parcels96 (v.toBits 0x48)
  | .vcdirty v => parcels96 (v.toBits 0x49)
  | .unmk v => parcels96 (v.toBits 0x4a)
  | .fadd v => parcels96 (v.toBits 0x60)
  | .fsub v => parcels96 (v.toBits 0x61)
  | .fmul v => parcels96 (v.toBits 0x62)
  | .ffma v => parcels96 (v.toBits 0x63)
  | .ffms v => parcels96 (v.toBits 0x64)
  | .fmin v => parcels96 (v.toBits 0x65)
  | .fmax v => parcels96 (v.toBits 0x66)
  | .fabs v => parcels96 (v.toBits 0x67)
  | .fneg v => parcels96 (v.toBits 0x68)
  | .fcmp v => parcels96 (v.toBits 0x69)
  | .fcvt v => parcels96 (v.toBits 0x6a)
  | .fdiv v => parcels96 (v.toBits 0x6b)
  | .fsqrt v => parcels96 (v.toBits 0x6c)
  | .frcp v => parcels96 (v.toBits 0x6d)
  | .frsq v => parcels96 (v.toBits 0x6e)
  | .fexp2 v => parcels96 (v.toBits 0x6f)
  | .flog2 v => parcels96 (v.toBits 0x70)
  | .fsin v => parcels96 (v.toBits 0x71)
  | .fcos v => parcels96 (v.toBits 0x72)
  | .ftanh v => parcels96 (v.toBits 0x73)
  | .fsig v => parcels96 (v.toBits 0x74)
  | .ferf v => parcels96 (v.toBits 0x75)
  | .frsum v => parcels96 (v.toBits 0x76)
  | .frmax v => parcels96 (v.toBits 0x77)
  | .mma v => parcels96 (v.toBits 0x80)
  | .mmas v => parcels96 (v.toBits 0x81)
  | .mmau v => parcels96 (v.toBits 0x82)
  | _ => []

/-- The decoder on the bits of an opcode-table row: `nbits` of them, numbered from bit 0 of the first parcel; every bit
above is 0. -/
def decodeTableWord (nbits w : Nat) : Option Instr :=
  let v := w % 2 ^ nbits
  let parcel (k : Nat) : Parcel := BitVec.ofNat 32 (v >>> (32 * k))
  match decode [parcel 0, parcel 1, parcel 2] with
  | .ok i => some i
  | .error _ => none

end Sys2Proof
end

