-- ==== Sys2Proof/Machine/Ctrl.lean ====
section
/-! DEFINITION. Control space (R382 to R384): what each register reads, and what a write of the host or of a
privileged hart does, field by field by its access code (R2, R383). -/

namespace Sys2Proof.Machine

open Sys2Proof

/-- Who writes control space: the host, or a privileged hart with its XCTL.SCHED (R353, R383). -/
inductive Writer where
  | host
  | device (sched : Bool)
  deriving DecidableEq, Repr

/-- The value of a field after a write of the bits of `m` (R2). -/
def mergeBits (old m v : W64) : W64 := (old &&& ~~~m) ||| (v &&& m)

/-- A word with bits [hi:lo] of v at their place. -/
def fieldAt (hi lo v : Nat) : Nat := (v % 2 ^ (hi + 1 - lo)) <<< lo

/-- One bit at position i. -/
def bitAt (i : Nat) (b : Bool) : Nat := if b then 2 ^ i else 0

/-- The mask of bits [hi:lo]. -/
def maskOf (hi lo : Nat) : W64 := BitVec.ofNat 64 (fieldAt hi lo (2 ^ 64 - 1))

/-! ## Pantry regions (R303, R305) -/

namespace Region

/-- PRGN.EN. -/
def en (e : W64) : Bool := e.getLsbD 63
/-- PRGN.HSHAPE. -/
def hshape (e : W64) : Bool := e.getLsbD 23
/-- PRGN.HLOG. -/
def hlog (e : W64) : Nat := bits e.toNat 22 20
/-- PRGN.HBASE. -/
def hbase (e : W64) : Nat := bits e.toNat 19 13
/-- PRGN.NF. -/
def nf (e : W64) : Nat := bits e.toNat 12 10
/-- PRGN.CAP. -/
def cap (e : W64) : Nat := bits e.toNat 7 0

/-- The slice of home-set member j (R306). -/
def slice (e : W64) (j : Nat) : Nat :=
  if hshape e then (hbase e + j) % 128 else (hbase e + j * (128 / 2 ^ hlog e)) % 128

/-- Whether a slice belongs to the home set. -/
def has (e : W64) (sl : Nat) : Bool := (List.range (2 ^ hlog e)).any fun j => slice e j == sl

/-- The home slice of tag t in region n (R306). -/
def home (n : Nat) (e t : W64) : Nat :=
  let x := (t ^^^ BitVec.ofNat 64 (n * 0x0101010101010101)).toNat
  let h := (List.range 10).foldl (fun h i => h ^^^ bits x (7 * i + 6) (7 * i)) 0
  slice e (h % 2 ^ hlog e)

end Region

/-- Entry n of the region table. -/
def State.region (s : State) (n : Nat) : W64 := SMap.getD s.prgn n 0

/-- Storage set aside at a slice, in units of 4 KiB, with entry n replaced by e (R305). -/
def State.sliceCaps (s : State) (n : Nat) (e : W64) (sl : Nat) : Nat :=
  let others := s.prgn.filter fun x => x.1 != n && Region.en x.2 && Region.has x.2 sl
  (others.map fun x => Region.cap x.2).sum + if Region.has e sl then Region.cap e else 0

/-- Whether a message is a posted deposit, which has no reply (R313). -/
def PMsg.posted (m : PMsg) : Bool := match m.instr with | .pdep o => !o.eb 20 | _ => false

/-- Disable region n (R305): its tuples go, its parked PCOPY and PTAKE requests are answered with status 4, its parked
deposits are discarded and count as accepted now, and its messages in flight will be answered as though parked. -/
def State.disableRegion (s : State) (n : Nat) : State :=
  let all := s.pparks.filter fun m => m.region == n
  let mine := all.filter fun m => !m.posted
  let gone := (all.filter PMsg.posted).map PMsg.serial
  { s with
    harts := s.harts.map fun e => (e.1, { e.2 with preqs := e.2.preqs.filter fun p => !gone.contains p.serial })
    tuples := s.tuples.filter fun t => t.2.region != n
    pparks := s.pparks.filter fun m => m.region != n
    preplies := s.preplies ++ mine.map fun m => ⟨m.serial, m.hart, 4, []⟩
    pmsgs := s.pmsgs.map fun m => if m.region = n then { m with stale := true } else m }

/-- Write entry n of the region table (R303, R305). -/
def State.writeRegion (s : State) (n : Nat) (v : W64) : State :=
  let fields := v &&& (maskOf 23 10 ||| maskOf 7 0)
  if Region.en v then
    let refuse := Region.cap v = 0 || 128 < Region.cap v || (List.range 128).any fun sl => 128 < s.sliceCaps n v sl
    let was := Region.en (s.region n)
    let e := if refuse then fields ||| 0x4000000000000000 else fields ||| 0x8000000000000000
    let s := if refuse && was then s.disableRegion n else s
    { s with prgn := SMap.setD s.prgn n 0 e }
  else { s.disableRegion n with prgn := SMap.setD s.prgn n 0 fields }

/-! ## Messages to the host (R387) -/

/-- Send the message of an MSI-X vector, or set its pending bit while it is masked. -/
def State.sendMsi (s : State) (v : Nat) : State :=
  let ctl := SMap.getD s.msix (2 * v + 1) 0
  if ctl.getLsbD 32 then { s with pba := SMap.put s.pba v true }
  else { s with msgs := s.msgs ++ [(SMap.getD s.msix (2 * v) 0, ctl &&& 0xFFFFFFFF)] }

/-! ## Launch queues (R350) -/

/-- LQ.SIZE as a ring length. -/
def LQ.ring (l : LQ) : Nat := 2 ^ l.size.toNat

/-- Make the records from the old TAIL up to `v` visible, each with its gate and privilege permission (R353). -/
def State.writeTail (s : State) (q v : Nat) (gate : Bool) : State :=
  let l := s.lqAt q
  let t := v % 65536 % l.ring
  let n := (t + l.ring - l.tail % l.ring) % l.ring
  s.putLq q { l with tail := t, gates := l.gates ++ List.replicate n (gate, l.privok) }

/-- CTX of a launch record (R352). -/
def Launch.ctx (l : Launch) : Nat := (l.record.getD 3 0).toNat

/-- Stop every gang of queue q at its harts' next convoy boundaries (R363). -/
def State.stopGangs (s : State) (q : Nat) : State :=
  { s with gangs := s.gangs.map fun e => if e.2.queue = q then (e.1, { e.2 with stopping := true }) else e }

/-- A request for pre-emption of the launch of queue q (R350, R363). -/
def State.requestPreempt (s : State) (q : Nat) : State :=
  let l := s.lqAt q
  if l.state = 1 || l.state = 4 then
    match l.launch with
    | some la =>
      if la.ctx = 0 then s.putLq q { l with preempt := true }
      else (s.putLq q { l with preempt := false, resume := false, state := 2 }).stopGangs q
    | none => s
  else s

/-- A request to resume the pre-empted launch of queue q (R350, R363). -/
def State.requestResume (s : State) (q : Nat) : State :=
  let l := s.lqAt q
  if l.state = 3 then s.putLq q { l with state := 4, resume := false } else s

/-- A launch-queue register, by its offset in the queue's block. -/
def LQ.read (l : LQ) (off : Nat) : W64 :=
  match off with
  | 0x00 => l.base
  | 0x08 => BitVec.ofNat 64 l.size.toNat
  | 0x10 => BitVec.ofNat 64 l.head
  | 0x18 => BitVec.ofNat 64 l.tail
  | 0x20 => l.cpl
  | 0x28 => l.tvec
  | 0x30 => l.root
  | 0x38 =>
    BitVec.ofNat 64 (fieldAt 26 16 l.vec.toNat + bitAt 15 l.msi + fieldAt 7 5 l.state + bitAt 4 l.resume +
      bitAt 3 l.preempt + bitAt 2 l.xok + bitAt 1 l.privok + bitAt 0 l.en)
  | 0x40 => l.fpc
  | 0x48 => l.fval
  | 0x50 => BitVec.ofNat 64 l.fhart
  | _ => 0

/-- Write a launch-queue register: the bits of m take those of v. -/
def State.writeLq (s : State) (q off : Nat) (w : Writer) (m v : W64) : State :=
  let l := s.lqAt q
  match off with
  | 0x00 => s.putLq q { l with base := mergeBits l.base (m &&& maskOf 55 7) v }
  | 0x08 => s.putLq q { l with size := (mergeBits (l.size.setWidth 64) m v).setWidth 4 }
  | 0x18 =>
    if m.getLsbD 0 then s.writeTail q v.toNat (match w with | .host => l.xok | .device sched => sched) else s
  | 0x20 => s.putLq q { l with cpl := mergeBits l.cpl (m &&& maskOf 55 3) v }
  | 0x28 => s.putLq q { l with tvec := mergeBits l.tvec (m &&& maskOf 51 2) v }
  | 0x30 => s.putLq q { l with root := mergeBits l.root (m &&& maskOf 55 16) v }
  | 0x38 =>
    if m.getLsbD 0 then
      let s := s.putLq q { l with
        vec := v.extractLsb' 16 11, msi := v.getLsbD 15, xok := v.getLsbD 2, privok := v.getLsbD 1, en := v.getLsbD 0 }
      let s := if v.getLsbD 4 then s.requestResume q else s
      if v.getLsbD 3 && l.state ≠ 3 then s.requestPreempt q else s
    else s
  | _ => s

/-! ## Migration queue (R394) -/

/-- A write to MQ.TAIL releases records to the engine (R394). -/
def State.writeMqTail (s : State) (v : Nat) : State :=
  { s with mq := { s.mq with tail := v % 65536 } }

/-- A migration-queue register. -/
def MQ.read (q : MQ) (off : Nat) : W64 :=
  match off with
  | 0x00 => q.base
  | 0x08 => BitVec.ofNat 64 q.size.toNat
  | 0x10 => BitVec.ofNat 64 q.head
  | 0x18 => BitVec.ofNat 64 q.tail
  | 0x20 => q.cpl
  | 0x28 => BitVec.ofNat 64 (fieldAt 26 16 q.vec.toNat + bitAt 15 q.msi + bitAt 0 q.en)
  | _ => 0

/-- Write a migration-queue register. -/
def State.writeMq (s : State) (off : Nat) (m v : W64) : State :=
  let q := s.mq
  match off with
  | 0x00 => { s with mq := { q with base := mergeBits q.base (m &&& maskOf 55 5) v } }
  | 0x08 => { s with mq := { q with size := (mergeBits (q.size.setWidth 64) m v).setWidth 4 } }
  | 0x18 => if m.getLsbD 0 then s.writeMqTail v.toNat else s
  | 0x20 => { s with mq := { q with cpl := mergeBits q.cpl (m &&& maskOf 55 3) v } }
  | 0x28 =>
    if m.getLsbD 0 then
      { s with mq := { q with vec := v.extractLsb' 16 11, msi := v.getLsbD 15, en := v.getLsbD 0 } }
    else s
  | _ => s

/-! ## Device control (R384) -/

/-- The bits of BAR2WIN.BASE that lie at or above the BAR2 size (R384). -/
def bar2Mask (log : Nat) : BitVec 16 := BitVec.ofNat 16 (fieldAt 15 (log - 30) (2 ^ 16 - 1))

/-- The eight route bytes of a doubleword. -/
def State.routeWord (s : State) (n : Nat) : W64 :=
  BitVec.ofNat 64 (((List.range 8).map fun i => (SMap.getD s.routes (n + i) 0).toNat * 2 ^ (8 * i)).sum)

/-- A device-control doubleword. -/
def State.readDev (s : State) (off : Nat) : W64 :=
  let d := s.dev
  if 0x400 ≤ off && off < 0x700 then s.routeWord (off - 0x400)
  else
    match off with
    | 0x000 => BitVec.ofNat 64 d.devid
    | 0x008 =>
      BitVec.ofNat 64 (bitAt 5 d.linkErr + bitAt 4 d.clamp + bitAt 3 d.trip + bitAt 2 d.recov + bitAt 1 d.bootOk)
    | 0x010 => BitVec.ofNat 64 (d.bar2Base.toNat * 2 ^ 30)
    | 0x018 => BitVec.ofNat 64 d.hbmHalf
    | 0x020 => BitVec.ofNat 64 d.ucGib
    | 0x800 => BitVec.ofNat 64 (bitAt 8 d.heatEn + d.heatEpoch.toNat)
    | 0x808 => BitVec.ofNat 64 d.scrubMs.toNat
    | _ => 0

/-- Whether every launch queue is idle (R384). -/
def State.queuesIdle (s : State) : Bool := s.lqs.all fun e => e.2.state == 0

/-- Write a device-control doubleword. Host-only fields ignore a device's write (R383). -/
def State.writeDev (s : State) (off : Nat) (host : Bool) (m v : W64) : State :=
  let d := s.dev
  if 0x400 ≤ off && off < 0x700 then
    if host then
      { s with routes := (List.range 8).foldl (fun r i =>
          if m.getLsbD (8 * i) then SMap.setD r (off - 0x400 + i) 0 (v.extractLsb' (8 * i) 4) else r) s.routes }
    else s
  else
    match off with
    | 0x000 =>
      let n := bits (mergeBits (BitVec.ofNat 64 d.devid) m v).toNat 9 0
      if host && s.queuesIdle && n < 768 then { s with dev := { d with devid := n } } else s
    | 0x008 =>
      { s with dev := { d with
          linkErr := d.linkErr && !(m &&& v).getLsbD 5, clamp := d.clamp && !(m &&& v).getLsbD 4 } }
    | 0x010 =>
      if host then
        let n := (mergeBits (BitVec.ofNat 64 (d.bar2Base.toNat * 2 ^ 30)) m v).extractLsb' 30 16
        { s with dev := { d with bar2Base := n &&& bar2Mask d.bar2Log } }
      else s
    | 0x800 =>
      if m.getLsbD 0 then { s with dev := { d with heatEn := v.getLsbD 8, heatEpoch := v.extractLsb' 0 5 } } else s
    | 0x808 =>
      if m.getLsbD 0 then
        let n := bits v.toNat 6 0
        { s with dev := { d with scrubMs := BitVec.ofNat 7 (if n < 1 then 1 else if 100 < n then 100 else n) } }
      else s
    | _ => s

/-! ## The whole of control space (R382) -/

/-- Whether an offset is one of R382's, and, in recovery, one BAR0 still serves (R401). -/
def ctrlKnown (off : Nat) : Bool :=
  off < 0x1800 || (0x100000 ≤ off && off < 0x100800) || (0x200000 ≤ off && off < 0x200100) ||
  (0x300000 ≤ off && off < 0x320100) || (0x400000 ≤ off && off < 0x400200) || (0x500000 ≤ off && off < 0x508100)

/-- The offsets BAR0 serves while DSTAT.RECOV is set (R401). -/
def ctrlInRecovery (off : Nat) : Bool :=
  off < 0x1000 || (0x400000 ≤ off && off < 0x400200) || (0x500000 ≤ off && off < 0x508100)

/-- The doubleword at an 8-aligned control offset. -/
def State.ctrlRead64 (s : State) (off : Nat) : W64 :=
  if off < 0x1000 then s.readDev off
  else if off < 0x1800 then (s.lqAt ((off - 0x1000) / 0x80)).read ((off - 0x1000) % 0x80)
  else if 0x100000 ≤ off && off < 0x100800 then s.region ((off - 0x100000) / 8)
  else if 0x200000 ≤ off && off < 0x200100 then s.mq.read (off - 0x200000)
  else if off = 0x300000 then BitVec.ofNat 64 (s.rt.length + bitAt 15 s.rtFull)
  else if 0x300100 ≤ off && off < 0x320100 then
    match s.rt[(off - 0x300100) / 16]? with
    | some e => if (off - 0x300100) % 16 = 0 then e.w0 else e.w1
    | none => 0
  else if 0x400000 ≤ off && off < 0x400200 then
    (SMap.getD s.meas ((off - 0x400000) / 64) 0).extractLsb' (8 * (off % 64)) 64
  else if 0x500000 ≤ off && off < 0x508000 then SMap.getD s.msix ((off - 0x500000) / 8) 0
  else if 0x508000 ≤ off && off < 0x508100 then
    BitVec.ofNat 64 (((List.range 64).map fun i => bitAt i (SMap.getD s.pba (8 * (off - 0x508000) + i) false)).sum)
  else 0

/-- A control-space read of 4 or 8 bytes (DEDUCED, log 17). -/
def State.ctrlRead (s : State) (off size : Nat) : Nat :=
  (s.ctrlRead64 (off / 8 * 8)).toNat >>> (8 * (off % 8)) % 2 ^ (8 * size)

/-- An MSI-X doubleword written by the host; unmasking a pending vector sends its message (PRESUMED, log 23). -/
def State.writeMsix (s : State) (k : Nat) (m v : W64) : State :=
  let n := mergeBits (SMap.getD s.msix k 0) m v
  let s := { s with msix := SMap.setD s.msix k 0 n }
  if k % 2 = 1 && !n.getLsbD 32 && SMap.getD s.pba (k / 2) false then
    { s with pba := SMap.del s.pba (k / 2) }.sendMsi (k / 2)
  else s

/-- A control-space write of 4 or 8 bytes (DEDUCED, log 17). -/
def State.ctrlWrite (s : State) (w : Writer) (off size v : Nat) : State :=
  let host : Bool := w == Writer.host
  let sh := 8 * (off % 8)
  let m : W64 := BitVec.ofNat 64 ((2 ^ (8 * size) - 1) <<< sh)
  let x : W64 := BitVec.ofNat 64 (v <<< sh)
  let o := off / 8 * 8
  if o < 0x1000 then s.writeDev o host m x
  else if o < 0x1800 then s.writeLq ((o - 0x1000) / 0x80) ((o - 0x1000) % 0x80) w m x
  else if 0x100000 ≤ o && o < 0x100800 then
    let n := (o - 0x100000) / 8
    s.writeRegion n (mergeBits (s.region n) m x)
  else if 0x200000 ≤ o && o < 0x200100 then s.writeMq (o - 0x200000) m x
  else if 0x500000 ≤ o && o < 0x508000 then if host then s.writeMsix ((o - 0x500000) / 8) m x else s
  else s

end Sys2Proof.Machine
end

