-- ==== Sys2Proof/Machine/Cache.lean ====
section
/-! DEFINITION. The shared caches of the memory slices (R15, R219, R220, R305) and the page heat their homes count
(R393). -/

namespace Sys2Proof.Machine

open Sys2Proof

/-- The home slice of a line (R220). -/
def homeSlice (pa : Nat) : Nat :=
  (List.range 6).foldl (fun h j => h ^^^ bits (bits pa 45 6) (7 * j + 6) (7 * j)) 0

/-- Line n as memory itself holds it. -/
def State.memLine (s : State) (n : Nat) : BitVec 512 :=
  BitVec.ofNat 512 (leNat ((List.range 64).map fun i => SMap.getD s.mem (64 * n + i) 0))

/-- Write line n to memory itself; the integrity tag follows (R398). -/
def State.setMemLine (s : State) (n : Nat) (l : CLine) : State :=
  { s with
    mem := (List.range 64).foldl (fun m i => SMap.setD m (64 * n + i) 0 (l.byte i)) s.mem
    flips := SMap.restrict s.flips fun a => a / 64 != n }

/-- Write a cached line back to its memory, if memory lacks its data. -/
def State.writeBack (s : State) (n : Nat) : State :=
  match SMap.find s.lines n with
  | some l => if l.dirty then { s.setMemLine n l with lines := SMap.put s.lines n { l with dirty := false } } else s
  | none => s

/-- Drop a line from its slice, written back first. -/
def State.evict (s : State) (n : Nat) : State :=
  let s := s.writeBack n
  { s with lines := SMap.del s.lines n }

/-- Lines a slice's cache holds: 2 MiB less the ways of 128 KiB set aside for the Pantry (R15, R305). -/
def State.sliceLines (s : State) (sl : Nat) : Nat :=
  let caps := ((s.prgn.filter fun x => Region.en x.2 && Region.has x.2 sl).map fun x => Region.cap x.2).sum
  32768 - 2048 * ((caps + 31) / 32)

/-- Bring a line into its home slice, whose lowest lines make room (R15, R219) (DESIGN CHOICE, log 7). -/
def State.fillLine (s : State) (n : Nat) : State :=
  if (SMap.find s.lines n).isSome then s
  else
    let sl := homeSlice (64 * n)
    let mine := if s.lines.length < 24576 then [] else (s.lines.map Prod.fst).filter fun k => homeSlice (64 * k) == sl
    let s := (mine.take (mine.length + 1 - s.sliceLines sl)).foldl State.evict s
    { s with lines := SMap.put s.lines n ⟨s.memLine n, false⟩ }

/-- Memory as its homes give it: the cached lines laid over memory. -/
def State.flatMem (s : State) : SMap Byte :=
  s.lines.foldl (fun m e => (List.range 64).foldl (fun m i => SMap.setD m (64 * e.1 + i) 0 (e.2.byte i)) m) s.mem

/-- Offsets below n of the bytes from address p, which no redirect moves, that may be nonzero. -/
def State.listedBytes (s : State) (p n : Nat) : List Nat :=
  s.flatMem.filterMap fun c => if p ≤ c.1 && c.1 < p + n then some (c.1 - p) else none

/-- Count a touch of the page of a memory address (R393). -/
def State.heatPage (s : State) (a : Nat) : State :=
  if s.dev.heatEn then
    let k := s.redirect a / 65536
    let c := SMap.getD s.heat k 0
    if c < 255 then { s with heat := SMap.put s.heat k (c + 1) } else s
  else s

/-- A request has reached the home of an address: its page's heat counts it, and the slice keeps the line when the
machine keeps what it reads (R219, R393) (DESIGN CHOICE, log 7). -/
def State.touch (s : State) (pa : Nat) : State :=
  match s.home pa with
  | .mem a => let s := s.heatPage a; if s.keep then s.fillLine (s.redirect a / 64) else s
  | _ => s

/-- A request that reads n bytes has reached its home: what a read of a local-store row meets is logged (R99, R376). -/
def State.readTouch (s : State) (pa n : Nat) : State :=
  match s.home pa with
  | .ls p off => s.noteRow (s.lsRow p (off / 64)) (Fld.wordsOf (8 * (off % 64)) (8 * n))
  | _ => s.touch pa

end Sys2Proof.Machine
end

