-- ==== Sys2Proof/Machine/Xlate.lean ====
section
/-! DEFINITION. Translation and the checks of an access (R26 to R28, R222 to R225, R304). -/

namespace Sys2Proof.Machine

open Sys2Proof

/-- Whose tables and windows an access uses: the queue, the first core of the gang, the view, and the core whose TLB
looks the address up. -/
structure Agent where
  queue : Nat
  first : Nat
  view : Bool
  core : Nat
  deriving DecidableEq, Repr

/-- The agent a hart is; an element's access goes through core `e` of the gang (R14, R235). -/
def State.agentOf (s : State) (h : Hart) (e : Nat := 0) : Agent :=
  let p := ((s.gangAt h.gang).map Gang.first).getD 0
  ⟨h.queue, p, h.view, p + e⟩

/-! ## Page-table entries (R223, R304) -/

namespace Pte

/-- TYPE. -/
def type (e : W64) : Nat := bits e.toNat 10 8
/-- EX. -/
def ex (e : W64) : Bool := e.getLsbD 7
/-- WR. -/
def wr (e : W64) : Bool := e.getLsbD 6
/-- RD. -/
def rd (e : W64) : Bool := e.getLsbD 5
/-- SZ. -/
def sz (e : W64) : Nat := bits e.toNat 4 3
/-- LEAF. -/
def leaf (e : W64) : Bool := e.getLsbD 2
/-- V. -/
def v (e : W64) : Bool := e.getLsbD 0
/-- The physical address in PA. -/
def pa (e : W64) : Nat := bits e.toNat 55 16 * 65536

/-- The checks that apply to every entry the walker acts on at a level (R223). -/
def entryOk (level : Nat) (e : W64) : Bool :=
  v e && bits e.toNat 63 56 == 0 && bits e.toNat 15 11 == 0 && !e.getLsbD 1 &&
  !(level == 1 && leaf e) && !(level == 3 && !leaf e)

/-- The checks that apply to a leaf at a level and index (R223, R304). -/
def leafOk (level idx : Nat) (e : W64) : Bool :=
  type e ≤ 2 && sz e ≤ 2 &&
  (if level == 2 then sz e == 2 else sz e != 2) &&
  !(sz e == 2 && idx % 4 != 0) && !(sz e == 1 && idx % 32 != 0) &&
  !(sz e == 1 && bits e.toNat 20 16 != 0) && !(sz e == 2 && bits e.toNat 29 16 != 0) &&
  !(ex e && wr e) && !(ex e && type e != 0) &&
  !(type e == 1 && !(sz e == 0 && rd e && wr e && bits e.toNat 55 24 == 0))

/-- log2 of the size of a leaf's page. -/
def logSize (e : W64) : Nat := match sz e with | 0 => 16 | 1 => 21 | _ => 30

/-- A leaf that maps every page for loads and stores: what the local window acts as (R28). -/
def window : W64 := 0x65

end Pte

/-- Read a page-table entry from its home: a relaxed device-scope load (R225). What the memory of another device holds
is a free value (DESIGN CHOICE, log 56). -/
def State.readPte (s : State) (table idx : Nat) : W64 :=
  match s.home (table + 8 * idx) with
  | .remote => Config.farEntry s.serial (table + 8 * idx)
  | _ => BitVec.ofNat 64 (s.physVal (table + 8 * idx) 8)

/-- At one level, the entry that decides: the group's first when it is a leaf of the group's size, else the entry at
the index (R222). -/
def State.walkLevel (s : State) (level table idx : Nat) : Option W64 :=
  let first := if level = 2 then idx / 4 * 4 else idx / 32 * 32
  let size := if level = 2 then 2 else 1
  let f := s.readPte table first
  if Pte.entryOk level f && Pte.leaf f && Pte.sz f == size && Pte.leafOk level first f then some f
  else
    let e := s.readPte table idx
    if Pte.entryOk level e && (!Pte.leaf e || Pte.leafOk level idx e) then some e else none

/-- The walk of a 52-bit virtual address from a root (R222): the leaf. -/
def State.walk (s : State) (root va : Nat) : Option W64 :=
  let e1 := s.readPte root (bits va 51 40)
  if Pte.entryOk 1 e1 then
    match s.walkLevel 2 (Pte.pa e1) (bits va 39 28) with
    | some e2 => if Pte.leaf e2 then some e2 else s.walkLevel 3 (Pte.pa e2) (bits va 27 16)
    | none => none
  else none

/-- A translation: the leaf and the physical address; for a PANTRY page the region's EN and NF (R304). -/
structure Xl where
  leaf : W64
  pa : Nat
  en : Bool
  nf : Nat
  deriving DecidableEq, Repr

/-- The translation a leaf gives an address. -/
def Xl.ofLeaf (leaf : W64) (va : Nat) (en : Bool) (nf : Nat) : Xl :=
  ⟨leaf, Pte.pa leaf + va % 2 ^ Pte.logSize leaf, en, nf⟩

/-- The Pantry region a leaf names (R304). -/
def Pte.region (e : W64) : Nat := bits e.toNat 23 16

/-- Walk, reading the region's EN and NF along (R225, R304). -/
def State.walkXl (s : State) (q va : Nat) : Option Xl :=
  (s.walk (s.lqAt q).runRoot.toNat va).map fun l =>
    Xl.ofLeaf l va (Region.en (s.region (Pte.region l))) (Region.nf (s.region (Pte.region l)))

/-- Whether an entry is of this TLB: a core's, or its cluster's. -/
def Tlb.ofLevel (t : Tlb) (core : Nat) (own : Bool) : Bool :=
  if own then t.core == some core else t.core.isNone && t.cluster == core / 24

/-- The entry of a core's TLB, or of its cluster's, that covers an address (R225). -/
def State.tlbAt (s : State) (core : Nat) (own : Bool) (q va : Nat) : Option Tlb :=
  s.tlb.find? fun t => t.ofLevel core own && t.queue == q && t.base ≤ va && va < t.base + t.size

/-- The entry that translates an address: the core's TLB before its cluster's (R14, R225). -/
def State.tlbHit (s : State) (core q va : Nat) : Option Tlb :=
  match s.tlbAt core true q va with
  | some t => some t
  | none => s.tlbAt core false q va

/-- Translate a virtual address (R28, R222): `none` is a translation fault. -/
def State.translate (s : State) (a : Agent) (va : W64) : Option Xl :=
  let v := va.toNat
  if 2 ^ 52 ≤ v then none
  else if 0xFFFFFFC000000 ≤ v then
    if v < 0xFFFFFFC200000 then
      some ⟨Pte.window, s.lsPa (s.lcidOf a.first) (v - 0xFFFFFFC000000), false, 0⟩
    else if v < 0xFFFFFFD000000 then none
    else
      let c := (v - 0xFFFFFFD000000) / 0x200000
      some ⟨Pte.window, s.lsPa (24 * (a.first / 24) + c) (v % 0x200000), false, 0⟩
  else
    match s.tlbHit a.core a.queue v with
    | some t => some (Xl.ofLeaf t.leaf v t.en t.nf)
    | none => s.walkXl a.queue v

/-- Enter a translation into a TLB of n entries; the one entered longest ago makes room (R14) (DESIGN CHOICE, log 7). -/
def State.enterTlb (s : State) (core : Nat) (own : Bool) (n : Nat) (t : Tlb) : State :=
  let mine (x : Tlb) : Bool := x.ofLevel core own
  { s with tlb := t :: if (s.tlb.filter mine).length < n then s.tlb else (s.tlb.reverse.eraseP mine).reverse }

/-- Enter a translation into the TLB of the core and, when its cluster's misses too, into both (R14, R225) (DESIGN CHOICE,
log 7). -/
def State.fillTlb (s : State) (a : Agent) (va : W64) : State :=
  if (s.tlbAt a.core true a.queue va.toNat).isSome then s
  else
    match s.tlbAt a.core false a.queue va.toNat with
    | some t => s.enterTlb a.core true 1024 { t with core := some a.core }
    | none =>
      match s.walkXl a.queue va.toNat with
      | none => s
      | some x =>
        let size := 2 ^ Pte.logSize x.leaf
        let t : Tlb := ⟨a.core / 24, none, a.queue, va.toNat / size * size, size, x.leaf, x.en, x.nf⟩
        (s.enterTlb a.core false 16384 t).enterTlb a.core true 1024 { t with core := some a.core }

/-- Kinds of access that R224 tells apart; `writeback` is CWB. -/
inductive Access where
  | load | store | atomic | copyRead | copyWrite | writeback
  deriving DecidableEq, Repr

/-- Whether a kind of access needs RD, and WR with EX = 0 (R224). -/
def Access.perms : Access → Bool × Bool
  | .load | .copyRead | .writeback => (true, false)
  | .store | .copyWrite => (false, true)
  | .atomic => (true, true)

/-- The checks of R224 after translation. `scalar` is the size of a scalar load or store, 0 for every other access. -/
def State.checkLeaf (s : State) (a : Agent) (x : Xl) (k : Access) (scalar : Nat) : Option Cause :=
  if k = .writeback then
    if !Pte.rd x.leaf then some .dataProt else match s.home x.pa with | .absent => some .dataXlate | _ => none
  else if Pte.type x.leaf = 1 then some .dataProt
  else if k.perms.1 && !Pte.rd x.leaf then some .dataProt
  else if k.perms.2 && !(Pte.wr x.leaf && !Pte.ex x.leaf) then some .dataProt
  else if Pte.type x.leaf = 2 && scalar < 4 then some .dataProt
  else
    match s.home x.pa with
    | .absent => some .dataXlate
    | .ctrl off =>
      if !ctrlKnown off then some .dataXlate
      else if scalar < 4 || !a.view then some .dataProt
      else none
    | .remote => if 0x300000000000 ≤ x.pa % 2 ^ 46 then some .dataProt else none
    | _ => none

/-- Translate and check an access: the physical address, or the cause (R222 to R224). -/
def State.access (s : State) (a : Agent) (va : W64) (k : Access) (scalar : Nat) : Except Cause Nat :=
  match s.translate a va with
  | none => .error .dataXlate
  | some x =>
    match s.checkLeaf a x k scalar with
    | some c => .error c
    | none => .ok x.pa

/-- Translate the address of a fetch line (R41, R86). A page on another device gives FETCH_XLATE: the spec names no path
for such a fetch (DESIGN CHOICE, log 57). -/
def State.fetchXlate (s : State) (a : Agent) (va : W64) : Option Nat :=
  match s.translate a va with
  | none => none
  | some x =>
    if Pte.ex x.leaf && Pte.type x.leaf == 0 then
      match s.home x.pa with
      | .mem _ => some x.pa
      | .ls _ _ => some x.pa
      | _ => none
    else none

/-! ## Reads and writes through a hart: its own stores first (R237, R240, R249) -/

/-- Lay bytes at `pa` over a read of n bytes from `a`. -/
def overlay (a : Nat) (bs : List Byte) (pa : Nat) (w : List Byte) : List Byte :=
  (List.range bs.length).map fun i =>
    if pa ≤ a + i && a + i < pa + w.length then w.getD (a + i - pa) 0 else bs.getD i 0

/-- The byte that a hart's commit buffer holds for an address (R248), also under another address of it (R396). -/
def State.bufByte (s : State) (h : Hart) (pa : Nat) : Option Byte :=
  (h.buf.find? fun e => s.placeOfPa e.1 == s.placeOfPa pa).map Prod.snd

/-- A hart's own undrained stores and its commit buffer laid over bytes from an address. -/
def State.ownBytes (s : State) (h : Hart) (pa : Nat) (bs : List Byte) : List Byte :=
  let b := h.drain.foldl (fun b d => overlay (s.placeOfPa pa) b (s.placeOfPa d.pa) d.bytes) bs
  if h.buf.isEmpty then b
  else (List.range b.length).map fun i => (s.bufByte h (pa + i)).getD (b.getD i 0)

/-- What a hart's load of n bytes returns: the home's bytes with the hart's own laid over them. -/
def State.loadBytes (s : State) (h : Hart) (pa n : Nat) : List Byte := s.ownBytes h pa (s.physRead pa n)

/-- The value of such a load. -/
def State.loadVal (s : State) (h : Hart) (pa n : Nat) : Nat := leNat (s.loadBytes h pa n)

/-- The number of bytes of a store that the commit buffer does not hold yet (R248). -/
def State.newBytes (s : State) (h : Hart) (pa n : Nat) : Nat :=
  ((List.range n).filter fun i => (s.bufByte h (pa + i)).isNone).length

/-- Whether a store fits the 16 KiB commit buffer (R248). -/
def State.fits (s : State) (h : Hart) (pa n : Nat) : Bool := h.buf.length + s.newBytes h pa n ≤ 16384

/-- The commit buffer without the bytes of a store's place that it holds under another address. -/
def State.dropAlias (s : State) (b : SMap Byte) (pa n : Nat) : SMap Byte :=
  if s.redirects.isEmpty then b
  else SMap.restrict b fun k => !((List.range n).any fun i => k != pa + i && s.placeOfPa k == s.placeOfPa (pa + i))

/-- Enter a store into the commit buffer (R248); a store of a whole line is told apart (R398). -/
def State.bufStore (s : State) (h : Hart) (pa : Nat) (bs : List Byte) : Hart :=
  { h with
    buf := (List.range bs.length).foldl (fun b i => SMap.put b (pa + i) (bs.getD i 0)) (s.dropAlias h.buf pa bs.length)
    bufLines := if bs.length = 64 then pa / 64 :: h.bufLines else h.bufLines
    bufTouch := h.bufTouch ++ [pa] }

end Sys2Proof.Machine
end

