-- ==== Sys2Proof/Machine/Fetch.lean ====
section
/-! DEFINITION. Fetch lines (R32 to R41): reading a line, its checks, and the convoys it holds. A line is handled as the
512-bit number of its bytes. -/

namespace Sys2Proof.Machine

open Sys2Proof

namespace Line

/-- Parcel p (R32). -/
def parcel (l p : Nat) : Parcel := BitVec.ofNat 32 (bits l (32 * p + 31) (32 * p))

/-- The line word (R33). -/
def word (l : Nat) : Nat := bits l 511 480

/-- START bit of parcel p (R33). -/
def start (l p : Nat) : Bool := (word l).testBit (15 + p)

/-- TARGET bit of parcel p (R33). -/
def target (l p : Nat) : Bool := (word l).testBit p

/-- Even parity over parcels 0 to 7 with PAR0, and over parcels 8 to 14 and line-word bits [29:0] with PAR1 (R33). -/
def parityOk (l : Nat) : Bool :=
  (popCount 256 l + popCount 1 (word l >>> 30)) % 2 == 0 &&
  (popCount 254 (l >>> 256) + popCount 1 (word l >>> 31)) % 2 == 0

/-- The parcels at which instructions begin, and the parcel after the last (R34). -/
def divide (l : Nat) : List Nat × Nat :=
  (List.range 15).foldl (fun (acc : List Nat × Nat) p =>
    if p = acc.2 then (acc.1 ++ [p], p + parcelsOf (parcel l p)) else acc) ([], 0)

/-- The first parcel after p at which a convoy begins, or 15. -/
def nextStart (l p : Nat) : Nat :=
  ((List.range 15).find? fun q => p < q && start l q).getD 15

/-- The instruction starts of the convoy at p. -/
def members (l p : Nat) : List Nat := (divide l).1.filter fun q => p ≤ q && q < nextStart l p

/-- The parcels of the instruction that begins at p. -/
def parcels (l p : Nat) : List Parcel :=
  (List.range (parcelsOf (parcel l p))).map fun i => parcel l (p + i)

/-- The lowest failing condition among 1 to 5 of R35. -/
def reason (l : Nat) : Option Nat :=
  let d := divide l
  if !start l 0 then some 1
  else if (List.range 15).any fun p => target l p && !start l p then some 2
  else if (List.range 15).any fun p => start l p && !d.1.contains p then some 3
  else if d.2 != 15 then some 4
  else if (List.range 15).any fun p => start l p && 4 < (members l p).length then some 5
  else none

end Line

/-- A line as memory holds it (R41). One marked poisoned is read as it stands: R398 speaks of loads and atomics only
(DESIGN CHOICE, log 57). -/
def State.lineAt (s : State) (pa : Nat) : Nat := s.physVal pa 64

/-- The copy of a line in a core's line buffer (R36, R41). -/
def State.lineBuffered (s : State) (core q va : Nat) : Option Nat :=
  (s.lbuf.find? fun b => b.core == core && b.queue == q && b.va == va).map fun b => b.data.toNat

/-- Read a line for issue (R36): the buffered copy when its parity holds, else memory, read once more on a mismatch;
`some (line, again)` tells whether the second read was needed. -/
def State.readLine (s : State) (core q va pa : Nat) : Nat × Bool :=
  match s.lineBuffered core q va with
  | some l => if Line.parityOk l then (l, false) else (s.lineAt pa, true)
  | none => (s.lineAt pa, !Line.parityOk (s.lineAt pa))

/-- What the checks of a line entry give (R37). -/
inductive Fetched where
  | ok (line : Nat)
  | bad (c : Cause) (tval : W64)
  deriving DecidableEq, Repr

/-- The checks of a line entered at `pc`, in the order of R37 (DEDUCED, log 16). -/
def State.fetch (s : State) (a : Agent) (pc : W64) (e : Entry) : Fetched :=
  let base := pc.toNat / 64 * 64
  match s.fetchXlate a (BitVec.ofNat 64 base) with
  | none => .bad .fetchXlate pc
  | some pa =>
    let l := (s.readLine a.first a.queue base pa).1
    let p := pc.toNat % 64 / 4
    let tv (r : Nat) : W64 := BitVec.ofNat 64 (base + r)
    if !Line.parityOk l then .bad .lineParity (tv 0)
    else
      match Line.reason l with
      | some r => .bad .lineFormat (tv r)
      | none =>
        match e with
        | .sequential => .ok l
        | .landing => if p < 15 && Line.target l p then .ok l else .bad .lineFormat (tv 6)
        | .misaligned => .bad .lineFormat (tv 6)
        | .trapReturn => if p < 15 && Line.start l p then .ok l else .bad .lineFormat (tv 7)

/-- The sequential successor of the convoy at `pc` in a line (R38). -/
def Line.successor (l : Nat) (pc : W64) : W64 :=
  let base := pc.toNat / 64 * 64
  let n := Line.nextStart l (pc.toNat % 64 / 4)
  BitVec.ofNat 64 (if n < 15 then base + 4 * n else base + 64)

/-- The sequential successor of the convoy at an address, if a convoy starts there (R88). -/
def State.successorOf (s : State) (a : Agent) (pc : W64) : Option W64 :=
  match s.fetch a pc .trapReturn with
  | .ok l => some (Line.successor l pc)
  | .bad _ _ => none

/-- The instructions of the convoy at `pc` of a line, with their first parcels. -/
def Line.convoy (l : Nat) (pc : W64) : List (Parcel × Except Reject Instr) :=
  (Line.members l (pc.toNat % 64 / 4)).map fun q => (Line.parcel l q, decode (Line.parcels l q))

end Sys2Proof.Machine
end

