-- ==== Sys2Proof/Machine/Footprint.lean ====
section
/-! DEFINITION. What each instruction reads and writes by name (R51, R66, R67), which instructions are vector
instructions (R190), synchronising instructions (R248), control transfers (R53) and system instructions (R54). -/

namespace Sys2Proof

/-- The tag a mask reads. -/
def Mask.tags (m : Mask) : List Nat := if m.en then [m.tag.toNat] else []

/-- The broadcast register of B mode 1 (R133). -/
def VForm.broadcast (v : VForm) : List (Reg × Bool) := if v.bm = 1 then [(v.bReg, v.pb)] else []

/-- The words of B in B mode 0. -/
def VForm.bWords (v : VForm) : List Nat := if v.bm = 0 then Fld.words v.B else []

end Sys2Proof

namespace Sys2Proof.Machine

open Sys2Proof

/-- The words an instruction names (R51): scalar sources with their policy bits (R49), scalar destinations, row words,
tags, tiles (16 * engine + name) and control registers. -/
structure Foot where
  src : List (Reg × Bool) := []
  dst : List Reg := []
  rcols : List Nat := []
  wcols : List Nat := []
  rtags : List Nat := []
  wtags : List Nat := []
  rtiles : List Nat := []
  wtiles : List Nat := []
  rctl : List Nat := []
  wctl : List Nat := []
  deriving DecidableEq, Repr

/-- The register with this number. -/
def rg (n : Nat) : Reg := BitVec.ofNat 6 n

/-- Registers n, n + 1, ..., k of them, with one policy bit. -/
def regRun (n k : Nat) (p : Bool) : List (Reg × Bool) := (List.range k).map fun i => (rg (n + i), p)

/-- The control registers every vector instruction reads (R51, R189). -/
def vectorCtl : List Nat := [0x000, 0x001, 0x002, 0x011, 0x050]

/-- A register-only footprint. -/
def Foot.regs (src : List (Reg × Bool)) (dst : List Reg) : Foot := { src := src, dst := dst }

/-- A tag instruction (R112 to R114). -/
def Foot.tag (r : List Nat) (wt : List Nat) (m : Mask) : Foot :=
  { rtags := r ++ m.tags, wtags := wt, rctl := vectorCtl }

/-- Associative arithmetic (R135): reads A, B or the register, extra words and tags; writes D and extra words. -/
def Foot.assoc (v : VForm) (r wr rt wt : List Nat) : Foot :=
  { src := v.broadcast, rcols := Fld.words v.A ++ v.bWords ++ r, wcols := wr, rtags := v.m.tags ++ rt, wtags := wt
    rctl := vectorCtl }

/-- Element pipe (R169): A, B or the register of x[0], C. -/
def Foot.pipe (v : VForm) (r : List Nat) : Foot :=
  { src := if v.xb 0 0 = 1 then [(v.bReg, v.pb)] else []
    rcols := Fld.words v.A ++ (if v.xb 0 0 = 1 then [] else Fld.words v.B) ++ r
    wcols := Fld.words v.D, rtags := v.m.tags, rctl := vectorCtl }

/-- Element pipe and special functions on A alone (R169). -/
def Foot.unary (v : VForm) : Foot :=
  { rcols := Fld.words v.A, wcols := Fld.words v.D, rtags := v.m.tags, rctl := vectorCtl }

/-- Reductions to a scalar register (R150, R169). -/
def Foot.reduce (v : VForm) (acc : Bool) (r wt : List Nat) : Foot :=
  { src := if acc then [(v.dReg, false)] else [], dst := [v.dReg], rcols := Fld.words v.A ++ r
    rtags := v.m.tags, wtags := wt, rctl := vectorCtl }

/-- Word 15, when the type is BFP (R51). -/
def bfpWord (t : Nat) : List Nat := if t = 7 then [15] else []

/-- Vector loads and stores (R228). -/
def Foot.vmem (o : SForm) (src : List (Reg × Bool)) (r wr : List Nat) (wctl : List Nat) : Foot :=
  { src := (o.a, o.pa) :: src, rcols := r, wcols := wr, rtags := o.mask.tags, rctl := vectorCtl, wctl := wctl }

/-- All sixteen words of a row. -/
def allWords : List Nat := List.range 16

/-- Matrix products (R202, R204). -/
def Foot.matrix (v : VForm) (src : List (Reg × Bool)) : Foot :=
  let t := 16 * v.mE + v.mT
  { src := src, rcols := Fld.words v.A ++ Fld.words v.B ++ bfpWord v.ty, rtags := v.m.tags
    rtiles := [t], wtiles := [t], rctl := vectorCtl }

/-- The value registers of a Pantry pattern, then the timeout register (R308, R309). -/
def Foot.pantry (o : SForm) : List (Reg × Bool) :=
  (o.a, o.pa) :: regRun o.b.toNat o.pV o.pb ++ if o.eb 28 then [(rg (o.b.toNat + o.pV), false)] else []

/-- The footprint of an instruction. An AMCODE run names its fields through a register (R117). The policy bit of DQSTEAL's
victim register, of which R276 says that it always waits, acts as R49 has it: EMPTY_TRAP at 1 (DESIGN CHOICE, log 66).
VSCALE counts as writing the words of D, as R135 lists them, though R134 has D read only (DESIGN CHOICE, log 67). -/
def foot (h : Hart) : Instr → Foot
  | .nop => {}
  | .addi d a _ => .regs [(a, false)] [d]
  | .andi d a _ => .regs [(a, false)] [d]
  | .ori d a _ => .regs [(a, false)] [d]
  | .xori d a _ => .regs [(a, false)] [d]
  | .slli d a _ => .regs [(a, false)] [d]
  | .srli d a _ => .regs [(a, false)] [d]
  | .srai d a _ => .regs [(a, false)] [d]
  | .slti d a _ => .regs [(a, false)] [d]
  | .sltin d a _ => .regs [(a, false)] [d]
  | .movi d _ => .regs [] [d]
  | .add d a b => .regs [(a, false), (b, false)] [d]
  | .sub d a b => .regs [(a, false), (b, false)] [d]
  | .and d a b => .regs [(a, false), (b, false)] [d]
  | .or d a b => .regs [(a, false), (b, false)] [d]
  | .xor d a b => .regs [(a, false), (b, false)] [d]
  | .andn d a b => .regs [(a, false), (b, false)] [d]
  | .sll d a b => .regs [(a, false), (b, false)] [d]
  | .srl d a b => .regs [(a, false), (b, false)] [d]
  | .sra d a b => .regs [(a, false), (b, false)] [d]
  | .slt d a b => .regs [(a, false), (b, false)] [d]
  | .sltn d a b => .regs [(a, false), (b, false)] [d]
  | .min d a b => .regs [(a, false), (b, false)] [d]
  | .max d a b => .regs [(a, false), (b, false)] [d]
  | .minn d a b => .regs [(a, false), (b, false)] [d]
  | .maxn d a b => .regs [(a, false), (b, false)] [d]
  | .mul d a b => .regs [(a, false), (b, false)] [d]
  | .mulh d a b => .regs [(a, false), (b, false)] [d]
  | .mulhn d a b => .regs [(a, false), (b, false)] [d]
  | .div d a b => .regs [(a, false), (b, false)] [d]
  | .divn d a b => .regs [(a, false), (b, false)] [d]
  | .rem d a b => .regs [(a, false), (b, false)] [d]
  | .remn d a b => .regs [(a, false), (b, false)] [d]
  | .clz d a => .regs [(a, false)] [d]
  | .ctz d a => .regs [(a, false)] [d]
  | .popc d a => .regs [(a, false)] [d]
  | .mov d a => .regs [(a, false)] [d]
  | .ld d a _ => .regs [(a, false)] [d]
  | .st d a _ => .regs [(a, false), (d, false)] []
  | .beqz a _ => .regs [(a, false)] []
  | .bnez a _ => .regs [(a, false)] []
  | .j _ => {}
  | .jal _ => .regs [] [63]
  | .jr a _ => .regs [(a, false)] []
  | .jalr a _ => .regs [(a, false)] [63]
  | .loop _ a _ => .regs [(a, false)] []
  | .crd d r => { dst := [d], rctl := if r.toNat = 0x10 || r.toNat = 0x12 then [] else [r.toNat] }
  | .cwr a r => { src := [(a, false)], wctl := if r.toNat = 0x10 || r.toNat = 0x12 then [] else [r.toNat] }
  | .setvl d a => { src := [(a, false)], dst := [d], wctl := [0x000, 0x001] }
  | .tand td ta tb m => .tag [ta.toNat, tb.toNat] [td.toNat] m
  | .tor td ta tb m => .tag [ta.toNat, tb.toNat] [td.toNat] m
  | .txor td ta tb m => .tag [ta.toNat, tb.toNat] [td.toNat] m
  | .tandn td ta tb m => .tag [ta.toNat, tb.toNat] [td.toNat] m
  | .tnot td ta m => .tag [ta.toNat] [td.toNat] m
  | .tset td m => .tag [] [td.toNat] m
  | .tclr td m => .tag [] [td.toNat] m
  | .tmov td ta m => .tag [ta.toNat] [td.toNat] m
  | .tcnt d ta m => { Foot.tag [ta.toNat] [] m with dst := [d] }
  | .tany d ta m => { Foot.tag [ta.toNat] [] m with dst := [d] }
  | .tfirst d ta m => { Foot.tag [ta.toNat] [] m with dst := [d] }
  | .tpick td ta a m => { Foot.tag [ta.toNat] [td.toNat] m with src := [(a, false)] }
  | .brk _ => {}
  | .svc _ => {}
  | .fence _ => {}
  | .exit => {}
  | .exitFail => {}
  | .yield => {}
  | .uret => {}
  | .eret => {}
  | .addw o => .regs [(o.a, o.pa)] [o.d]
  | .movw o => .regs [] [o.d]
  | .movhi o => .regs [(o.a, o.pa)] [o.d]
  | .lds o => .regs [(o.a, o.pa)] [o.d]
  | .sts o => .regs [(o.a, o.pa), (o.d, false)] []
  | .bc o => .regs [(o.a, o.pa), (o.b, o.pb)] []
  | .jl _ => .regs [] [63]
  | .sel o => .regs [(o.a, o.pa), (o.b, o.pb), (rg (o.e 5 0), false)] [o.d]
  | .bext o => .regs [(o.a, o.pa)] [o.d]
  | .bins o => .regs [(o.a, o.pa), (o.b, o.pb)] [o.d]
  | .lpset o => .regs [(o.a, o.pa), (o.b, o.pb), (o.d, false)] []
  | .movl o _ => .regs [] [o.d]
  | .addl o _ => .regs [(o.a, o.pa)] [o.d]
  | .andl o _ => .regs [(o.a, o.pa)] [o.d]
  | .orl o _ => .regs [(o.a, o.pa)] [o.d]
  | .xorl o _ => .regs [(o.a, o.pa)] [o.d]
  | .bcl o _ => .regs [(o.a, o.pa)] []
  | .loopl _ _ => {}
  | .asrch o => { src := [(o.a, o.pa), (o.b, o.pb)], rcols := Fld.words o.fld, rtags := o.mask.tags ++ (if o.e 19 18 = 0 then [] else [o.e 17 15]), wtags := [o.e 17 15], rctl := vectorCtl }
  | .awr o => { src := [(o.a, o.pa), (o.b, o.pb)], wcols := Fld.words o.fld, rtags := o.mask.tags, rctl := vectorCtl }
  | .asrchl o => { rcols := Fld.words o.fld, rtags := o.mask.tags ++ (if o.e 19 18 = 0 then [] else [o.e 17 15]), wtags := [o.e 17 15], rctl := vectorCtl }
  | .awrl o => { wcols := Fld.words o.fld, rtags := o.mask.tags, rctl := vectorCtl }
  | .tshup o => { src := [(o.a, o.pa)], rtags := o.e 2 0 :: o.mask.tags, wtags := [o.e 17 15], rctl := vectorCtl }
  | .tshdn o => { src := [(o.a, o.pa)], rtags := o.e 2 0 :: o.mask.tags, wtags := [o.e 17 15], rctl := vectorCtl }
  | .amcodeRun o => 
    let f (k : Nat) := Fld.words ((h.reg o.a).extractLsb' k 15)
    let known := h.isFull o.a
    { src := [(o.a, o.pa), (o.b, o.pb)], rcols := if known then f 0 ++ f 15 ++ f 30 else [], wcols := if known then f 30 else []
      rtags := List.range 8, wtags := List.range 8, rctl := vectorCtl }
  | .amcodeLoad o => .regs [(o.a, o.pa), (o.b, o.pb)] []
  | .vadd v => .assoc v [] (Fld.words v.D) [] []
  | .vsub v => .assoc v [] (Fld.words v.D) [] []
  | .vadds v => .assoc v [] (Fld.words v.D) [] []
  | .vsubs v => .assoc v [] (Fld.words v.D) [] []
  | .vmul v => .assoc v [] (Fld.words v.D) [] []
  | .vmulh v => .assoc v [] (Fld.words v.D ++ Fld.words v.fC) [] []
  | .vmac v => .assoc v (Fld.words v.D) (Fld.words v.D) [] []
  | .vneg v => .unary v
  | .vabs v => .unary v
  | .vabsd v => .assoc v [] (Fld.words v.D) [] []
  | .vmin v => .assoc v [] (Fld.words v.D) [] []
  | .vmax v => .assoc v [] (Fld.words v.D) [] []
  | .vand v => .assoc v [] (Fld.words v.D) [] []
  | .vor v => .assoc v [] (Fld.words v.D) [] []
  | .vxor v => .assoc v [] (Fld.words v.D) [] []
  | .vnot v => .unary v
  | .vshl v => .assoc v [] (Fld.words v.D) [] []
  | .vshr v => .assoc v [] (Fld.words v.D) [] []
  | .vsra v => .assoc v [] (Fld.words v.D) [] []
  | .vcmp v => .assoc v [] [] [] [v.dTag.toNat]
  | .vsel v => .assoc v [] (Fld.words v.D) [v.xb 2 0] []
  | .vmov v => if v.bm = 0 then .unary v else { src := v.broadcast, wcols := Fld.words v.D, rtags := v.m.tags, rctl := vectorCtl }
  | .vcvt v => { Foot.unary v with rcols := Fld.words v.A ++ bfpWord (v.xb 4 0) }
  | .vpopc v => .unary v
  | .vdiv v => .assoc v [] (Fld.words v.D) [] []
  | .vmull v => .assoc v [] (Fld.words v.D) [] []
  | .vbfpq v => { Foot.unary v with rcols := Fld.words v.A ++ [15], wcols := Fld.words v.D ++ [15] }
  | .vscale v => { src := v.broadcast, rcols := Fld.words v.D ++ [15], wcols := Fld.words v.D ++ [15], rtags := v.m.tags, rctl := vectorCtl }
  | .vrsum v => .reduce v (v.fnb 0) (bfpWord v.ty) []
  | .vrmin v => .reduce v (v.fnb 0) [] [bits v.D.toNat 8 6]
  | .vrmax v => .reduce v (v.fnb 0) [] [bits v.D.toNat 8 6]
  | .vscan v => { Foot.unary v with rtags := v.m.tags ++ (if v.fnb 1 then [v.xb 2 0] else []) }
  | .vtopk v => { Foot.reduce v false [] [bits v.D.toNat 8 6, bits v.D.toNat 11 9] with src := [(v.bReg, v.pb)] }
  | .vsimh v => { Foot.unary v with src := [(v.bReg, v.pb)] }
  | .vsimd v => { Foot.unary v with src := [(v.bReg, v.pb)] }
  | .vcbound v => { Foot.unary v with src := [(v.bReg, v.pb)] }
  | .vcwalk v => { Foot.assoc v [] (Fld.words v.D) [] [] with src := v.broadcast ++ [(v.xReg 0, false)] }
  | .vcdirty v => { src := [(v.bReg, v.pb), (v.xReg 0, false)], rcols := Fld.words v.A, rtags := v.m.tags, wtags := [v.dTag.toNat], rctl := vectorCtl }
  | .unmk v => { src := regRun (v.xb 8 3) 5 false, dst := [v.xReg 9], rcols := Fld.words v.A ++ Fld.words v.B, wcols := Fld.words v.D, rtags := v.m.tags, wtags := v.m.tags ++ [v.xb 2 0], rctl := vectorCtl }
  | .fadd v => .pipe v []
  | .fsub v => .pipe v []
  | .fmul v => .pipe v []
  | .ffma v => { Foot.unary v with rcols := Fld.words v.A ++ Fld.words v.B ++ Fld.words v.fC }
  | .ffms v => { Foot.unary v with rcols := Fld.words v.A ++ Fld.words v.B ++ Fld.words v.fC }
  | .fmin v => .pipe v []
  | .fmax v => .pipe v []
  | .fabs v => .unary v
  | .fneg v => .unary v
  | .fcmp v => { Foot.pipe v [] with wcols := [], wtags := [v.dTag.toNat] }
  | .fcvt v => .unary v
  | .fdiv v => .pipe v []
  | .fsqrt v => .unary v
  | .frcp v => .unary v
  | .frsq v => .unary v
  | .fexp2 v => .unary v
  | .flog2 v => .unary v
  | .fsin v => .unary v
  | .fcos v => .unary v
  | .ftanh v => .unary v
  | .fsig v => .unary v
  | .ferf v => .unary v
  | .frsum v => .reduce v (v.fnb 0) [] []
  | .frmax v => .reduce v (v.fnb 0) [] []
  | .gang o => .regs [] [o.d]
  | .vbcast o => { src := [(o.a, o.pa)], rcols := Fld.words o.xA, wcols := (Fld.words o.fld), rtags := o.xmask.tags, rctl := vectorCtl }
  | .vext o => { src := [(o.a, o.pa)], dst := [o.d], rcols := Fld.words o.xA, rctl := vectorCtl }
  | .vins o => { src := [(o.a, o.pa), (o.d, false)], wcols := (Fld.words o.fld), rctl := vectorCtl }
  | .vslide o => { src := [(o.a, o.pa), (o.d, false)], rcols := Fld.words o.xA, wcols := (Fld.words o.fld), rtags := o.xmask.tags, rctl := vectorCtl }
  | .vpermr o => { src := [(o.a, o.pa)], rcols := Fld.words o.xA, wcols := (Fld.words o.fld), rtags := o.xmask.tags, rctl := vectorCtl }
  | .vgrant o => { src := [(o.a, o.pa)], dst := [o.d], wctl := [0x002] }
  | .mma v => .matrix v [(v.xReg 0, false), (v.xReg 6, false), (v.xReg 12, false)]
  | .mmas v => .matrix v [(v.xReg 0, false), (v.xReg 6, false), (v.xReg 12, false), (v.xReg 18, false)]
  | .mmau v => .matrix v [(v.xReg 6, false)]
  | .mlda o => { src := [(o.a, o.pa)], rcols := Fld.words o.fld, wtiles := [16 * o.mE + o.mT] }
  | .msta o => { src := [(o.a, o.pa)], wcols := Fld.words o.fld, rtiles := [16 * o.mE + o.mT] }
  | .mzero o => { wtiles := [16 * o.mE + o.mT] }
  | .mdesc o => .regs [(o.a, o.pa)] []
  | .mdescRd o => .regs [] [o.d]
  | .mwait _ => {}
  | .mchk o => { dst := [o.d], rtiles := [16 * o.mE + o.mT] }
  | .vld o => .vmem o [] [] (Fld.words o.fld) []
  | .vst o => .vmem o [] (Fld.words o.fld) [] []
  | .vlds o => .vmem o [(o.b, o.pb)] [] (Fld.words o.fld) []
  | .vsts o => .vmem o [(o.b, o.pb)] (Fld.words o.fld) [] []
  | .vldx o => .vmem o [] (Fld.words o.vIndex) (Fld.words o.fld) []
  | .vstx o => .vmem o [] (Fld.words o.fld ++ Fld.words o.vIndex) [] []
  | .vldff o => .vmem o [] [] (Fld.words o.fld) [0x000]
  | .rld o => .vmem o [] [] allWords []
  | .rst o => .vmem o [] allWords [] []
  | .pref o => .regs [(o.a, o.pa), (o.b, o.pb)] []
  | .cwb o => .regs [(o.a, o.pa), (o.b, o.pb)] []
  | .amo o => .regs [(o.a, o.pa), (o.b, o.pb), (rg (o.e 16 11), false)] [o.d]
  | .vamo o => { src := [(o.a, o.pa), (o.d, false)], rcols := Fld.words o.amoF ++ Fld.words o.amoIndex, wcols := if o.eb 4 then [] else Fld.words o.amoF, rtags := o.amoMask.tags, rctl := vectorCtl }
  | .ldf o => .regs [(o.a, o.pa), (o.b, false)] [o.d]
  | .ldfe o => .regs [(o.a, o.pa), (o.b, false)] [o.d]
  | .ste o => .regs [(o.a, o.pa), (o.b, false), (o.d, false)] []
  | .stf o => .regs [(o.a, o.pa), (o.d, false)] []
  | .feset o => .regs [(o.a, o.pa), (o.b, o.pb)] []
  | .waita o => .regs [(o.a, o.pa), (o.b, o.pb), (rg (o.e 9 4), false)] [o.d]
  | .stwk o => .regs [(o.a, o.pa), (o.b, o.pb)] []
  | .barGang o => .regs [(o.b, false)] [o.d]
  | .barClus o => .regs [(o.a, o.pa), (o.b, false)] [o.d]
  | .dqpush o => .regs [(o.a, o.pa)] [o.d]
  | .dqpop o => .regs [] [o.d]
  | .dqsteal o => .regs [(o.a, o.pa)] [o.d]
  | .cpush o => .regs [(o.a, o.pa)] [o.d]
  | .cstat o => .regs [] [o.d]
  | .cwait o => .regs [(o.b, false)] []
  | .ckill o => .regs [] [o.d]
  | .ckillRel o => .regs [(o.a, o.pa)] []
  | .xrow o => .regs [(o.d, false), (o.a, o.pa), (o.b, o.pb)] []
  | .pdep o => .regs ((o.a, o.pa) :: (o.b, o.pb) :: if o.eb 21 then [] else regRun (o.b.toNat + 1) (o.pK - 1) false) (if o.eb 20 then [o.d] else [])
  | .pcopy o => .regs (Foot.pantry o ++ if o.eb 21 then [(rg o.pRes, false)] else []) (o.d :: if o.eb 21 then [] else (List.range o.pB).map fun i => rg (o.pRes + i))
  | .ptake o => .regs (Foot.pantry o ++ if o.eb 21 then [(rg o.pRes, false)] else []) (o.d :: if o.eb 21 then [] else (List.range o.pB).map fun i => rg (o.pRes + i))
  | .pcnl o => .regs [] [o.d]
  | .pcnt o => .regs (Foot.pantry o) [o.d]
  | .cwalk o => .regs [(o.a, o.pa), (o.b, o.pb), (rg (o.e 5 0), false)] [o.d]
  | .cdirty o => .regs [(o.a, o.pa), (o.b, o.pb)] []
  | .launch o => .regs [(o.a, o.pa), (o.b, o.pb)] [o.d]
  | .preempt o => .regs [(o.a, o.pa)] [o.d]
  | .ctxsv o => .regs [(o.a, o.pa), (o.b, o.pb)] [o.d]
  | .ctxld o => .regs [(o.a, o.pa), (o.b, o.pb)] [o.d]
  | .migr o => .regs [(o.a, o.pa), (o.b, o.pb)] [o.d]
  | .lcidset o => .regs [(o.a, o.pa), (o.b, o.pb)] [o.d]
  | .tlbinv o => .regs [(o.a, o.pa), (o.b, o.pb)] []
  | .tlbinva o => .regs [(o.b, o.pb)] []
  | .bringUp _ => {}
  | .pageWalk _ _ => {}
  | .thermalRequest _ _ => {}
  | .lqTailWrite _ _ => {}
  | .controlRegisterWrite _ _ _ => {}
  | .phaseDelayExpire _ _ => {}
  | .matrixCommit _ _ => {}
  | .copyLineLand _ _ => {}
  | .copyRecordComplete _ _ => {}
  | .pantryTimeout _ _ => {}
  | .prgnWrite _ _ => {}
  | .mqTailWrite _ => {}
  | .hostWrite _ _ _ _ => {}
  | .hostRead _ _ _ => {}
  | .remoteRequest _ _ => {}
  | .retirementAppend _ _ => {}
  | .storeDrain _ _ => {}
  | .singleBitUpset _ _ _ _ => {}
  | .deviceReset => {}
  | .convoyIssue => {}
  | .lineFetch => {}
  | .lineRefetch => {}
  | .convoyRetire => {}
  | .registerFill => {}
  | .vectorLoadFill => {}
  | .arrayScrub => {}
  | .droopFreeze => {}
  | .droopHoldExpire => {}
  | .migrationSearch => {}
  | .thermalMigration => {}
  | .lcidExchange => {}
  | .lqPreempt => {}
  | .lqResume => {}
  | .launchStart => {}
  | .iterationDispatch => {}
  | .hartEnd => {}
  | .launchComplete => {}
  | .preemptionSave => {}
  | .gangResumePlace => {}
  | .quantumEnd => {}
  | .quantumCommit => {}
  | .matrixStart => {}
  | .copyRecordBegin => {}
  | .homeAtomicPerform => {}
  | .parkRetry => {}
  | .feWaitServe => {}
  | .waitTimeoutExpire => {}
  | .watchReevaluate => {}
  | .barrierRelease => {}
  | .barrierTimeout => {}
  | .pantryMessageServe => {}
  | .pantryRefuseRetry => {}
  | .pantryReply => {}
  | .cellarWalkServe => {}
  | .move => {}
  | .release => {}
  | .heatdump => {}
  | .movePageCutover => {}
  | .heatEpochHalve => {}
  | .remoteTimeout => {}
  | .powerClamp => {}
  | .thermalTrip => {}
  | .bar2Resize => {}

/-- Vector instructions: every V form, and every C or S form that acts on elements or reads VL (R190). -/
def isVector : Instr → Bool
  | .tand _ _ _ _ => true
  | .tor _ _ _ _ => true
  | .txor _ _ _ _ => true
  | .tandn _ _ _ _ => true
  | .tnot _ _ _ => true
  | .tmov _ _ _ => true
  | .tset _ _ => true
  | .tclr _ _ => true
  | .tcnt _ _ _ => true
  | .tany _ _ _ => true
  | .tfirst _ _ _ => true
  | .tpick _ _ _ _ => true
  | .vld _ => true
  | .vst _ => true
  | .vlds _ => true
  | .vsts _ => true
  | .vldx _ => true
  | .vstx _ => true
  | .vldff _ => true
  | .rld _ => true
  | .rst _ => true
  | .vamo _ => true
  | .asrch _ => true
  | .awr _ => true
  | .asrchl _ => true
  | .awrl _ => true
  | .tshup _ => true
  | .tshdn _ => true
  | .amcodeRun _ => true
  | .vbcast _ => true
  | .vext _ => true
  | .vins _ => true
  | .vslide _ => true
  | .vpermr _ => true
  | .vadd _ => true
  | .vsub _ => true
  | .vadds _ => true
  | .vsubs _ => true
  | .vmul _ => true
  | .vmulh _ => true
  | .vmac _ => true
  | .vneg _ => true
  | .vabs _ => true
  | .vabsd _ => true
  | .vmin _ => true
  | .vmax _ => true
  | .vand _ => true
  | .vor _ => true
  | .vxor _ => true
  | .vnot _ => true
  | .vshl _ => true
  | .vshr _ => true
  | .vsra _ => true
  | .vcmp _ => true
  | .vsel _ => true
  | .vmov _ => true
  | .vcvt _ => true
  | .vpopc _ => true
  | .vdiv _ => true
  | .vmull _ => true
  | .vbfpq _ => true
  | .vscale _ => true
  | .vrsum _ => true
  | .vrmin _ => true
  | .vrmax _ => true
  | .vscan _ => true
  | .vtopk _ => true
  | .vsimh _ => true
  | .vsimd _ => true
  | .vcbound _ => true
  | .vcwalk _ => true
  | .vcdirty _ => true
  | .unmk _ => true
  | .fadd _ => true
  | .fsub _ => true
  | .fmul _ => true
  | .ffma _ => true
  | .ffms _ => true
  | .fmin _ => true
  | .fmax _ => true
  | .fabs _ => true
  | .fneg _ => true
  | .fcmp _ => true
  | .fcvt _ => true
  | .fdiv _ => true
  | .fsqrt _ => true
  | .frcp _ => true
  | .frsq _ => true
  | .fexp2 _ => true
  | .flog2 _ => true
  | .fsin _ => true
  | .fcos _ => true
  | .ftanh _ => true
  | .fsig _ => true
  | .ferf _ => true
  | .frsum _ => true
  | .frmax _ => true
  | .mma _ => true
  | .mmas _ => true
  | .mmau _ => true
  | _ => false

/-- Instructions that, in a convoy stopped at element e, still commit their elements below e (R103, R135, R151, R170,
R187, R229); every other instruction commits nothing. -/
def writesElements : Instr → Bool
  | .tand _ _ _ _ => true
  | .tor _ _ _ _ => true
  | .txor _ _ _ _ => true
  | .tandn _ _ _ _ => true
  | .tnot _ _ _ => true
  | .tmov _ _ _ => true
  | .tset _ _ => true
  | .tclr _ _ => true
  | .tpick _ _ _ _ => true
  | .vld _ => true
  | .vst _ => true
  | .vlds _ => true
  | .vsts _ => true
  | .vldx _ => true
  | .vstx _ => true
  | .vldff _ => true
  | .rld _ => true
  | .rst _ => true
  | .vamo _ => true
  | .asrch _ => true
  | .awr _ => true
  | .asrchl _ => true
  | .awrl _ => true
  | .tshup _ => true
  | .tshdn _ => true
  | .amcodeRun _ => true
  | .vins _ => true
  | .vadd _ => true
  | .vsub _ => true
  | .vadds _ => true
  | .vsubs _ => true
  | .vmul _ => true
  | .vmulh _ => true
  | .vmac _ => true
  | .vneg _ => true
  | .vabs _ => true
  | .vabsd _ => true
  | .vmin _ => true
  | .vmax _ => true
  | .vand _ => true
  | .vor _ => true
  | .vxor _ => true
  | .vnot _ => true
  | .vshl _ => true
  | .vshr _ => true
  | .vsra _ => true
  | .vcmp _ => true
  | .vsel _ => true
  | .vmov _ => true
  | .vcvt _ => true
  | .vpopc _ => true
  | .vdiv _ => true
  | .vmull _ => true
  | .vbfpq _ => true
  | .vscale _ => true
  | .vscan _ => true
  | .vsimh _ => true
  | .vsimd _ => true
  | .vcbound _ => true
  | .vcwalk _ => true
  | .vcdirty _ => true
  | .fadd _ => true
  | .fsub _ => true
  | .fmul _ => true
  | .ffma _ => true
  | .ffms _ => true
  | .fmin _ => true
  | .fmax _ => true
  | .fabs _ => true
  | .fneg _ => true
  | .fcmp _ => true
  | .fcvt _ => true
  | .fdiv _ => true
  | .fsqrt _ => true
  | .frcp _ => true
  | .frsq _ => true
  | .fexp2 _ => true
  | .flog2 _ => true
  | .fsin _ => true
  | .fcos _ => true
  | .ftanh _ => true
  | .fsig _ => true
  | .ferf _ => true
  | _ => false

/-- Control transfers (R53). -/
def isTransfer : Instr → Bool
  | .beqz _ _ => true
  | .bnez _ _ => true
  | .j _ => true
  | .jal _ => true
  | .jr _ _ => true
  | .jalr _ _ => true
  | .loop _ _ _ => true
  | .bc _ => true
  | .jl _ => true
  | .bcl _ _ => true
  | .loopl _ _ => true
  | _ => false

/-- System instructions, which stand alone (R54). -/
def isSystem : Instr → Bool
  | .brk _ => true
  | .svc _ => true
  | .fence _ => true
  | .exit => true
  | .exitFail => true
  | .yield => true
  | .uret => true
  | .eret => true
  | .launch _ => true
  | .preempt _ => true
  | .ctxsv _ => true
  | .ctxld _ => true
  | .migr _ => true
  | .lcidset _ => true
  | .tlbinv _ => true
  | .tlbinva _ => true
  | _ => false

/-- The Pantry instructions, of which a hart may have several outstanding (R311). -/
def isPantry : Instr → Bool
  | .pdep _ => true
  | .pcopy _ => true
  | .ptake _ => true
  | .pcnl _ => true
  | .pcnt _ => true
  | _ => false

/-- FENCE, which names the accesses it waits for (R242). -/
def isFence : Instr → Bool
  | .fence _ => true
  | _ => false

/-- Instructions with accesses or messages of their own, pushes into a matrix queue among them: they wait for the results
of the hart's earlier atomics and acquires (R239, R244). -/
def usesMemory : Instr → Bool
  | .ld _ _ _ => true
  | .st _ _ _ => true
  | .lds _ => true
  | .sts _ => true
  | .pref _ => true
  | .cwb _ => true
  | .vld _ => true
  | .vst _ => true
  | .vlds _ => true
  | .vsts _ => true
  | .vldx _ => true
  | .vstx _ => true
  | .vldff _ => true
  | .rld _ => true
  | .rst _ => true
  | .amo _ => true
  | .vamo _ => true
  | .ldf _ => true
  | .ldfe _ => true
  | .ste _ => true
  | .stf _ => true
  | .feset _ => true
  | .waita _ => true
  | .stwk _ => true
  | .barGang _ => true
  | .barClus _ => true
  | .dqpush _ => true
  | .dqpop _ => true
  | .dqsteal _ => true
  | .cpush _ => true
  | .cstat _ => true
  | .cwait _ => true
  | .ckill _ => true
  | .ckillRel _ => true
  | .pdep _ => true
  | .pcopy _ => true
  | .ptake _ => true
  | .pcnl _ => true
  | .pcnt _ => true
  | .cwalk _ => true
  | .vcwalk _ => true
  | .vcbound _ => true
  | .unmk _ => true
  | .cdirty _ => true
  | .vcdirty _ => true
  | .amcodeLoad _ => true
  | .fence _ => true
  | .exit => true
  | .exitFail => true
  | .launch _ => true
  | .ctxsv _ => true
  | .ctxld _ => true
  | .mma _ => true
  | .mmas _ => true
  | .mmau _ => true
  | .mlda _ => true
  | .msta _ => true
  | .mzero _ => true
  | _ => false

/-- Instructions that make array passes, which a droop freeze holds (R97, R146, R166). -/
def usesPasses : Instr → Bool
  | .tand _ _ _ _ => true
  | .tor _ _ _ _ => true
  | .txor _ _ _ _ => true
  | .tandn _ _ _ _ => true
  | .tnot _ _ _ => true
  | .tmov _ _ _ => true
  | .tset _ _ => true
  | .tclr _ _ => true
  | .tcnt _ _ _ => true
  | .tany _ _ _ => true
  | .tfirst _ _ _ => true
  | .tpick _ _ _ _ => true
  | .asrch _ => true
  | .awr _ => true
  | .asrchl _ => true
  | .awrl _ => true
  | .tshup _ => true
  | .tshdn _ => true
  | .amcodeRun _ => true
  | .vadd _ => true
  | .vsub _ => true
  | .vadds _ => true
  | .vsubs _ => true
  | .vmul _ => true
  | .vmulh _ => true
  | .vmac _ => true
  | .vneg _ => true
  | .vabs _ => true
  | .vabsd _ => true
  | .vmin _ => true
  | .vmax _ => true
  | .vand _ => true
  | .vor _ => true
  | .vxor _ => true
  | .vnot _ => true
  | .vshl _ => true
  | .vshr _ => true
  | .vsra _ => true
  | .vcmp _ => true
  | .vsel _ => true
  | .vmov _ => true
  | .vcvt _ => true
  | .vpopc _ => true
  | .vdiv _ => true
  | .vmull _ => true
  | .vbfpq _ => true
  | .vscale _ => true
  | .vrmin _ => true
  | .vrmax _ => true
  | .vtopk _ => true
  | .vsimh _ => true
  | .vsimd _ => true
  | .unmk _ => true
  | .vcdirty _ => true
  | .fcmp _ => true
  | .vrsum v => v.ty != 7
  | _ => false

/-- Synchronising instructions of MODE.DET (R248), less stores to control space, which their address decides. -/
def isSync : Instr → Bool
  | .fence _ => true
  | .exit => true
  | .amo _ => true
  | .vamo _ => true
  | .ldf _ => true
  | .ldfe _ => true
  | .ste _ => true
  | .stf _ => true
  | .feset _ => true
  | .waita _ => true
  | .stwk _ => true
  | .barGang _ => true
  | .barClus _ => true
  | .pdep _ => true
  | .pcopy _ => true
  | .ptake _ => true
  | .pcnl _ => true
  | .pcnt _ => true
  | .cpush _ => true
  | .cstat _ => true
  | .cwait _ => true
  | .ckill _ => true
  | .ckillRel _ => true
  | .dqpush _ => true
  | .dqpop _ => true
  | .dqsteal _ => true
  | .unmk _ => true
  | .cdirty _ => true
  | .vcdirty _ => true
  | .lds o => o.e 26 25 != 0
  | .sts o => o.e 26 25 != 0
  | .vld o => o.sz != 0
  | .vst o => o.sz != 0
  | .vlds o => o.sz != 0
  | .vsts o => o.sz != 0
  | .vldx o => o.sz != 0
  | .vstx o => o.sz != 0
  | .vldff o => o.sz != 0
  | .rld o => o.sz != 0
  | .rst o => o.sz != 0
  | _ => false

end Sys2Proof.Machine
end

