-- ==== Sys2Proof/Machine/Control.lean ====
section
/-! DEFINITION. The control registers (R69 to R74, R100, R200, R272, R367, R376): reading one, the checks of a write,
and the write, field by field. -/

namespace Sys2Proof.Machine

open Sys2Proof

/-! ## The gang's shape as a hart sees it -/

/-- First row of a hart's grant (R21). -/
def Gang.vbase (g : Gang) (slot : Nat) : Nat := slot * 1024 / g.h

/-- VLMAX (R100): g * NA * rows of the hart's grant. -/
def Hart.vlmax (h : Hart) (g : Gang) : Nat := g.g * g.na * h.rows

/-- LANEMAP.USE: the present lanes of a core the gang uses (R20). -/
def State.usedLanes (s : State) (p na : Nat) : Nat := (((s.lanesOf p).take (na / 4)).map fun l => 2 ^ l).sum

/-- XCTL gate bits (R72). -/
def Hart.gate (h : Hart) (b : Nat) : Bool := h.xctl.getLsbD b

/-- FRM.FZ in force (R7, R125). -/
def Hart.fz (h : Hart) : Bool := h.gate 1 && h.frm.getLsbD 3

/-- FRM.RM (R71). -/
def Hart.rm (h : Hart) : Nat := bits h.frm.toNat 2 0

/-- The quantum the launch record gave (R352). -/
def State.launchDetq (s : State) (q : Nat) : Nat :=
  match s.launchAt q with
  | some l => let d := bits (l.record.getD 6 0).toNat 48 32; if d = 0 then 4096 else d
  | none => 4096

/-- The quantum in force: MODE.DETQ while its gate is set, the launch's value otherwise (R7, R72). -/
def State.quantum (s : State) (h : Hart) : Nat := if h.gate 2 then h.detq.toNat else s.launchDetq h.queue

/-! ## Reading -/

/-- The value of control register r (R70). -/
def State.ctlRead (s : State) (h : Hart) (g : Gang) (r : Nat) : W64 :=
  let w (n : Nat) : W64 := BitVec.ofNat 64 n
  match r with
  | 0x000 => w h.vl
  | 0x001 => w h.vstart
  | 0x002 => w h.rows
  | 0x003 => w (g.vbase h.slot)
  | 0x004 => w (g.h * 4096 + g.g * 256 + g.na)
  | 0x005 => w (s.usedLanes g.first g.na * 256 + (s.coreAt g.first).lanes.toNat)
  | 0x006 => w (g.na * 65536)
  | 0x010 => h.fst.setWidth 64
  | 0x011 => h.frm.setWidth 64
  | 0x012 => h.vstat.setWidth 64
  | 0x020 => h.lb0
  | 0x021 => h.le0
  | 0x022 => h.lc0
  | 0x023 => h.lb1
  | 0x024 => h.le1
  | 0x025 => h.lc1
  | 0x030 => w h.hartid
  | 0x031 => w (s.lcidOf g.first)
  | 0x032 => w (g.first / 24)
  | 0x033 => w s.dev.devid
  | 0x034 => w h.gangid
  | 0x035 => w (g.phase.toNat * 256 + g.live.toNat * 16 + g.arr.toNat)
  | 0x040 => w (bitAt 63 h.uh + h.tcode.toNat)
  | 0x041 => h.tpc
  | 0x042 => h.tci.setWidth 64
  | 0x043 => h.tval
  | 0x044 => w (h.uwatch.toNat * 2 ^ 52) ||| h.uhpc
  | 0x050 => w (h.detq.toNat * 2 ^ 32 + bitAt 1 h.det + bitAt 0 h.la)
  | 0x060 => h.prof.setWidth 64
  | 0x061 => h.skew.setWidth 64
  | 0x062 => h.droop.setWidth 64
  | 0x063 => s.thermLimit.setWidth 64
  | 0x070 => (s.coreAt g.first).mchk.setWidth 64
  | 0x071 => h.ctxbase
  | 0x072 => h.xctl.setWidth 64
  | 0x080 => w (bitAt 63 h.ph + bitAt 62 h.ppv + h.ptcode.toNat)
  | 0x081 => h.ptpc
  | 0x082 => h.ptci.setWidth 64
  | 0x083 => h.ptval
  | 0x084 => h.tvec
  | _ => if 0x090 ≤ r && r < 0x0A0 then (SMap.getD s.phase (r - 0x090) 0).setWidth 64 else 0

/-- Registers whose fields are — in the unprivileged view (R70). -/
def ctlPrivileged (r : Nat) : Bool :=
  r == 0x070 || r == 0x071 || (0x080 ≤ r && r ≤ 0x084) || (0x090 ≤ r && r < 0x0A0)

/-! ## Writing -/

/-- The checks of a CWR that its value decides (R7, R69, R71, R376): values the fields do not define, then a change of
an expert field while its gate is clear. RO fields of the current view are not written and not checked. -/
def State.ctlCheck (s : State) (h : Hart) (g : Gang) (r : Nat) (v : W64) : Option Cause :=
  let n := v.toNat
  match r with
  | 0x011 =>
    if 5 ≤ bits n 2 0 then some .illegalOp
    else if !h.gate 1 && v.getLsbD 3 != h.frm.getLsbD 3 then some .priv else none
  | 0x050 =>
    if !h.view then none
    else if bits n 48 32 < 256 || 65536 < bits n 48 32 then some .illegalOp
    else if !h.gate 2 && bits n 48 32 != h.detq.toNat then some .priv else none
  | 0x060 => if bits n 1 0 = 3 then some .illegalOp else none
  | 0x061 => if !h.gate 0 && bits n 2 0 != h.skew.toNat then some .priv else none
  | 0x062 =>
    if bits n 10 0 < 8 || 1024 < bits n 10 0 then some .illegalOp
    else if !h.gate 0 && bits n 10 0 != h.droop.toNat then some .priv else none
  | 0x063 => if h.view && (bits n 7 0 < 60 || 105 < bits n 7 0) then some .illegalOp else none
  | _ => let _ := (s, g); none

/-- Write FST whole, remembering flags that changed from 0 to 1 (R130, R372). -/
def Hart.setFst (h : Hart) (f : BitVec 6) : Hart := { h.raise f with fst := f }

/-- The part of a CWR that changes the hart: fields RO in the current view keep their values (R2, R70). -/
def Hart.ctlWrite (h : Hart) (r : Nat) (v : W64) : Hart :=
  match r with
  | 0x001 => { h with vstart := bits v.toNat 17 0 }
  | 0x010 => h.setFst (v.extractLsb' 0 6)
  | 0x011 => { h with frm := v.extractLsb' 0 4 }
  | 0x012 => { h with vstat := v.extractLsb' 0 2 }
  | 0x020 => { h with lb0 := addrBits v }
  | 0x021 => { h with le0 := addrBits v }
  | 0x022 => { h with lc0 := v }
  | 0x023 => { h with lb1 := addrBits v }
  | 0x024 => { h with le1 := addrBits v }
  | 0x025 => { h with lc1 := v }
  | 0x041 => { h with tpc := addrBits v }
  | 0x042 => { h with tci := v.extractLsb' 0 2 }
  | 0x060 => { h with prof := v.extractLsb' 0 2 }
  | 0x061 => { h with skew := v.extractLsb' 0 3 }
  | 0x062 => { h with droop := v.extractLsb' 0 11 }
  | _ =>
    if !h.view then h
    else
      match r with
      | 0x040 => { h with uh := v.getLsbD 63, tcode := v.extractLsb' 0 8 }
      | 0x043 => { h with tval := v }
      | 0x044 => { h with uhpc := addrBits v, uwatch := v.extractLsb' 52 6 }
      | 0x050 => { h with la := v.getLsbD 0, detq := v.extractLsb' 32 17 }
      | 0x071 => { h with ctxbase := v &&& maskOf 55 22 }
      | 0x072 => { h with xctl := v.extractLsb' 0 7 }
      | 0x080 => { h with ph := v.getLsbD 63, ppv := v.getLsbD 62, ptcode := v.extractLsb' 0 8 }
      | 0x081 => { h with ptpc := addrBits v }
      | 0x082 => { h with ptci := v.extractLsb' 0 2 }
      | 0x083 => { h with ptval := v }
      | 0x084 => { h with tvec := addrBits v }
      | _ => h

/-- The part of a CWR that changes shared registers (R377): MCHKLOG of the core, and the module's PHASE table and
THERM_LIMIT. -/
def State.ctlWriteShared (s : State) (view : Bool) (first r : Nat) (v : W64) : State :=
  if !view then s
  else if r = 0x063 then { s with thermLimit := v.extractLsb' 0 8 }
  else if r = 0x070 then
    let c := s.coreAt first
    s.putCore first { c with mchk := c.mchk &&& ~~~v.extractLsb' 0 7 }
  else if 0x090 ≤ r && r < 0x0A0 then { s with phase := SMap.setD s.phase (r - 0x090) 0 (v.extractLsb' 0 32) }
  else s

end Sys2Proof.Machine
end

