-- ==== Sys2Proof/Machine/Check.lean ====
section
/-! DEFINITION. The checks made when a convoy comes up for issue (R52, R55): ILLEGAL_OP by the gang's shape, PRIV,
the composition rules, and the checks a register's value decides. Encoding checks are in Legal. -/

namespace Sys2Proof.Machine

open Sys2Proof

/-! ## ILLEGAL_OP by the gang's shape, and PRIV -/

/-- A tile name beyond the hart's share, or an engine beyond the gang (R192, R203, R209). -/
def Gang.badTile (g : Gang) (t e : Nat) : Bool := 16 / g.h ≤ t || g.g ≤ e

/-- ILLEGAL_OP that depends on the gang or the hart's view and not on a register's value. -/
def shapeIllegal (h : Hart) (g : Gang) : Instr → Bool
  | .mma v => g.badTile v.mT v.mE
  | .mmas v => g.badTile v.mT v.mE
  | .mmau v => g.badTile v.mT v.mE
  | .mlda o => g.badTile o.mT o.mE
  | .msta o => g.badTile o.mT o.mE
  | .mzero o => g.badTile o.mT o.mE
  | .mchk o => g.badTile o.mT o.mE
  | .mwait o => !o.eb 22 && g.g ≤ o.mE
  | .cpush o => g.g ≤ o.cE
  | .cstat o => g.g ≤ o.cE
  | .cwait o => g.g ≤ o.cE
  | .ckill o => g.g ≤ o.cE
  | .ckillRel o => g.g ≤ o.cE
  | .xrow o => g.g ≤ o.cE
  | .uret => h.view || !h.uh
  | _ => false

/-- Whether the hart lacks the view or gate an instruction needs (R55). -/
def lacksRight (h : Hart) : Instr → Bool
  | .eret => !h.view
  | .exitFail => !h.view
  | .launch _ => !h.view
  | .preempt _ => !h.view
  | .ctxsv _ => !h.view
  | .ctxld _ => !h.view
  | .migr _ => !h.view
  | .lcidset _ => !h.view
  | .tlbinv _ => !h.view
  | .tlbinva _ => !h.view
  | .crd _ r => !h.view && ctlPrivileged r.toNat
  | .cwr _ r => !h.view && ctlPrivileged r.toNat
  | .amcodeRun _ => !h.gate 3
  | .amcodeLoad _ => !h.gate 3
  | .ckillRel _ => !h.gate 4
  | .pcopy o => o.eb 28 && !h.gate 5
  | .ptake o => o.eb 28 && !h.gate 5
  | _ => false

/-- ILLEGAL_OP, then PRIV (R55). -/
def rightCheck (h : Hart) (g : Gang) (i : Instr) : Option Cause :=
  if shapeIllegal h g i then some .illegalOp else if lacksRight h i then some .priv else none

/-! ## Microwords (R115, R117) -/

namespace Uword

/-- KIND: a write pass. -/
def write (m : W64) : Bool := m.getLsbD 63
/-- END. -/
def ends (m : W64) : Bool := m.getLsbD 62
/-- TT. -/
def tt (m : W64) : Tag := m.extractLsb' 59 3
/-- CMB. -/
def cmb (m : W64) : Nat := bits m.toNat 58 57
/-- XEN, XBASE, XOFF, XVAL. -/
def xen (m : W64) : Bool := m.getLsbD 56
def xbase (m : W64) : Nat := bits m.toNat 55 54
def xoff (m : W64) : Nat := bits m.toNat 53 45
/-- YEN, YBASE, YOFF, YVAL. -/
def yen (m : W64) : Bool := m.getLsbD 43
def ybase (m : W64) : Nat := bits m.toNat 42 41
def yoff (m : W64) : Nat := bits m.toNat 40 32
/-- QEN, QTAG, QVAL. -/
def qen (m : W64) : Bool := m.getLsbD 30
def qtag (m : W64) : Tag := m.extractLsb' 27 3
def qval (m : W64) : Bool := m.getLsbD 26
/-- The X bit: XVAL, or bit XBIDX of the broadcast value. -/
def xval (m sb : W64) : Bool := if m.getLsbD 25 then sb.getLsbD (bits m.toNat 24 19) else m.getLsbD 44
/-- The Y bit. -/
def yval (m sb : W64) : Bool := if m.getLsbD 18 then sb.getLsbD (bits m.toNat 17 12) else m.getLsbD 31

/-- The base field of a column: A, B or D packed in sa (R117). -/
def field (sa : W64) (b : Nat) : BitVec 15 := sa.extractLsb' (15 * b) 15

/-- The checks of a microword (R117). -/
def ok (sa m : W64) : Bool :=
  bits m.toNat 11 0 == 0 && !(write m && m.getLsbD 57) && xbase m != 3 && ybase m != 3 &&
  (!xen m || xoff m < Fld.width (field sa (xbase m))) && (!yen m || yoff m < Fld.width (field sa (ybase m))) &&
  !(write m && ((xen m && xbase m != 2) || (yen m && ybase m != 2)))

end Uword

/-- The routine that begins at user entry j of core p: up to the first microword with END, all loaded, within the table
(R117). -/
def State.routine (s : State) (p : Nat) : Nat → Nat → Option (List W64)
  | 0, _ => none
  | n + 1, j =>
    if 1024 ≤ j then none
    else
      match SMap.find s.ucode (p * 1024 + j) with
      | none => none
      | some m => if Uword.ends m then some [m] else (s.routine p n (j + 1)).map (m :: ·)

/-- The routine an AMCODE run uses: the one read as its convoy issued, else the one in the table (R117, R119). -/
def State.runRoutine (s : State) (h : Hart) (g : Gang) (e : Nat) : Option (List W64) :=
  match h.conv.bind fun c => c.routines.getD c.idx none with
  | some ms => some ms
  | none => s.routine g.first 1024 (e - 3072)

/-- The checks of an AMCODE run (R117). -/
def State.amcodeOk (s : State) (h : Hart) (g : Gang) (e : Nat) (sa : W64) : Bool :=
  bits sa.toNat 63 45 == 0 && Fld.ok (Uword.field sa 0) && Fld.ok (Uword.field sa 1) && Fld.ok (Uword.field sa 2) &&
  match s.runRoutine h g e with
  | some ms => ms.all (Uword.ok sa)
  | none => false

/-! ## Checks of a register's value (R55) -/

/-- Row indices of a hart's grant on one core (R193). -/
def Hart.rowLimit (h : Hart) (g : Gang) : Nat := g.na * h.rows

/-- Whether n chunks of 64 rows from q lie in the grant (R193, R195). -/
def Hart.rowsOk (h : Hart) (g : Gang) (q n : Nat) : Bool := n == 0 || q + 64 * n ≤ h.rowLimit g

/-- K of an MMAU (R201). -/
def Hart.unfoldK (h : Hart) : Nat :=
  bits h.adesc[2].toNat 15 8 * bits h.adesc[2].toNat 7 0 * bits h.adesc[0].toNat 33 18

/-- The descriptors' checks of MMAU (R201). -/
def Hart.unfoldOk (h : Hart) (g : Gang) (p : Nat) : Bool :=
  let c := bits h.adesc[0].toNat 33 18
  let d1 := h.adesc[1].toNat
  let d2 := h.adesc[2].toNat
  c % p == 0 && bits d1 63 48 != 0 && bits d1 47 32 != 0 && bits d1 31 16 != 0 && bits d1 15 0 != 0 &&
  bits d2 47 40 != 0 && bits d2 39 32 != 0 && bits d2 31 24 != 0 && bits d2 23 16 != 0 && bits d2 15 8 != 0 &&
  bits d2 7 0 != 0 && h.unfoldK ≤ 65536 &&
  bits h.adesc[0].toNat 17 0 + bits d1 31 16 * bits d1 15 0 * (c / p) ≤ h.rowLimit g

/-- The checks that the chapters place at issue and that a register's value decides. -/
def State.valueCheck (s : State) (h : Hart) (g : Gang) : Instr → Option Cause
  | .cwr a r => s.ctlCheck h g r.toNat (h.reg a)
  | .pref o => if 2 ^ 20 < (h.reg o.b).toNat then some .illegalOp else none
  | .cwb o => if 2 ^ 20 < (h.reg o.b).toNat then some .illegalOp else none
  | .feset o => if 2 ^ 19 < (h.reg o.b).toNat then some .illegalOp else none
  | .barClus o =>
    let n := (h.reg o.a).toNat
    if bits n 63 16 ≠ 0 || bits n 7 5 ≠ 0 || bits n 15 8 < 1 || 96 < bits n 15 8 then some .illegalOp else none
  | .dqsteal o => if (h.reg o.a).toNat / 24 ≠ g.first / 24 then some .illegalOp else none
  | .launch o => if 15 < (h.reg o.b).toNat then some .illegalOp else none
  | .amcodeRun o => if s.amcodeOk h g (o.e 11 0) (h.reg o.a) then none else some .illegalOp
  | .amcodeLoad o =>
    let n := (h.reg o.b).toNat
    if n < 1 || 1024 < n || 4096 < o.e 11 0 + n then some .illegalOp else none
  | .unmk v =>
    let p := (h.reg (rg (v.xb 8 3))).toNat
    if !h.gate 6 && (bits p 47 32 ≠ 0 || bits p 31 24 ≠ 0 || bits p 21 16 ≠ 0 || bits p 11 10 ≠ 0) then some .priv
    else none
  | .xrow o =>
    let qd := (h.reg o.d).toNat
    let qs := (h.reg o.a).toNat
    let n := (h.reg o.b).toNat
    if h.rowLimit g < qs + n || h.rowLimit g < qd + n || (qs < qd + n && qd < qs + n && n ≠ 0) then some .illegalOp
    else none
  | .mma v =>
    let k := (h.reg (v.xReg 12)).toNat
    let n := ceilDiv k v.perRow
    if 65536 < k || !h.rowsOk g (h.reg (v.xReg 0)).toNat n || !h.rowsOk g (h.reg (v.xReg 6)).toNat n then some .illegalOp
    else none
  | .mmas v =>
    let k := (h.reg (v.xReg 12)).toNat
    let c := (h.reg (v.xReg 18)).toNat
    if 65536 < k || c = 0 || c % v.perRow ≠ 0 || k % c ≠ 0 then some .illegalOp
    else if k ≠ 0 && h.rowLimit g < (h.reg (v.xReg 0)).toNat + (63 + k / c) * (c / v.perRow) then some .illegalOp
    else if !h.rowsOk g (h.reg (v.xReg 6)).toNat (ceilDiv k v.perRow) then some .illegalOp else none
  | .mmau v =>
    if !h.unfoldOk g v.perRow || !h.rowsOk g (h.reg (v.xReg 6)).toNat (ceilDiv h.unfoldK v.perRow) then some .illegalOp else none
  | .mlda o =>
    if h.rowsOk g (h.reg o.a).toNat (ceilDiv 64 (Fld.width o.fld / rowTypeWidth o.mRT)) then none else some .illegalOp
  | .msta o =>
    if h.rowsOk g (h.reg o.a).toNat (ceilDiv 64 (Fld.width o.fld / rowTypeWidth o.mRT)) then none else some .illegalOp
  | _ => none

/-- The registers whose values such a check reads. -/
def checkedRegs : Instr → List Reg
  | .cwr a _ => [a]
  | .pref o => [o.b]
  | .cwb o => [o.b]
  | .feset o => [o.b]
  | .barClus o => [o.a]
  | .dqsteal o => [o.a]
  | .launch o => [o.b]
  | .amcodeRun o => [o.a]
  | .amcodeLoad o => [o.b]
  | .unmk v => [rg (v.xb 8 3)]
  | .xrow o => [o.d, o.a, o.b]
  | .mma v => [v.xReg 0, v.xReg 6, v.xReg 12]
  | .mmas v => [v.xReg 0, v.xReg 6, v.xReg 12, v.xReg 18]
  | .mmau v => [v.xReg 6]
  | .mlda o => [o.a]
  | .msta o => [o.a]
  | .cpush o => [o.a]
  | .pdep o => if o.eb 21 then [o.a, o.b] else [o.a]
  | .pcopy o => if o.eb 21 then [o.a, rg o.pRes] else [o.a]
  | .ptake o => if o.eb 21 then [o.a, rg o.pRes] else [o.a]
  | .pcnt o => [o.a]
  | _ => []

/-- Checks 3 to 6 (R310): the region, and the row's physical address. -/
def State.pantryCheck (s : State) (h : Hart) (o : SForm) (row : Option (W64 × Access)) :
    Except (Cause × W64) (Nat × Option Nat) :=
  let va := h.reg o.a
  match s.translate (s.agentOf h) va with
  | none => .error (.dataXlate, va)
  | some x =>
    if Pte.type x.leaf ≠ 1 then .error (.dataProt, va)
    else
      let n := Pte.region x.leaf
      if !x.en then .error (.pantry, BitVec.ofNat 64 (256 * n + 1))
      else if x.nf + 1 < o.pK then .error (.pantry, BitVec.ofNat 64 (256 * n + 2))
      else
        match row with
        | none => .ok (n, none)
        | some (q, k) =>
          if q.toNat % 64 ≠ 0 then .error (.align, q)
          else
            match s.access (s.agentOf h) q k 0 with
            | .error c => .error (c, q)
            | .ok pa =>
              match s.home pa with
              | .ls _ _ => .ok (n, some pa)
              | _ => .error (.dataProt, q)

/-- The row of a row form's result. -/
def Hart.resultRow (h : Hart) (o : SForm) : Option (W64 × Access) :=
  if o.eb 21 then some (h.reg (rg o.pRes), .store) else none

/-- TVAL of ILLEGAL_OP: parcel 0 of the instruction (R55). -/
def headOf (h : Hart) (i : Instr) : W64 :=
  match h.conv with
  | some c => ((c.heads.getD c.idx 0)).setWidth 64
  | none => ((encode i).getD 0 0).setWidth 64

/-- The checks of an address that the chapters place at issue: CPUSH (R294) and the Pantry (R310). -/
def State.addressCheck (s : State) (h : Hart) (i : Instr) : Option (Cause × W64) :=
  let pantry (o : SForm) (row : Option (W64 × Access)) : Option (Cause × W64) :=
    match s.pantryCheck h o row with
    | .error e => some e
    | .ok _ => none
  match i with
  | .cpush o =>
    let va := h.reg o.a
    if va.toNat % 64 ≠ 0 then some (.align, va)
    else match s.access (s.agentOf h) va .atomic 0 with | .error c => some (c, va) | .ok _ => none
  | .pdep o => pantry o (if o.eb 21 then some (h.reg o.b, .load) else none)
  | .pcopy o => pantry o (h.resultRow o)
  | .ptake o => pantry o (h.resultRow o)
  | .pcnt o => pantry o none
  | _ => none

/-- The region and row of a Pantry instruction that passes those checks: they are made once (R310). -/
def State.pantryPage (s : State) (h : Hart) (i : Instr) : Option (Nat × Option Nat) :=
  match i with
  | .pdep o => (s.pantryCheck h o (if o.eb 21 then some (h.reg o.b, .load) else none)).toOption
  | .pcopy o => (s.pantryCheck h o (h.resultRow o)).toOption
  | .ptake o => (s.pantryCheck h o (h.resultRow o)).toOption
  | .pcnt o => (s.pantryCheck h o none).toOption
  | _ => none

/-- TVAL of an issue check's cause: parcel 0 of the instruction for ILLEGAL_OP (R55) (DEDUCED, log 16). -/
def checkTval (h : Hart) (i : Instr) (c : Cause) : W64 := if c = .illegalOp then headOf h i else 0

/-- The first check of a register's value that fails: cause and TVAL (R55). -/
def State.registerCheck (s : State) (h : Hart) (g : Gang) (i : Instr) : Option (Cause × W64) :=
  match s.valueCheck h g i with
  | some c => some (c, checkTval h i c)
  | none => s.addressCheck h i

/-! ## Composition (R51 to R54) -/

/-- Whether two lists share an element. -/
def meets {α : Type} [DecidableEq α] (a b : List α) : Bool := a.any fun x => b.contains x

/-- Whether an instruction writes a word that an earlier one reads (R51). -/
def Foot.breaks (w r : Foot) : Bool :=
  meets (w.dst.filter (· ≠ 0)) (r.src.map Prod.fst) || meets w.wcols r.rcols || meets w.wtags r.rtags ||
  meets w.wtiles r.rtiles || meets w.wctl r.rctl

/-- The footprint of an instruction as far as the convoy's bits and registers give it: the fields of an AMCODE run whose
sa an earlier instruction writes are not known (R55, R117). -/
def footAfter (h : Hart) (before : List Instr) (i : Instr) : Foot :=
  match i with
  | .amcodeRun o =>
    if before.any fun j => (foot h j).dst.any fun d => d == o.a && d != 0 then { foot h i with rcols := [], wcols := [] } else foot h i
  | _ => foot h i

/-- The footprints of a list of instructions in order. -/
def feet (h : Hart) : List Instr → List Instr → List Foot
  | _, [] => []
  | before, i :: t => footAfter h before i :: feet h (before ++ [i]) t

/-- The reason, if instruction i after the instructions `before` breaks a rule (R52): 1, 2 or 3. A system instruction
anywhere in a convoy of several (`sys`) is a breach at index 1. -/
def composeReason (h : Hart) (sys : Bool) (before : List Instr) (i : Instr) : Option Nat :=
  if (feet h [] before).any fun f => (footAfter h before i).breaks f then some 1
  else if before.any isTransfer then some 2
  else if before.length = 1 && sys then some 3
  else none

/-- The first breach of a convoy's composition: index and reason (R52). -/
def composeFrom (h : Hart) (sys : Bool) : List Instr → List Instr → Option (Nat × Nat)
  | _, [] => none
  | before, i :: rest =>
    match composeReason h sys before i with
    | some r => some (before.length, r)
    | none => composeFrom h sys (before ++ [i]) rest

/-- The composition check of a whole convoy (R51 to R54). -/
def composeCheck (h : Hart) (is : List Instr) : Option (Nat × Nat) := composeFrom h (is.any isSystem) [] is

/-- Whether the instruction a convoy has come to writes a word that an earlier one reads, in a convoy with an AMCODE run,
whose fields may have become known only now (R51, R117) (DEDUCED, log 50). -/
def Hart.lateBreach (h : Hart) (i : Instr) : Bool :=
  match h.conv with
  | none => false
  | some c =>
    (c.instrs.any fun j => match j with | .amcodeRun _ => true | _ => false) &&
      (c.instrs.take c.idx).any fun j => (foot h i).breaks (foot h j)

/-- Whether an earlier instruction of the convoy changes what the checks of a register's value look at, so that they are
made only when the instruction comes up (R55). -/
def checkedLater (h : Hart) (before : List Instr) (i : Instr) : Bool :=
  meets (checkedRegs i) (before.flatMap fun j => (foot h j).dst.filter (· ≠ 0)) ||
  before.any fun j =>
    match i, j with
    | .mmau _, .mdesc _ => true
    | .amcodeRun _, .amcodeLoad _ => true
    | .mma _, .vgrant _ => true
    | .mmas _, .vgrant _ => true
    | .mmau _, .vgrant _ => true
    | .mlda _, .vgrant _ => true
    | .msta _, .vgrant _ => true
    | .xrow _, .vgrant _ => true
    | _, _ => false

/-- Whether a failing expert check of an instruction must wait for an earlier CWR, of XCTL or of the register itself
(R55, R69) (DEDUCED, log 10). -/
def gateLater (before : List Instr) (i : Instr) : Bool :=
  before.any fun j =>
    match i, j with
    | .cwr _ r, .cwr _ q => q == 0x072 || q == r
    | .unmk _, .cwr _ q => q == 0x072
    | _, _ => false

end Sys2Proof.Machine
end

