-- ==== Sys2Proof/Machine/Elements.lean ====
section
/-! DEFINITION. Elements and their rows (R21, R22, R193), activity (R8, R102), the reservations of the matrix engines
(R205), and the fullness and policies of field sources (R49, R96, R135, R150). -/

namespace Sys2Proof.Machine

open Sys2Proof

/-! ## Elements -/

/-- Row of element i of hart slot k (R22). -/
def State.elemKey (s : State) (g : Gang) (slot i : Nat) : Nat :=
  let a := i % (g.g * g.na)
  let p := g.first + a / g.na
  rowKey p (s.physArray p (a % g.na)) (g.vbase slot + i / (g.g * g.na))

/-- Physical core of element i. -/
def Gang.elemCore (g : Gang) (i : Nat) : Nat := g.first + i % (g.g * g.na) / g.na

/-- Row of row index q on core e of the gang: local-store row VBASE * NA + q (R193). -/
def State.indexKey (s : State) (g : Gang) (slot e q : Nat) : Nat :=
  let p := g.first + e
  rowKey p (s.physArray p (q % g.na)) (g.vbase slot + q / g.na)

/-- The mask's bit at a row (R48). Tags are reached by passes, which read raw bits (R92, R99). -/
def State.maskAt (s : State) (m : Mask) (k : Nat) : Bool :=
  !m.en || (s.rawRow k).tags.getLsbD m.tag.toNat != m.compl

/-- The elements with active(i), ascending (R8). -/
def State.activeEls (s : State) (h : Hart) (g : Gang) (m : Mask) : List Nat :=
  (List.range (min h.vl (h.vlmax g))).filter fun i => s.maskAt m (s.elemKey g h.slot i)

/-- act(i) (R102), below the limit of an earlier stop. -/
def actOf (h : Hart) (lim : Nat) (els : List Nat) : List Nat := els.filter fun i => h.vstart ≤ i && i < lim

/-- Whether every word of a list is full in a row. -/
def Row.fullAt (r : Row) (ws : List Nat) : Bool := ws.all fun w => r.full.getLsbD w

/-- Whether the words are full in every listed element. -/
def State.elsFull (s : State) (h : Hart) (g : Gang) (els : List Nat) (ws : List Nat) : Bool :=
  ws.isEmpty || els.all fun i => (s.rowAt (s.elemKey g h.slot i)).fullAt ws

/-- The same as the passes see it, which read the full/empty bits raw (R92, R99). -/
def State.elsFullRaw (s : State) (h : Hart) (g : Gang) (els : List Nat) (ws : List Nat) : Bool :=
  ws.isEmpty || els.all fun i => (s.rawRow (s.elemKey g h.slot i)).fullAt ws

/-- The lowest listed element in which a row-mode read of the words meets poison (R99, R170). -/
def State.poisonEl (s : State) (h : Hart) (g : Gang) (els : List Nat) (ws : List Nat) : Option Nat :=
  if s.upsets.isEmpty && s.badRows.isEmpty then none
  else els.find? fun i => ws.any fun w => s.wordBad (s.elemKey g h.slot i) w

/-- Log what row reads of the words in listed elements meet (R99, R376). -/
def State.noteEls (s : State) (h : Hart) (g : Gang) (els ws : List Nat) : State :=
  if s.upsets.isEmpty then s else els.foldl (fun s i => s.noteRow (s.elemKey g h.slot i) ws) s

/-- The same for the words of listed rows. -/
def State.noteKeys (s : State) (l : List (Nat × List Nat)) : State :=
  if s.upsets.isEmpty then s else l.foldl (fun s r => s.noteRow r.1 r.2) s

/-! ## Reservations of the matrix engines (R205) -/

/-- The row index of Aval(m, k) for the first k of a chunk: `none` is padding (R195, R199, R201). -/
def MEntry.aRow (e : MEntry) (m k : Nat) : Option Nat :=
  match e.instr with
  | .mma v => some (e.regs.getD 0 0 + 64 * (k / v.perRow) + m)
  | .mmas v =>
    let c := e.regs.getD 3 0
    some (e.regs.getD 0 0 + (m + k / c) * (c / v.perRow) + k % c / v.perRow)
  | .mmau v =>
    let d0 := e.adesc[0].toNat
    let d1 := e.adesc[1].toNat
    let d2 := e.adesc[2].toNat
    let wo := bits d1 47 32
    let pix := bits e.adesc[3].toNat 31 0 + m
    if wo * bits d1 63 48 ≤ pix then none
    else
      let c := bits d0 33 18
      let tk := k / c
      let ch := k % c
      let y : Int := (pix / wo * bits d2 31 24 + tk / bits d2 7 0 * bits d2 47 40 : Nat) - (bits d2 63 56 : Nat)
      let x : Int := (pix % wo * bits d2 23 16 + tk % bits d2 7 0 * bits d2 39 32 : Nat) - (bits d2 55 48 : Nat)
      if y < 0 || (bits d1 31 16 : Nat) ≤ y || x < 0 || (bits d1 15 0 : Nat) ≤ x then none
      else some (bits d0 17 0 + (y.toNat * bits d1 15 0 + x.toNat) * (c / v.perRow) + ch / v.perRow)
  | _ => none

/-- K of a product (R195, R199, R201). -/
def MEntry.depth (e : MEntry) : Nat :=
  match e.instr with
  | .mma _ => e.regs.getD 2 0
  | .mmas _ => e.regs.getD 2 0
  | .mmau _ => bits e.adesc[2].toNat 15 8 * bits e.adesc[2].toNat 7 0 * bits e.adesc[0].toNat 33 18
  | _ => 0

/-- First row index of B. -/
def MEntry.qb (e : MEntry) : Nat :=
  match e.instr with
  | .mmau _ => e.regs.getD 0 0
  | _ => e.regs.getD 1 0

/-- The 64 * n row indices from q. -/
def rowRun (q n : Nat) : List Nat := (List.range (64 * n)).map (q + ·)

/-- The words of a field that hold the slots of width ew which chunk c of n values, p to a chunk, reads: those of the last
chunk at or above n are not read (R195). -/
def chunkWords (f : BitVec 15) (ew p n c : Nat) : List Nat := Fld.wordsOf (Fld.start f) (min p (n - c * p) * ew)

/-- The A and B row indices of chunk c of a product, with the words it reads in them (R195). -/
def MEntry.chunkRows (e : MEntry) (v : VForm) (c : Nat) : List (Nat × List Nat) × List (Nat × List Nat) :=
  let ws (f : BitVec 15) : List Nat := chunkWords f v.ew v.perRow e.depth c
  ((List.range 64).filterMap fun m => (e.aRow m (c * v.perRow)).map fun q => (q, ws v.A),
    (List.range 64).map fun n => (e.qb + 64 * c + n, ws v.B))

/-- The row indices a product reads with their words, A's and B's, over its first n chunks. -/
def MEntry.productRows (e : MEntry) (v : VForm) (n : Nat) : List (Nat × List Nat) × List (Nat × List Nat) :=
  ((List.range n).flatMap fun c => (e.chunkRows v c).1, (List.range n).flatMap fun c => (e.chunkRows v c).2)

/-- Rows with their words for a product: A, B, and the scale fields of BFP blocks (R195). -/
def productWords (v : VForm) (r : List (Nat × List Nat) × List (Nat × List Nat)) : List (Nat × List Nat) :=
  r.1 ++ r.2 ++ if v.ty = 7 then (r.1 ++ r.2).map fun x => (32 * (x.1 / 32), [15]) else []

/-- The row indices a queued matrix instruction reads, with the words it reads in them: all of them, or with `first`
those of its first chunk. -/
def MEntry.reads (e : MEntry) (first : Bool) : List (Nat × List Nat) :=
  let product (v : VForm) : List (Nat × List Nat) :=
    let n := ceilDiv e.depth v.perRow
    productWords v (e.productRows v (if first then min n 1 else n))
  match e.instr with
  | .mma v => product v
  | .mmas v => product v
  | .mmau v => product v
  | .mlda o =>
    let p := Fld.width o.fld / rowTypeWidth o.mRT
    let n := ceilDiv 64 p
    (List.range (if first then min n 1 else n)).flatMap fun c =>
      (List.range 64).map fun m => (e.regs.getD 0 0 + 64 * c + m, chunkWords o.fld (rowTypeWidth o.mRT) p 64 c)
  | _ => []

/-- A product as an entry of its engine's queue, with the registers it samples (R196 to R206); the tags are sampled when
it enters. -/
def productEntry (id : Nat) (h : Hart) (g : Gang) (i : Instr) : Option (VForm × MEntry) :=
  let entry (v : VForm) (rs : List Nat) : VForm × MEntry :=
    (v, ⟨id, g.first + v.mE, i, rs.map fun lo => (h.reg (v.xReg lo)).toNat, h.frm, h.fz, h.adesc, [], false, false, []⟩)
  match i with
  | .mma v => some (entry v [0, 6, 12])
  | .mmas v => some (entry v [0, 6, 12, 18])
  | .mmau v => some (entry v [6])
  | _ => none

/-- The hart of a queue entry and its gang. -/
def State.entryHart (s : State) (m : MEntry) : Option (Hart × Gang) :=
  (s.hartAt m.hart).bind fun h => (s.gangAt h.gang).map fun g => (h, g)

/-- The rows (as keys) a queued matrix instruction reads, with the words (R205). -/
def State.readKeys (s : State) (m : MEntry) (first : Bool) : List (Nat × List Nat) :=
  match s.entryHart m with
  | some (h, g) => (m.reads first).map fun r => (s.indexKey g h.slot (m.core - g.first) r.1, r.2)
  | none => []

/-- Whether a word of a row is reserved by an engine (R205). -/
def State.reserved (s : State) (k : Nat) (ws : List Nat) : Bool :=
  s.cores.any fun e => e.2.mqueue.any fun m =>
    (s.readKeys m false).any fun r => r.1 == k && ws.any fun w => r.2.contains w

/-- Whether an engine other than that of core p reserves words of a row that are full (R205). -/
def State.reservedBeside (s : State) (p k : Nat) (ws : List Nat) : Bool :=
  s.cores.any fun e => e.1 != p && e.2.mqueue.any fun m =>
    (s.readKeys m false).any fun r => r.1 == k && ws.any fun w => r.2.contains w && (s.rowAt k).fullAt [w]

/-- Whether some listed element's words are reserved. -/
def State.elsReserved (s : State) (h : Hart) (g : Gang) (els : List Nat) (ws : List Nat) : Bool :=
  !ws.isEmpty && (s.cores.any fun e => !e.2.mqueue.isEmpty) &&
  els.any fun i => s.reserved (s.elemKey g h.slot i) ws

/-! ## Field sources with a policy (R49, R135, R150, R169, R205) -/

/-- The field sources of an instruction with their policy bits, `true` last for B, and its mask. -/
def policyFields : Instr → Option (Mask × List (BitVec 15 × Bool × Bool))
  | .vadd v => some (v.m, v.fieldsAB)
  | .vsub v => some (v.m, v.fieldsAB)
  | .vadds v => some (v.m, v.fieldsAB)
  | .vsubs v => some (v.m, v.fieldsAB)
  | .vmul v => some (v.m, v.fieldsAB)
  | .vmulh v => some (v.m, v.fieldsAB)
  | .vmac v => some (v.m, v.fieldsAB)
  | .vneg v => some (v.m, v.fieldsA)
  | .vabs v => some (v.m, v.fieldsA)
  | .vabsd v => some (v.m, v.fieldsAB)
  | .vmin v => some (v.m, v.fieldsAB)
  | .vmax v => some (v.m, v.fieldsAB)
  | .vand v => some (v.m, v.fieldsAB)
  | .vor v => some (v.m, v.fieldsAB)
  | .vxor v => some (v.m, v.fieldsAB)
  | .vnot v => some (v.m, v.fieldsA)
  | .vshl v => some (v.m, v.fieldsAB)
  | .vshr v => some (v.m, v.fieldsAB)
  | .vsra v => some (v.m, v.fieldsAB)
  | .vcmp v => some (v.m, v.fieldsAB)
  | .vsel v => some (v.m, v.fieldsAB)
  | .vmov v => some (v.m, if v.bm = 0 then v.fieldsA else [])
  | .vcvt v => some (v.m, v.fieldsA)
  | .vpopc v => some (v.m, v.fieldsA)
  | .vdiv v => some (v.m, v.fieldsAB)
  | .vmull v => some (v.m, v.fieldsAB)
  | .vbfpq v => some (v.m, v.fieldsA)
  | .vrsum v => some (v.m, v.fieldsA)
  | .vrmin v => some (v.m, v.fieldsA)
  | .vrmax v => some (v.m, v.fieldsA)
  | .vscan v => some (v.m, v.fieldsA)
  | .vtopk v => some (v.m, v.fieldsA)
  | .vsimh v => some (v.m, v.fieldsA)
  | .vsimd v => some (v.m, v.fieldsA)
  | .vcbound v => some (v.m, v.fieldsA)
  | .vcwalk v => some (v.m, v.fieldsAB)
  | .vcdirty v => some (v.m, v.fieldsA)
  | .unmk v => some (v.m, [(v.A, v.pa, false), (v.B, v.pb, true)])
  | .fadd v => some (v.m, v.fieldsPipe)
  | .fsub v => some (v.m, v.fieldsPipe)
  | .fmul v => some (v.m, v.fieldsPipe)
  | .ffma v => some (v.m, [(v.A, v.pa, false), (v.B, v.pb, true)])
  | .ffms v => some (v.m, [(v.A, v.pa, false), (v.B, v.pb, true)])
  | .fmin v => some (v.m, v.fieldsPipe)
  | .fmax v => some (v.m, v.fieldsPipe)
  | .fabs v => some (v.m, v.fieldsA)
  | .fneg v => some (v.m, v.fieldsA)
  | .fcmp v => some (v.m, v.fieldsPipe)
  | .fcvt v => some (v.m, v.fieldsA)
  | .fdiv v => some (v.m, v.fieldsPipe)
  | .fsqrt v => some (v.m, v.fieldsA)
  | .frcp v => some (v.m, v.fieldsA)
  | .frsq v => some (v.m, v.fieldsA)
  | .fexp2 v => some (v.m, v.fieldsA)
  | .flog2 v => some (v.m, v.fieldsA)
  | .fsin v => some (v.m, v.fieldsA)
  | .fcos v => some (v.m, v.fieldsA)
  | .ftanh v => some (v.m, v.fieldsA)
  | .fsig v => some (v.m, v.fieldsA)
  | .ferf v => some (v.m, v.fieldsA)
  | .frsum v => some (v.m, v.fieldsA)
  | .frmax v => some (v.m, v.fieldsA)
  | _ => none

/-- EMPTY_TRAP of a field source with policy 1 as a convoy issues: empty in an active row, and written by no earlier
instruction of the convoy, which write the words `earlier`; TVAL the field, with bit 16 for B (R135, R150). A field of
which an earlier instruction writes only some words is judged by the others (DESIGN CHOICE, log 60). -/
def State.policyTrap (s : State) (h : Hart) (g : Gang) (earlier : List Nat) (i : Instr) : Option W64 :=
  match policyFields i with
  | none => none
  | some (m, fs) =>
    fs.findSome? fun x =>
      if x.2.1 && !s.elsFull h g (s.activeEls h g m) ((Fld.words x.1).filter fun w => !earlier.contains w) then
        some (BitVec.ofNat 64 (x.1.toNat + bitAt 16 x.2.2))
      else none

/-- EMPTY_TRAP of the operand rows of a product, the same way: TVAL the row index, with bit 20 for B (R205). With several
rows empty it is the first of A in chunk order, else of B (DESIGN CHOICE, log 59). -/
def State.emptyOperand (s : State) (h : Hart) (g : Gang) (earlier : List Nat) (v : VForm) (e : MEntry) : Option W64 :=
  let rows := e.productRows v (ceilDiv e.depth v.perRow)
  let bad (x : Nat × List Nat) : Bool :=
    !(s.rowAt (s.indexKey g h.slot v.mE x.1)).fullAt (x.2.filter fun w => !earlier.contains w)
  match if v.pa then rows.1.find? bad else none with
  | some x => some (BitVec.ofNat 64 x.1)
  | none => (if v.pb then rows.2.find? bad else none).map fun x => BitVec.ofNat 64 (x.1 + 2 ^ 20)

/-- The EMPTY_TRAP on a field source of an instruction that the instructions `before` precede in its convoy. -/
def State.fieldTrap (s : State) (id : Nat) (h : Hart) (g : Gang) (before : List Instr) (i : Instr) : Option W64 :=
  let earlier := before.flatMap fun j => (foot h j).wcols
  match productEntry id h g i with
  | some (v, e) => s.emptyOperand h g earlier v e
  | none => s.policyTrap h g earlier i

/-- Whether an instruction is a product of a matrix engine. -/
def isProduct : Instr → Bool
  | .mma _ => true
  | .mmas _ => true
  | .mmau _ => true
  | _ => false

/-- The EMPTY_TRAP on a field source of the instruction a hart has come to: the verdict made as its convoy issued, or for
a product whose rows an earlier instruction of the convoy decides, made now (R135, R150, R205) (DEDUCED, log 10). -/
def State.verdict (s : State) (id : Nat) (h : Hart) (g : Gang) (i : Instr) : Option W64 :=
  match h.conv with
  | none => s.fieldTrap id h g [] i
  | some c =>
    if isProduct i && checkedLater h (c.instrs.take c.idx) i then s.fieldTrap id h g (c.instrs.take c.idx) i
    else c.ftraps.getD c.idx none

end Sys2Proof.Machine
end

