-- ==== Sys2Proof/Machine/Front.lean ====
section
/-! DEFINITION. What every instruction goes through around its own effect: the checks of the chapters, waiting for
registers (R66 to R68), the limit set by an earlier stop of its convoy (R103, R368), VL_RANGE (R190), the end of a
quantum before a synchronising instruction (R248); then how the effect's result changes the convoy. -/

namespace Sys2Proof.Machine

open Sys2Proof

/-- What the effect of an instruction on the hart `id` comes to. -/
inductive Res where
  /-- Completed. -/
  | done (s : State)
  /-- The convoy stops here (R368): cause, TVAL and the element, if the instruction stops at one. -/
  | stop (s : State) (c : Cause) (tval : W64) (e : Option Nat)
  /-- Stopped at an element without a trap: the rest runs in the next quantum (R248). -/
  | pause (s : State) (e : Nat)
  /-- Not ready: it is tried again. -/
  | wait (s : State)
  /-- The same, but what it waits for is under way and comes without another hart: a commit waits for it (R249). -/
  | busy (s : State)

/-- Change a hart of a state. -/
def State.onHart (s : State) (id : Nat) (f : Hart → Hart) : State :=
  match s.hartAt id with
  | some h => s.putHart id (f h)
  | none => s

/-- The state after an effect that only changes the hart. -/
def Res.hart (s : State) (id : Nat) (h : Hart) : Res := .done (s.putHart id h)

/-- Step the convoy past the instruction that completed. -/
def Hart.advance (h : Hart) : Hart :=
  { h with
    conv := h.conv.map fun c => { c with idx := c.idx + 1 }
    waiting := false, done := 0, taken := [], sent := none, lost := [], waitLeft := 0, blocked := false, go := false, cwait := none }

/-- Record a stop at the present instruction; a later instruction that stops lower only lowers the element (DEDUCED, log
24). -/
def Hart.stopHere (h : Hart) (c : Option Cause) (tval : W64) (e : Option Nat) (pauses : Bool := false) : Hart :=
  { h.advance with
    conv := h.conv.map fun v =>
      { v with
        idx := v.idx + 1
        stop := match v.stop with
          | some st => some { st with elem := if e.isSome then e else st.elem }
          | none => some ⟨v.idx, c, tval, e, pauses⟩ } }

/-- Forget the answers kept for the instruction of a hart that is over (R389), and its place among held accesses
(R412). -/
def State.dropAnswers (s : State) (id : Nat) : State :=
  { s with
    asleep := [], remotes := s.remotes.filter fun r => !(r.hart == id && r.dest.isNone)
    heldAt := s.heldAt.filter fun e => e.1 != id }

/-- The next state of the machine from the result of an instruction of hart `id`. One that waits at its home, or that no
migration holds any more, gives up its place among the held accesses (R412). -/
def conclude (id : Nat) : Res → Host.Outcome State Fault Refusal
  | .done s => .next ((s.onHart id Hart.advance).dropAnswers id)
  | .stop s c tval e =>
    match s.hartAt id with
    | none => .next s
    | some h =>
      if h.conv.isSome then .next ((s.putHart id (h.stopHere (some c) tval e)).dropAnswers id)
      else
        let h := match e with | some e => { h with vstart := e } | none => h
        .next ((s.takeTrap id h c h.pc h.ci tval).dropAnswers id)
  | .pause s e => .next ((s.onHart id fun h => h.stopHere none 0 (some e) true).dropAnswers id)
  | .wait s =>
    .next { ((s.givePlace id).onHart id fun h =>
      { h with waiting := true, blocked := h.blocked || h.go, go := false }) with asleep := id :: s.asleep }
  | .busy s => .next { ((s.endPlace id).onHart id fun h => { h with waiting := true }) with asleep := id :: s.asleep }

/-- Whether the registers an instruction names are there (R66, R68). -/
inductive Readiness where
  | ready
  | waits
  | poisoned (r : Reg)
  deriving DecidableEq, Repr

/-- A poisoned source first; then an empty source, or an empty destination that is not poisoned, waits (R66, R68). -/
def readiness (h : Hart) (f : Foot) : Readiness :=
  match f.src.find? fun x => h.isPoisoned x.1 with
  | some x => .poisoned x.1
  | none =>
    if f.src.any fun x => !h.isFull x.1 then .waits
    else if h.barrier.isNone && f.dst.any fun r => !h.isFull r && !h.isPoisoned r then .waits
    else .ready

/-- The value recorded with a poison mark (R68). -/
def Hart.poisonValue (h : Hart) (r : Reg) : W64 := SMap.getD h.poisonVal r.toNat 0

/-- Every word of a register's own row words that it writes has landed: a later write waits for a load's fill. -/
def landed (h : Hart) (f : Foot) : Bool :=
  h.vfills.isEmpty || !(h.vfills.any fun v => meets (Fld.wordsOf v.start v.width) f.wcols)

/-- Whether a returning atomic of the hart is still on its way (DESIGN CHOICE, log 12). -/
def State.hasReturning (s : State) (id : Nat) : Bool := s.atoms.any fun a => a.hart == id && a.dest != .posted

/-- Whether an acquire of the hart is still outstanding: a load or atomic at another device, or a Pantry result (R239,
R243, R318). -/
def State.acquiring (s : State) (id : Nat) (h : Hart) : Bool :=
  (s.remotes.any fun r => r.hart == id && r.acq && r.answer.isNone) ||
  h.preqs.any fun p => p.status.isSome && match p.instr with | .pcopy _ => true | .ptake _ => true | .pcnt _ => true | _ => false

/-- Whether an instruction is a deposit whose tuple a load of its row gives: the load is an access (R239, R313). -/
def loadsRow : Instr → Bool
  | .pdep o => o.eb 21
  | _ => false

/-- Whether an instruction must wait for an earlier access of its hart (R239) (DEDUCED, log 34). -/
def State.accessWaits (s : State) (id : Nat) (h : Hart) (i : Instr) : Bool :=
  usesMemory i && ((s.hasReturning id && h.sent.isNone) ||
    ((!isPantry i || loadsRow i) && !isFence i && s.acquiring id h))

/-- Whether a droop freeze is in force on a core of the gang (R378). -/
def State.frozenGang (s : State) (g : Gang) : Bool := (List.range g.g).any fun e => (s.coreAt (g.first + e)).frozen

/-- Whether an earlier instruction of the convoy wrote XCTL: the gates were checked as the convoy issued (R55). -/
def Hart.gatesChecked (h : Hart) : Bool :=
  match h.conv with
  | some c => (c.instrs.take c.idx).any fun j => match j with | .cwr _ r => r == 0x072 | _ => false
  | none => false

/-- The instructions that come before the present one in this run of its convoy: those skipped by a return have
completed (R369). -/
def Hart.earlierHere (h : Hart) : List Instr :=
  match h.conv with
  | some c => (c.instrs.take c.idx).drop h.ci
  | none => []

/-- The checks of registers' values that are made as the instruction comes up: those that an earlier instruction of the
convoy decides. The others are made once, as the convoy comes up for issue (R55, R310). -/
def State.lateCheck (s : State) (h : Hart) (g : Gang) (i : Instr) : Option (Cause × W64) :=
  if h.conv.isNone || checkedLater h h.earlierHere i || gateLater h.earlierHere i then s.registerCheck h g i else none

/-- What an instruction does before its own effect: `none` when the effect may run, else its result. -/
def before (i : Instr) (s : State) (id : Nat) (h : Hart) (g : Gang) : Option Res :=
  let f := foot h i
  match if h.gatesChecked then none else rightCheck h g i with
  | some c => some (.stop s c (checkTval h i c) none)
  | none =>
    match readiness h f with
    | .poisoned r => some (.stop s .poison (h.poisonValue r) none)
    | .waits => some (.wait s)
    | .ready =>
      match s.lateCheck h g i, s.verdict id h g i with
      | some c, _ => some (.stop s c.1 c.2 none)
      | none, some tv => some (.stop s .emptyTrap tv (some h.vstart))
      | none, none =>
        if h.lateBreach i then some (.stop s .convoyRule 1 none)
        else if isVector i && h.vlmax g < h.vl then some (.stop s .vlRange (BitVec.ofNat 64 h.vl) none)
        else if h.det && !h.go && (isSync i || s.committing h.queue) then
          some (.wait (s.putHart id { h with qend := h.qend || isSync i }))
        else if !landed h f || (usesPasses i && s.frozenGang g) || s.accessWaits id h i then some (.busy s)
        else none

/-- Elements an instruction may act on: all below VLMAX, or those below the element of an earlier stop (R103). -/
def elemLimit (h : Hart) (g : Gang) : Nat :=
  match h.conv with
  | some c =>
    match c.stop with
    | some st => st.elem.getD 0
    | none => h.vlmax g
  | none => h.vlmax g

/-- Whether an earlier instruction of the convoy stopped. -/
def stopped (h : Hart) : Bool :=
  match h.conv with
  | some c => c.stop.isSome
  | none => false

/-- Whether an instruction that an earlier one of its convoy precedes in stopping has still to be carried out: one that
writes elements, below the element, and an AMCODE load (R103, R368) (DEDUCED, log 24). -/
def carriesOn (h : Hart) (g : Gang) (i : Instr) : Bool :=
  match i with
  | .amcodeLoad _ => (h.conv.bind Conv.stop).any fun st => st.elem.isSome
  | _ => writesElements i && 0 < elemLimit h g

/-- Run an instruction of the current hart: `body` is its own effect, given the hart, its gang and the limit on
elements. -/
def run (i : Instr) (body : State → Nat → Hart → Gang → Nat → Res) (s : State) :
    Host.Outcome State Fault Refusal :=
  match s.cur with
  | none => .fault .noHart
  | some id =>
    match s.hartAt id with
    | none => .fault .noHart
    | some h =>
      match s.gangAt h.gang with
      | none => .fault .noHart
      | some g =>
        if stopped h && !carriesOn h g i then conclude id (.done s)
        else
          match before i s id h g with
          | some r => conclude id r
          | none => conclude id (body s id h g (elemLimit h g))

/-- An instruction whose effect is on the hart alone. -/
def runHart (i : Instr) (f : Hart → Hart) (s : State) : Host.Outcome State Fault Refusal :=
  run i (fun s id h _ _ => .done (s.putHart id (f h))) s

/-- An instruction that writes one scalar register from the hart's registers. -/
def runReg (i : Instr) (d : Reg) (f : Hart → W64) (s : State) : Host.Outcome State Fault Refusal :=
  runHart i (fun h => h.setReg d (f h)) s

end Sys2Proof.Machine
end

