-- ==== Sys2Proof/Machine/Operands.lean ====
section
/-! DEFINITION. What an instruction does to one row, and the shared operations over the elements: the passes of the
associative instructions (R135) and the row mode of the element pipe (R24, R169, R170). -/

namespace Sys2Proof.Machine

open Sys2Proof

/-! ## What an instruction does to one row -/

/-- Writes of row bits (start, width, value), a tag write, and flags raised. -/
structure Eff where
  writes : List (Nat × Nat × Nat) := []
  tag : Option (Tag × Bool) := none
  flags : BitVec 6 := 0
  deriving DecidableEq, Repr

/-- Write a field and raise flags. -/
def Eff.field (f : BitVec 15) (v : Nat) (flags : BitVec 6 := 0) : Eff :=
  { writes := [(Fld.start f, Fld.width f, v)], flags := flags }

/-- Perform an effect on a row. -/
def State.applyEff (s : State) (k : Nat) (e : Eff) : State :=
  let s := e.writes.foldl (fun s w => s.writeRow k w.1 w.2.1 w.2.2) s
  match e.tag with
  | some (t, b) => s.tagRow k t b
  | none => s

/-- Perform an effect on every listed element, collecting flags. -/
def State.applyAll (s : State) (h : Hart) (g : Gang) (f : Nat → Row → Eff) (raw : Bool) : List Nat → State × BitVec 6
  | [] => (s, 0)
  | i :: t =>
    let k := s.elemKey g h.slot i
    let e := f i (if raw then s.rawRow k else s.rowAt k)
    let r := (s.applyEff k e).applyAll h g f raw t
    (r.1, e.flags ||| r.2)

/-- Value of a field in a row. -/
def Row.fld (r : Row) (f : BitVec 15) : Nat := takeBits r.data (Fld.start f) (Fld.width f)

/-- The first element group (R24) with a listed element that is not ready. -/
def firstGroup (ready : Nat → Bool) (els : List Nat) : Option Nat := (els.find? fun i => !ready i).map fun i => 32 * (i / 32)

/-- The shared operation of the pass instructions (R135): once every source word is full in every active row, the effect
on every element with act(i), from raw rows. -/
def State.passes (s : State) (id : Nat) (h : Hart) (g : Gang) (lim : Nat) (m : Mask) (ws wr : List Nat)
    (f : Nat → Row → Eff) : Res :=
  let els := s.activeEls h g m
  if !s.elsFullRaw h g els ws || s.elsReserved h g (actOf h lim els) wr then .wait s
  else
    let r := s.applyAll h g f true (actOf h lim els)
    .done (r.1.putHart id (h.raise r.2))

/-- The shared row-mode operation of the element pipe (R24, R169, R170): element groups are consumed in ascending order as
their sources become full, the elements below `Hart.done` are read and acted on already, and a poisoned word in an active
element from there on stops the instruction. -/
def State.rowMode (s : State) (id : Nat) (h : Hart) (g : Gang) (lim : Nat) (m : Mask) (ws wr : List Nat)
    (f : Nat → Row → Eff) : Res :=
  let els := s.activeEls h g m
  let act := actOf h lim els
  let todo := els.filter fun i => h.done ≤ i
  let held := firstGroup (fun i => s.elsFull h g [i] ws && !(act.contains i && s.elsReserved h g [i] wr)) todo
  let bad := (s.poisonEl h g todo ws).filter fun e => e < lim && match held with | some n => e < n | none => true
  let top := match bad, held with | some e, _ => min e lim | none, some n => min n lim | none, none => lim
  let now := (actOf h top els).filter fun i => h.done ≤ i
  let r := (s.noteEls h g now ws).applyAll h g f false now
  let s' := r.1.putHart id (h.raise r.2)
  match bad, held with
  | some e, _ => .stop (s'.noteEls h g [e] ws) .poison (BitVec.ofNat 64 e) (some e)
  | none, none => .done s'
  | none, some n =>
    if now.isEmpty then .wait s
    else .wait { (r.1.putHart id { h.raise r.2 with done := (act.find? fun i => n ≤ i).getD n }) with asleep := [] }

end Sys2Proof.Machine
end

