-- ==== Sys2Proof/Machine/Scalar.lean ====
section
/-! DEFINITION. Scalar arithmetic and logic, control registers, control transfers and hardware loops (R69 to R91). -/

namespace Sys2Proof.Machine

open Sys2Proof

/-- A truth value as a register (R75). -/
def flag (b : Bool) : W64 := if b then 1 else 0

/-- Quotient and remainder rounded toward zero, with the edge cases of R77. -/
def sdivZ (a b : W64) : W64 := if b = 0 then BitVec.allOnes 64 else a.sdiv b
def sremZ (a b : W64) : W64 := if b = 0 then a else a.srem b
def udivZ (a b : W64) : W64 := if b = 0 then BitVec.allOnes 64 else a / b
def uremZ (a b : W64) : W64 := if b = 0 then a else a % b

/-- Leading zeros, trailing zeros and ones (R76). -/
def clz (x : W64) : W64 := BitVec.ofNat 64 (if x = 0 then 64 else 63 - x.toNat.log2)
def ctz (x : W64) : W64 := BitVec.ofNat 64 (((List.range 64).find? fun i => x.getLsbD i).getD 64)
def popc (x : W64) : W64 := BitVec.ofNat 64 (popCount 64 x.toNat)

/-- The high halves of the 128-bit products (R76). -/
def mulHigh (a b : W64) : W64 := BitVec.ofInt 64 ((a.toInt * b.toInt) / 2 ^ 64)
def mulHighN (a b : W64) : W64 := BitVec.ofNat 64 (a.toNat * b.toNat / 2 ^ 64)

/-- cond(cc, x, y) (R85). -/
def condCode (cc : Nat) (x y : W64) : Bool :=
  match cc with
  | 0 => x == y
  | 1 => x != y
  | 2 => x.slt y
  | 3 => !x.slt y
  | 4 => x.ult y
  | _ => !x.ult y

/-- The target of a PC-relative offset in parcels from the hart's convoy (R40, R84). -/
def Hart.relative (h : Hart) (off : Int) : W64 := h.pc + word64 (4 * off)

/-- The link: the convoy's sequential successor (R86). -/
def Hart.link (h : Hart) : W64 :=
  match h.conv with
  | some c => c.succ
  | none => h.pc + 64

/-- Take a control transfer to t when the convoy retires (R86). -/
def Hart.jump (h : Hart) (t : W64) : Hart :=
  match h.conv with
  | some c => { h with conv := some { c with target := some t } }
  | none => h.landAt t

/-- A conditional transfer (R84, R85). -/
def Hart.branch (h : Hart) (b : Bool) (off : Int) : Hart := if b then h.jump (h.relative off) else h

/-- Set a loop level (R88, R91). -/
def Hart.setLoop (h : Hart) (k : Bool) (lb le lc : W64) : Hart :=
  if k then { h with lb1 := addrBits lb, le1 := addrBits le, lc1 := lc }
  else { h with lb0 := addrBits lb, le0 := addrBits le, lc0 := lc }

/-- LOOP and LOOPL (R88). A zero count whose end address starts no convoy lands on that address, and the landing raises
LINE_FORMAT there (DEDUCED, log 48). -/
def State.loopSetup (s : State) (h : Hart) (k : Bool) (count : W64) (off : Nat) : Hart :=
  let le := h.pc + BitVec.ofNat 64 (4 * off)
  let lb := h.link
  if count = 0 then (h.setLoop k lb le 0).jump ((s.successorOf (s.agentOf h) le).getD le)
  else (h.setLoop k lb le count).jump lb

/-- sext(imm12, 64) (R75). -/
def immS (imm : BitVec 12) : W64 := imm.signExtend 64

/-- ADDI (R75): sd := sa + sign-extended imm12. -/
def execAddi (d a : Reg) (imm : BitVec 12) (s : State) : Host.Outcome State Fault Refusal :=
  runReg (.addi d a imm) d (fun h => h.reg a + immS imm) s

/-- ANDI (R75): sd := sa AND imm. -/
def execAndi (d a : Reg) (imm : BitVec 12) (s : State) : Host.Outcome State Fault Refusal :=
  runReg (.andi d a imm) d (fun h => h.reg a &&& immS imm) s

/-- ORI (R75): sd := sa OR imm. -/
def execOri (d a : Reg) (imm : BitVec 12) (s : State) : Host.Outcome State Fault Refusal :=
  runReg (.ori d a imm) d (fun h => h.reg a ||| immS imm) s

/-- XORI (R75): sd := sa XOR imm. -/
def execXori (d a : Reg) (imm : BitVec 12) (s : State) : Host.Outcome State Fault Refusal :=
  runReg (.xori d a imm) d (fun h => h.reg a ^^^ immS imm) s

/-- SLLI (R75): sd := sa shifted left by n. -/
def execSlli (d a : Reg) (n : BitVec 6) (s : State) : Host.Outcome State Fault Refusal :=
  runReg (.slli d a n) d (fun h => h.reg a <<< n.toNat) s

/-- SRLI (R75): sd := sa shifted right by n, with zeros in. -/
def execSrli (d a : Reg) (n : BitVec 6) (s : State) : Host.Outcome State Fault Refusal :=
  runReg (.srli d a n) d (fun h => h.reg a >>> n.toNat) s

/-- SRAI (R75): sd := sa shifted right by n, with copies of bit 63 in. -/
def execSrai (d a : Reg) (n : BitVec 6) (s : State) : Host.Outcome State Fault Refusal :=
  runReg (.srai d a n) d (fun h => (h.reg a).sshiftRight n.toNat) s

/-- SLTI (R75): sd := 1 if sa < imm as signed numbers, else 0. -/
def execSlti (d a : Reg) (imm : BitVec 12) (s : State) : Host.Outcome State Fault Refusal :=
  runReg (.slti d a imm) d (fun h => flag ((h.reg a).slt (immS imm))) s

/-- SLTIN (R75): sd := 1 if sa < imm as natural numbers, else 0. -/
def execSltin (d a : Reg) (imm : BitVec 12) (s : State) : Host.Outcome State Fault Refusal :=
  runReg (.sltin d a imm) d (fun h => flag ((h.reg a).ult (immS imm))) s

/-- MOVI (R75): sd := sign-extended imm12. -/
def execMovi (d : Reg) (imm : BitVec 12) (s : State) : Host.Outcome State Fault Refusal :=
  runReg (.movi d imm) d (fun _ => immS imm) s

/-- NOP (R50): Does nothing; its only encoding is the all-zero parcel. -/
def execNop (s : State) : Host.Outcome State Fault Refusal :=
  runHart .nop (fun h => h) s

/-- ADD (R76): sd := sa + sb. -/
def execAdd (d a b : Reg) (s : State) : Host.Outcome State Fault Refusal :=
  runReg (.add d a b) d (fun h => h.reg a + h.reg b) s

/-- SUB (R76): sd := sa − sb. -/
def execSub (d a b : Reg) (s : State) : Host.Outcome State Fault Refusal :=
  runReg (.sub d a b) d (fun h => h.reg a - h.reg b) s

/-- AND (R76): sd := sa AND sb. -/
def execAnd (d a b : Reg) (s : State) : Host.Outcome State Fault Refusal :=
  runReg (.and d a b) d (fun h => h.reg a &&& h.reg b) s

/-- OR (R76): sd := sa OR sb. -/
def execOr (d a b : Reg) (s : State) : Host.Outcome State Fault Refusal :=
  runReg (.or d a b) d (fun h => h.reg a ||| h.reg b) s

/-- XOR (R76): sd := sa XOR sb. -/
def execXor (d a b : Reg) (s : State) : Host.Outcome State Fault Refusal :=
  runReg (.xor d a b) d (fun h => h.reg a ^^^ h.reg b) s

/-- ANDN (R76): sd := sa AND NOT sb. -/
def execAndn (d a b : Reg) (s : State) : Host.Outcome State Fault Refusal :=
  runReg (.andn d a b) d (fun h => h.reg a &&& ~~~h.reg b) s

/-- SLL (R76): sd := sa shifted left by sb[5:0]. -/
def execSll (d a b : Reg) (s : State) : Host.Outcome State Fault Refusal :=
  runReg (.sll d a b) d (fun h => h.reg a <<< ((h.reg b).toNat % 64)) s

/-- SRL (R76): sd := sa shifted right by sb[5:0], with zeros in. -/
def execSrl (d a b : Reg) (s : State) : Host.Outcome State Fault Refusal :=
  runReg (.srl d a b) d (fun h => h.reg a >>> ((h.reg b).toNat % 64)) s

/-- SRA (R76): sd := sa shifted right arithmetically by sb[5:0]. -/
def execSra (d a b : Reg) (s : State) : Host.Outcome State Fault Refusal :=
  runReg (.sra d a b) d (fun h => (h.reg a).sshiftRight ((h.reg b).toNat % 64)) s

/-- SLT (R76): sd := 1 if sa < sb as signed numbers, else 0. -/
def execSlt (d a b : Reg) (s : State) : Host.Outcome State Fault Refusal :=
  runReg (.slt d a b) d (fun h => flag ((h.reg a).slt (h.reg b))) s

/-- SLTN (R76): sd := 1 if sa < sb as natural numbers, else 0. -/
def execSltn (d a b : Reg) (s : State) : Host.Outcome State Fault Refusal :=
  runReg (.sltn d a b) d (fun h => flag ((h.reg a).ult (h.reg b))) s

/-- MIN (R76): sd := the signed minimum of sa and sb. -/
def execMin (d a b : Reg) (s : State) : Host.Outcome State Fault Refusal :=
  runReg (.min d a b) d (fun h => if (h.reg b).slt (h.reg a) then h.reg b else h.reg a) s

/-- MAX (R76): sd := the signed maximum of sa and sb. -/
def execMax (d a b : Reg) (s : State) : Host.Outcome State Fault Refusal :=
  runReg (.max d a b) d (fun h => if (h.reg a).slt (h.reg b) then h.reg b else h.reg a) s

/-- MINN (R76): sd := the natural minimum of sa and sb. -/
def execMinn (d a b : Reg) (s : State) : Host.Outcome State Fault Refusal :=
  runReg (.minn d a b) d (fun h => if (h.reg b).ult (h.reg a) then h.reg b else h.reg a) s

/-- MAXN (R76): sd := the natural maximum of sa and sb. -/
def execMaxn (d a b : Reg) (s : State) : Host.Outcome State Fault Refusal :=
  runReg (.maxn d a b) d (fun h => if (h.reg a).ult (h.reg b) then h.reg b else h.reg a) s

/-- MUL (R76): sd := the low 64 bits of sa × sb. -/
def execMul (d a b : Reg) (s : State) : Host.Outcome State Fault Refusal :=
  runReg (.mul d a b) d (fun h => h.reg a * h.reg b) s

/-- MULH (R76): sd := the high 64 bits of the signed product. -/
def execMulh (d a b : Reg) (s : State) : Host.Outcome State Fault Refusal :=
  runReg (.mulh d a b) d (fun h => mulHigh (h.reg a) (h.reg b)) s

/-- MULHN (R76): sd := the high 64 bits of the natural product. -/
def execMulhn (d a b : Reg) (s : State) : Host.Outcome State Fault Refusal :=
  runReg (.mulhn d a b) d (fun h => mulHighN (h.reg a) (h.reg b)) s

/-- DIV (R77): sd := the signed quotient rounded toward zero; never traps. -/
def execDiv (d a b : Reg) (s : State) : Host.Outcome State Fault Refusal :=
  runReg (.div d a b) d (fun h => sdivZ (h.reg a) (h.reg b)) s

/-- DIVN (R77): sd := the natural quotient; never traps. -/
def execDivn (d a b : Reg) (s : State) : Host.Outcome State Fault Refusal :=
  runReg (.divn d a b) d (fun h => udivZ (h.reg a) (h.reg b)) s

/-- REM (R77): sd := the signed remainder, with the sign of sa. -/
def execRem (d a b : Reg) (s : State) : Host.Outcome State Fault Refusal :=
  runReg (.rem d a b) d (fun h => sremZ (h.reg a) (h.reg b)) s

/-- REMN (R77): sd := the natural remainder. -/
def execRemn (d a b : Reg) (s : State) : Host.Outcome State Fault Refusal :=
  runReg (.remn d a b) d (fun h => uremZ (h.reg a) (h.reg b)) s

/-- CLZ (R76): sd := the count of leading zeros of sa. -/
def execClz (d a : Reg) (s : State) : Host.Outcome State Fault Refusal :=
  runReg (.clz d a) d (fun h => clz (h.reg a)) s

/-- CTZ (R76): sd := the count of trailing zeros of sa. -/
def execCtz (d a : Reg) (s : State) : Host.Outcome State Fault Refusal :=
  runReg (.ctz d a) d (fun h => ctz (h.reg a)) s

/-- POPC (R76): sd := the count of ones in sa. -/
def execPopc (d a : Reg) (s : State) : Host.Outcome State Fault Refusal :=
  runReg (.popc d a) d (fun h => popc (h.reg a)) s

/-- MOV (R76): sd := sa. -/
def execMov (d a : Reg) (s : State) : Host.Outcome State Fault Refusal :=
  runReg (.mov d a) d (fun h => h.reg a) s

/-- ADDW (R78): sd := sa + sext(ext). -/
def execAddw (o : SForm) (s : State) : Host.Outcome State Fault Refusal :=
  runReg (.addw o) o.d (fun h => h.reg o.a + o.ext.signExtend 64) s

/-- MOVW (R78): sd := sext(ext). -/
def execMovw (o : SForm) (s : State) : Host.Outcome State Fault Refusal :=
  runReg (.movw o) o.d (fun _ => o.ext.signExtend 64) s

/-- MOVHI (R78): sd := concat(ext, sa[31:0]). -/
def execMovhi (o : SForm) (s : State) : Host.Outcome State Fault Refusal :=
  runReg (.movhi o) o.d (fun h => o.ext ++ (h.reg o.a).extractLsb' 0 32) s

/-- SEL (R78): sd := sa if sc ≠ 0, else sb. -/
def execSel (o : SForm) (s : State) : Host.Outcome State Fault Refusal :=
  runReg (.sel o) o.d (fun h => if h.reg (rg (o.e 5 0)) ≠ 0 then h.reg o.a else h.reg o.b) s

/-- sa[pos+w-1:pos], zero- or sign-extended (R78). -/
def bextVal (x : W64) (pos width : Nat) (signed : Bool) : W64 :=
  let v := (x.toNat >>> pos) % 2 ^ width
  if signed then word64 (sextNat width v) else BitVec.ofNat 64 v

/-- sa with bits [pos+w-1:pos] replaced by sb[w-1:0] (R78). -/
def binsVal (x y : W64) (pos width : Nat) : W64 :=
  let m : W64 := BitVec.ofNat 64 (2 ^ width - 1) <<< pos
  (x &&& ~~~m) ||| ((y <<< pos) &&& m)

/-- BEXT (R78): Extracts a bit field of sa, zero- or sign-extended. -/
def execBext (o : SForm) (s : State) : Host.Outcome State Fault Refusal :=
  runReg (.bext o) o.d (fun h => bextVal (h.reg o.a) (o.e 5 0) (o.e 11 6 + 1) (o.eb 12)) s

/-- BINS (R78): Inserts sb's low bits into a bit field of sa. -/
def execBins (o : SForm) (s : State) : Host.Outcome State Fault Refusal :=
  runReg (.bins o) o.d (fun h => binsVal (h.reg o.a) (h.reg o.b) (o.e 5 0) (o.e 11 6 + 1)) s

/-- MOVL (R78): sd := the 64-bit constant K. -/
def execMovl (o : SForm) (lit : BitVec 32) (s : State) : Host.Outcome State Fault Refusal :=
  runReg (.movl o lit) o.d (fun _ => o.konst lit) s

/-- ADDL (R78): sd := sa + K. -/
def execAddl (o : SForm) (lit : BitVec 32) (s : State) : Host.Outcome State Fault Refusal :=
  runReg (.addl o lit) o.d (fun h => h.reg o.a + o.konst lit) s

/-- ANDL (R78): sd := sa AND K. -/
def execAndl (o : SForm) (lit : BitVec 32) (s : State) : Host.Outcome State Fault Refusal :=
  runReg (.andl o lit) o.d (fun h => h.reg o.a &&& o.konst lit) s

/-- ORL (R78): sd := sa OR K. -/
def execOrl (o : SForm) (lit : BitVec 32) (s : State) : Host.Outcome State Fault Refusal :=
  runReg (.orl o lit) o.d (fun h => h.reg o.a ||| o.konst lit) s

/-- XORL (R78): sd := sa XOR K. -/
def execXorl (o : SForm) (lit : BitVec 32) (s : State) : Host.Outcome State Fault Refusal :=
  runReg (.xorl o lit) o.d (fun h => h.reg o.a ^^^ o.konst lit) s

/-! ## Control registers -/

/-- Whether a queued matrix instruction of the hart may still raise a flag (R130). -/
def State.flagsPending (s : State) (id : Nat) : Bool := s.cores.any fun e => e.2.mqueue.any fun m => m.hart == id

/-- CRD (R69): Reads a control register into sd. -/
def execCrd (d : Reg) (r : BitVec 12) (s : State) : Host.Outcome State Fault Refusal :=
  run (.crd d r) (fun s id h g _ => 
    if r = 0x010 && s.flagsPending id then .wait s
    else
      let h := if r = 0x010 then h.takeFlags else h
      .done (s.putHart id (h.setReg d (s.ctlRead h g r.toNat)))) s

/-- CWR (R69): Writes sa to a control register, field by field by access code. -/
def execCwr (a : Reg) (r : BitVec 12) (s : State) : Host.Outcome State Fault Refusal :=
  run (.cwr a r) (fun s id h g _ => 
    if r = 0x010 && s.flagsPending id then .wait s
    else
      let h := if r = 0x010 then h.takeFlags else h
      .done ((s.putHart id (h.ctlWrite r.toNat (h.reg a))).ctlWriteShared h.view g.first r.toNat (h.reg a))) s

/-- SETVL (R105): VL := min(sa, VLMAX); VSTART := 0; sd := VL. -/
def execSetvl (d a : Reg) (s : State) : Host.Outcome State Fault Refusal :=
  run (.setvl d a) (fun s id h g _ => 
    let vl := min (h.reg a).toNat (h.vlmax g)
    .done (s.putHart id ({ h with vl := vl, vstart := 0 }.setReg d (BitVec.ofNat 64 vl)))) s

/-! ## Control transfers -/

/-- BEQZ (R84): Branch to cp + 4·offset if sa = 0. -/
def execBeqz (a : Reg) (off : BitVec 18) (s : State) : Host.Outcome State Fault Refusal :=
  runHart (.beqz a off) (fun h => h.branch (h.reg a == 0) off.toInt) s

/-- BNEZ (R84): Branch to cp + 4·offset if sa ≠ 0. -/
def execBnez (a : Reg) (off : BitVec 18) (s : State) : Host.Outcome State Fault Refusal :=
  runHart (.bnez a off) (fun h => h.branch (h.reg a != 0) off.toInt) s

/-- J (R84): Jump to cp + 4·offset, with a 24-bit offset. -/
def execJ (off : BitVec 24) (s : State) : Host.Outcome State Fault Refusal :=
  runHart (.j off) (fun h => h.jump (h.relative off.toInt)) s

/-- JAL (R84): Jump to cp + 4·offset and write the link to s63. -/
def execJal (off : BitVec 24) (s : State) : Host.Outcome State Fault Refusal :=
  runHart (.jal off) (fun h => (h.setReg 63 h.link).jump (h.relative off.toInt)) s

/-- JR (R84): Jump to sa + imm12. -/
def execJr (a : Reg) (imm : BitVec 12) (s : State) : Host.Outcome State Fault Refusal :=
  runHart (.jr a imm) (fun h => h.jump (h.reg a + immS imm)) s

/-- JALR (R84): Jump to sa + imm12 and write the link to s63. -/
def execJalr (a : Reg) (imm : BitVec 12) (s : State) : Host.Outcome State Fault Refusal :=
  runHart (.jalr a imm) (fun h => (h.setReg 63 h.link).jump (h.reg a + immS imm)) s

/-- BC (R85): Conditional branch comparing sa with sb. -/
def execBc (o : SForm) (s : State) : Host.Outcome State Fault Refusal :=
  runHart (.bc o) (fun h => h.branch (condCode o.d.toNat (h.reg o.a) (h.reg o.b)) o.ext.toInt) s

/-- JL (R85): Jump with a 32-bit offset, writing the link to s63. -/
def execJl (o : SForm) (s : State) : Host.Outcome State Fault Refusal :=
  runHart (.jl o) (fun h => (h.setReg 63 h.link).jump (h.relative o.ext.toInt)) s

/-- BCL (R85): Conditional branch comparing sa with a 32-bit literal. -/
def execBcl (o : SForm) (lit : BitVec 32) (s : State) : Host.Outcome State Fault Refusal :=
  runHart (.bcl o lit) (fun h => h.branch (condCode o.d.toNat (h.reg o.a) (lit.signExtend 64)) o.ext.toInt) s

/-- LOOP (R88): Sets up hardware loop level k with count sa, or skips the body when the count is 0. -/
def execLoop (k : Bool) (a : Reg) (off : BitVec 12) (s : State) : Host.Outcome State Fault Refusal :=
  run (.loop k a off) (fun s id h _ _ => .done (s.putHart id (s.loopSetup h k (h.reg a) off.toNat))) s

/-- LOOPL (R88): Sets up loop level k with a literal count. -/
def execLoopl (o : SForm) (lit : BitVec 32) (s : State) : Host.Outcome State Fault Refusal :=
  run (.loopl o lit) (fun s id h _ _ => .done (s.putHart id (s.loopSetup h (o.d.getLsbD 0) (lit.setWidth 64) o.ext.toNat))) s

/-- LPSET (R91): Restores the registers of loop level k. -/
def execLpset (o : SForm) (s : State) : Host.Outcome State Fault Refusal :=
  runHart (.lpset o) (fun h => h.setLoop (o.eb 0) (h.reg o.a) (h.reg o.b) (h.reg o.d)) s

end Sys2Proof.Machine
end

