-- ==== Sys2Proof/Machine/ScalarMem.lean ====
section
/-! DEFINITION. Scalar loads and stores (R80 to R83), PREF and CWB (R233), FENCE (R242), and the shared operations of
performing a load or a store: own stores first, the commit buffer (R248), draining (R235), posted operations (R245). -/

namespace Sys2Proof.Machine

open Sys2Proof

/-- Alignment, translation and permission of an access (R82, R222 to R224): the physical address, or the cause; an
element's access goes through core `e` of the gang (R235) (DESIGN CHOICE, log 7). -/
def State.locate (s : State) (h : Hart) (va : W64) (size : Nat) (k : Access) (scalar : Nat) (e : Nat := 0) :
    Except Cause Nat :=
  if va.toNat % size ≠ 0 then .error .align else s.access (s.agentOf h e) va k scalar

/-- Whether a physical address lies in the page the migration engine is moving (R396). -/
def State.pageMoving (s : State) (pa : Nat) : Bool :=
  match s.home pa with
  | .mem a => s.inMove a
  | _ => false

/-- Whether a hart has a posted atomic not yet accepted (R245, R342). -/
def State.postedAtoms (s : State) (id : Nat) : Bool :=
  (s.atoms.any fun a => a.hart == id && a.dest == .posted) ||
  s.remotes.any fun r => r.hart == id && r.posted

/-- Whether a hart has a posted operation not yet accepted (R245, R318, R342). -/
def State.hasPosted (s : State) (id : Nat) (h : Hart) : Bool :=
  s.postedAtoms id || h.preqs.any fun p => p.status.isNone

/-- Whether a request to another device is one of a hart's earlier accesses, still unanswered: an atomic that is not
posted, or with `loads` a load too (R239, R246). -/
def Remote.pending (r : Remote) (loads : Bool) : Bool :=
  r.dest.isSome && !r.posted && (loads || match r.op with | .read _ => false | _ => true)

/-- Whether the hart has such a request. -/
def State.remoteOut (s : State) (id : Nat) (loads : Bool) : Bool := s.remotes.any fun r => r.hart == id && r.pending loads

/-- Whether every earlier store and atomic of the hart has been performed, at device scope or wider every posted
operation accepted, and at system scope every write-back (R233, R242, R245): what a fence of earlier stores waits for. -/
def State.storesDone (s : State) (id : Nat) (h : Hart) (scope : Nat) : Bool :=
  (h.drain.all fun d => d.bytes.isEmpty && scope < 4) && !s.remoteOut id false && (scope < 3 || !s.hasPosted id h)

/-- Whether a Pantry message of the hart that will be answered has not reached its home: a send not performed (R239,
R242, R318). -/
def State.sending (s : State) (h : Hart) : Bool :=
  h.preqs.any fun p => p.status.isSome && s.pmsgs.any fun m => m.serial == p.serial

/-- Whether every earlier access of the hart has been performed, sent Pantry messages among them, with its posted
operations as above (R239, R243, R245): what a release waits for. -/
def State.settledFor (s : State) (id : Nat) (h : Hart) (scope : Nat) : Bool :=
  s.storesDone id h scope && !s.remoteOut id true && !s.sending h

/-- Whether m bytes at one address and n at another share a byte of memory, whatever redirects lead there (R237, R396). -/
def State.sharesBytes (s : State) (a m b n : Nat) : Bool :=
  s.placeOfPa a < s.placeOfPa b + n && s.placeOfPa b < s.placeOfPa a + m

/-- Whether an atomic of the hart to one of these bytes is still on its way (R237). -/
def State.ownAtom (s : State) (id pa n : Nat) : Bool :=
  s.atoms.any fun a => a.hart == id && s.sharesBytes a.pa a.size pa n

/-- Whether a store of the hart to one of these bytes is still on its way (R237). -/
def State.ownDrain (s : State) (h : Hart) (pa n : Nat) : Bool :=
  h.drain.any fun d => s.sharesBytes d.pa d.bytes.length pa n

/-- Whether a store would write a full local-store word that a matrix engine still reads; an empty one is still to come
for the engine (R205) (DEDUCED, log 19). -/
def State.storeReserved (s : State) (pa n : Nat) : Bool :=
  match s.home pa with
  | .ls p off =>
    let k := s.lsRow p (off / 64)
    s.reserved k ((Fld.wordsOf (8 * (off % 64)) (8 * n)).filter fun w => (s.rowAt k).fullAt [w])
  | _ => false

/-- Whether an atomic sent to LCID l before a migration began has still to be performed there (R412); one that waits for a
matrix engine is held by no migration. -/
def State.atomsBefore (s : State) (l : Nat) : Bool :=
  s.atoms.any fun a =>
    (match s.home a.pa with | .ls _ _ => lcidIn a.pa == l | _ => false) && !s.storeReserved a.pa a.size

/-- Whether an access of the hart to a local store is held at its sender: its core is of a migrating pair, or one held
or sent before it for that LCID has still to go (R380, R412). -/
def State.coreHeld (s : State) (id pa : Nat) : Bool :=
  match s.home pa with
  | .ls p _ =>
    s.coreMoving p || ((s.heldAt.takeWhile fun e => e.1 != id).any fun e => e.2 == lcidIn pa) ||
      ((s.heldAt.any fun e => e.1 == id) && s.atomsBefore (lcidIn pa))
  | _ => false

/-- Whether an access must still wait at its sender: for an atomic of its own hart to the same bytes, or behind a
migration (R237, R380, R412). -/
def State.accessHeld (s : State) (id pa n : Nat) : Bool := s.ownAtom id pa n || s.coreHeld id pa

/-- Take a place among the held accesses to a migrating core (R412). -/
def State.takePlace (s : State) (id pa : Nat) : State :=
  if s.coreHeld id pa && !s.heldAt.any (fun e => e.1 == id) then { s with heldAt := s.heldAt ++ [(id, lcidIn pa)] } else s

/-- Wait at the sender, in its place among the held accesses (R412). -/
def State.holdHere (s : State) (id pa : Nat) : Res := .busy (s.takePlace id pa)

/-- The next serial number given away (MODEL). -/
def State.bump (s : State) : State := { s with serial := s.serial + 1 }

/-- A store that would change PRGN.HSHAPE while XCTL.PARK is clear (R303). -/
def State.gatesRegion (s : State) (h : Hart) (off size v : Nat) : Bool :=
  if 0x100000 ≤ off && off < 0x100800 && !h.gate 5 then
    let sh := 8 * (off % 8)
    let m : W64 := BitVec.ofNat 64 ((2 ^ (8 * size) - 1) <<< sh)
    let e := s.region ((off - 0x100000) / 8)
    (mergeBits e m (BitVec.ofNat 64 (v <<< sh))).getLsbD 23 != e.getLsbD 23
  else false

/-! ## Elements' requests to another device (R246, R389): the instruction waits for every answer -/

/-- The answer to a request of the hart, if it has one: `some none` is poisoned data (R390). -/
def State.answerOf (s : State) (id pa : Nat) (op : PeerOp) (tag : Nat := 0) : Option (Option (BitVec 512)) :=
  (s.remotes.find? fun r => r.hart == id && r.pa == pa && r.op == op && r.tag == tag && r.dest.isNone).bind Remote.answer

/-- Send the requests not sent yet; `none` when every one is answered. -/
def State.askRemote (s : State) (id : Nat) (reqs : List (Nat × PeerOp × Nat)) : Option State :=
  if reqs.all fun r => (s.answerOf id r.1 r.2.1 r.2.2).isSome then none
  else
    let fresh := reqs.filter fun r =>
      !s.remotes.any fun m => m.hart == id && m.pa == r.1 && m.op == r.2.1 && m.tag == r.2.2 && m.dest.isNone
    let new : List Remote := fresh.map fun r => ⟨s.serial, s.portOf r.1, false, false, false, id, r.1, r.2.1, false, none, r.2.2, none⟩
    some { s with remotes := s.remotes ++ new, serial := s.serial + 1 }

/-- What a load of `size` bytes at a checked address gives: `none` is poisoned data. -/
def State.loadAny (s : State) (id : Nat) (h : Hart) (pa size : Nat) (tag : Nat := 0) : Option Nat :=
  match s.home pa with
  | .remote => ((s.answerOf id pa (.read size) tag).getD none).map fun v => leNat (s.ownBytes h pa (leBytes size v.toNat))
  | _ => if s.physPoison pa size then none else some (s.loadVal h pa size)

/-- A scalar load of `size` bytes with an order (R80 to R83). The register is empty until REGISTER_FILL; poisoned data
marks it (R68). A load from another device is answered over the link (R389); under MODE.DET the hart waits for it, whose
buffer is laid over it (R249). -/
def State.loadTo (s : State) (id : Nat) (h : Hart) (d : Reg) (va : W64) (size : Nat) (sext : Bool) (order : Nat := 0) :
    Res :=
  match s.locate h va size .load size with
  | .error c => .stop s c va none
  | .ok pa =>
    if s.accessHeld id pa size then s.holdHere id pa
    else
    let ext (v : Nat) : W64 := if sext then word64 (sextNat (8 * size) v) else BitVec.ofNat 64 v
    let give (s : State) : Res :=
      match s.loadAny id h pa size with
      | none => .hart (s.readTouch pa size) id (h.laterPoison d va)
      | some v => .hart (s.readTouch pa size) id (h.later d (ext v))
    match s.home pa with
    | .ctrl off => .hart s id (h.later d (ext (s.ctrlRead off size)))
    | .remote =>
      if h.det then
        match s.askRemote id [(pa, .read size, 0)] with
        | some s' => .busy s'
        | none => give s
      else
        let r : Remote := ⟨s.serial, s.portOf pa, order != 0, false, false, id, pa, .read size, sext, some (d, va), 0, none⟩
        .done (State.putHart { s with remotes := s.remotes ++ [r], serial := s.serial + 1 } id (h.empty d))
    | _ => give s

/-- Perform or queue a plain store whose address has been checked: into the commit buffer under MODE.DET (R248), at
once at a local store or another device, and drained later otherwise (R235); `ord` marks an element of an .ord store.
`none`: it does not fit the buffer. -/
def State.plainStore (s : State) (h : Hart) (pa : Nat) (bs : List Byte) (ord : Bool := false) : Option (State × Hart) :=
  if h.det then if s.fits h pa bs.length then some (s, s.bufStore h pa bs) else none
  else
    match s.home pa with
    | .mem _ => some (s, { h with drain := h.drain ++ [⟨s.serial, ord, pa, bs⟩] })
    | _ => some ((s.physWrite pa bs).touch pa, h)

/-- Whether a plain store is performed at once and must wait: for an earlier load still unanswered (R239 edge (a)). -/
def State.storeWaits (s : State) (id : Nat) (h : Hart) (pa : Nat) : Bool :=
  !h.det && s.remoteOut id true && match s.home pa with | .mem _ => false | _ => true

/-- A scalar store of `size` bytes with an order and a scope (R80 to R82, R242, R248): a plain one that found the commit
buffer full is no part of the commit, and runs in the next quantum. -/
def State.storeFrom (s : State) (id : Nat) (h : Hart) (va : W64) (size : Nat) (v : W64) (order scope : Nat) : Res :=
  match s.locate h va size .store size with
  | .error c => .stop s c va none
  | .ok pa =>
    let x := v.toNat % 2 ^ (8 * size)
    match s.home pa with
    | .ctrl off =>
      if s.gatesRegion h off size x then .stop s .priv 0 none
      else if h.det && !h.go then .wait (s.putHart id { h with qend := true })
      else if !s.settledFor id h 4 then .busy s
      else .done (s.ctrlWrite (.device (h.gate 2)) off size x)
    | _ =>
      if s.accessHeld id pa size then s.holdHere id pa
      else if s.storeReserved pa size || (order = 0 && s.storeWaits id h pa) then .busy s
      else if order = 0 then
        if h.go then .wait (s.putHart id { h with go := false })
        else
        match s.plainStore h pa (leBytes size x) with
        | some (s', h') => .done (s'.bump.putHart id h')
        | none => .wait (s.putHart id { h with qend := true })
      else if !s.settledFor id h scope || s.pageMoving pa then .busy s
      else .done ((s.physStore pa size x).touch pa)

/-! ## Reading doublewords -/

/-- What reading doublewords gives. -/
inductive WordsRead where
  | words (ws : List W64)
  | fault (c : Cause) (va : W64)
  | pending (s : State)

/-- Read doublewords at virtual addresses as relaxed loads: the first failing address faults before anything else. -/
def State.readWords (s : State) (id : Nat) (h : Hart) (vas : List W64) : WordsRead :=
  let at1 (va : W64) := s.locate h va 8 .load 0
  match vas.findSome? fun va => match at1 va with | .error c => some (c, va) | .ok _ => none with
  | some (c, va) => .fault c va
  | none =>
    let pas := vas.map fun va => match at1 va with | .ok pa => pa | .error _ => 0
    let far := (pas.filter fun pa => s.home pa == .remote).map fun pa => (pa, PeerOp.read 8, 0)
    match pas.find? fun pa => s.accessHeld id pa 8 with
    | some pa => .pending (s.takePlace id pa)
    | none =>
    match s.askRemote id far with
    | some s' => .pending s'
    | none =>
      match (vas.zip pas).find? fun x => (s.loadAny id h x.2 8).isNone with
      | some x => .fault .poison x.1
      | none => .words (pas.map fun pa => BitVec.ofNat 64 ((s.loadAny id h pa 8).getD 0))

/-- The lines that meet [a, a + n) as their addresses: a fault of CWB names the base of the first line that fails (R233)
(DESIGN CHOICE, log 62). -/
def linesOf (a : W64) (n : Nat) : List W64 :=
  if n = 0 then []
  else (List.range ((a.toNat % 64 + n + 63) / 64)).map fun i => BitVec.ofNat 64 (a.toNat / 64 * 64 + 64 * i)

/-- The replica slices of a core, one per lane (R221). -/
def replicaSlice (p lane : Nat) : Nat := 32 * (p / 96) + 4 * lane + p / 24 % 4

/-- Enter a line into the replica slices of a core; a poisoned line is not (R233, R247). -/
def State.fillReplicas (s : State) (p q line : Nat) : State :=
  if s.physPoison (64 * line) 64 then s
  else
    let data := BitVec.ofNat 512 (s.physVal (64 * line) 64)
    let mine : List Replica := (List.range 8).map fun g => ⟨replicaSlice p g, q, line, data⟩
    { s with replicas := mine ++ s.replicas.filter fun r =>
        !(r.queue == q && r.line == line && mine.any fun m => m.slice == r.slice) }

/-! ## Scalar loads and stores -/

/-- LD (R80): Relaxed 64-bit scalar load from sa + imm12. -/
def execLd (d a : Reg) (imm : BitVec 12) (s : State) : Host.Outcome State Fault Refusal :=
  run (.ld d a imm) (fun s id h _ _ => s.loadTo id h d (h.reg a + immS imm) 8 false) s

/-- ST (R80): Relaxed 64-bit scalar store of sd to sa + imm12. -/
def execSt (d a : Reg) (imm : BitVec 12) (s : State) : Host.Outcome State Fault Refusal :=
  run (.st d a imm) (fun s id h _ _ => s.storeFrom id h (h.reg a + immS imm) 8 (h.reg d) 0 0) s

/-- The address of LDS and STS (R81). -/
def Hart.ldsAddr (h : Hart) (o : SForm) : W64 := h.reg o.a + word64 (sextNat 24 (o.e 23 0))

/-- LDS (R81): Sized scalar load with order and scope. -/
def execLds (o : SForm) (s : State) : Host.Outcome State Fault Refusal :=
  run (.lds o) (fun s id h _ _ => s.loadTo id h o.d (h.ldsAddr o) (2 ^ o.sz) (o.eb 24) (o.e 26 25)) s

/-- STS (R81): Sized scalar store with order and scope. -/
def execSts (o : SForm) (s : State) : Host.Outcome State Fault Refusal :=
  run (.sts o) (fun s id h _ _ => s.storeFrom id h (h.ldsAddr o) (2 ^ o.sz) (h.reg o.d) (o.e 26 25) (o.e 29 27)) s

/-! ## PREF, CWB and FENCE -/

/-- Bring a line into its home slice and, with `rep`, into the replica slices of a core (R233). -/
def State.prefLine (s : State) (h : Hart) (g : Gang) (rep : Bool) (va : W64) : State :=
  match s.access (s.agentOf h) va .load 0 with
  | .ok pa =>
    match s.home pa with
    | .mem a =>
      let s := s.fillLine (s.redirect a / 64)
      if rep then s.fillReplicas g.first h.queue (pa / 64) else s
    | _ => s
  | .error _ => s

/-- PREF (R233): Prefetches lines into their home slices, and into replicas with .rep. -/
def execPref (o : SForm) (s : State) : Host.Outcome State Fault Refusal :=
  run (.pref o) (fun s _ h g _ =>
    .done ((linesOf (h.reg o.a) (h.reg o.b).toNat).foldl (fun s va => s.prefLine h g (o.eb 0) va) s)) s

/-- The line of the CXL.mem range that an address lies in (R27, R233). -/
def State.cxlLine (s : State) (pa : Nat) : Option Nat :=
  match s.home pa with
  | .mem a => if 0x110000000000 ≤ s.redirect a then some (s.redirect a / 64) else none
  | _ => none

/-- Write a CXL line back to its device and with `inv` drop it: until the device has accepted the write-back, a drain
without bytes stands for it (R233) (DEDUCED, log 58). -/
def State.cwbLine (s : State) (id pa : Nat) (inv : Bool) : State :=
  match s.cxlLine pa with
  | none => s
  | some n =>
    let dirty := match SMap.find s.lines n with | some l => l.dirty | none => false
    let s1 := if inv then s.evict n else s.writeBack n
    if dirty then s1.onHart id fun h => { h with drain := h.drain ++ [⟨s.serial, false, pa, []⟩] } else s1

/-- CWB (R233): Writes CXL lines back to their device, optionally dropping them. -/
def execCwb (o : SForm) (s : State) : Host.Outcome State Fault Refusal :=
  run (.cwb o) (fun s id h _ _ =>
    let vas := linesOf (h.reg o.a) (h.reg o.b).toNat
    let at' (va : W64) : Except Cause Nat := s.access (s.agentOf h) va .writeback 0
    match vas.findSome? fun va => match at' va with | .ok _ => none | .error c => some (c, va) with
    | some (c, va) => .stop s c va none
    | none =>
      let pas := vas.filterMap fun va => (at' va).toOption
      if pas.any fun pa => (s.cxlLine pa).isSome && (s.ownDrain h pa 64 || s.ownAtom id pa 64) then .busy s
      else .done ((pas.foldl (fun s pa => s.cwbLine id pa (o.eb 0)) s).bump)) s

/-- FENCE (R242): Orders the earlier-set accesses before the later-set accesses at the given scope. -/
def execFence (imm : BitVec 12) (s : State) : Host.Outcome State Fault Refusal :=
  run (.fence imm) (fun s id h _ _ => 
    if (imm.getLsbD 4 && (!s.storesDone id h (bits imm.toNat 2 0) || s.sending h)) ||
      (imm.getLsbD 3 && (s.remoteOut id true || s.acquiring id h)) then .busy s
    else .done s) s

end Sys2Proof.Machine
end

