-- ==== Sys2Proof/Machine/Assoc.lean ====
section
/-! DEFINITION. Associative primitives (R92 to R119): search and tagged write, tag shifts, tag instructions, user
microcode. -/

namespace Sys2Proof.Machine

open Sys2Proof

/-- Tag t of a row. -/
def Row.tag (r : Row) (t : Tag) : Bool := r.tags.getLsbD t.toNat

/-- A tag write on every element with act(i), from the row's raw tags (R112). -/
def State.tagOp (s : State) (id : Nat) (h : Hart) (g : Gang) (lim : Nat) (m : Mask) (td : Tag) (f : Row → Bool) : Res :=
  s.passes id h g lim m [] [] fun _ r => { tag := some (td, f r) }

/-- Combine a match bit into a tag (R107). -/
def combine (cmb : Nat) (old m : Bool) : Bool :=
  match cmb with
  | 0 => m
  | 1 => old && m
  | 2 => old || m
  | _ => old && !m

/-- ASRCH and ASRCHL (R107). -/
def State.search (s : State) (id : Nat) (h : Hart) (g : Gang) (lim : Nat) (o : SForm) (key care : Nat) : Res :=
  let width := Fld.width o.fld
  let td : Tag := BitVec.ofNat 3 (o.e 17 15)
  s.passes id h g lim o.mask (Fld.words o.fld) [] fun _ r =>
    { tag := some (td, combine (o.e 19 18) (r.tag td)
        (Nat.land (Nat.xor (r.fld o.fld) (key % 2 ^ width)) (care % 2 ^ width) == 0)) }

/-- The bits of a doubleword of a row that a field's selected bits touch: a write pass corrects those doublewords first
(R99). -/
def State.mendSelected (s : State) (k : Nat) (f : BitVec 15) (sel : Nat) : State :=
  ((List.range (Fld.width f)).filter fun b => sel.testBit b).foldl (fun s b => s.mendRow k (Fld.start f + b) 1) s

/-- Replace the selected bits of a field of a row, each column by its own write pass (R99, R108). -/
def State.writeSelected (s : State) (k : Nat) (f : BitVec 15) (sel val : Nat) : State :=
  let s := s.mendSelected k f sel
  let r := s.rowAt k
  let width := Fld.width f
  let new := Nat.lor (Nat.land (r.fld f) (2 ^ width - 1 - sel)) (Nat.land val sel)
  s.putRow k { r with data := putBits r.data (Fld.start f) width new }

/-- AWR and AWRL (R108): write the selected bits of F, then the full/empty action on every word F covers. -/
def State.taggedWrite (s : State) (h : Hart) (g : Gang) (lim : Nat) (o : SForm) (val we : Nat) : Res :=
  let f := o.fld
  let width := Fld.width f
  let ws := Fld.words f
  let els := actOf h lim (s.activeEls h g o.mask)
  if s.elsReserved h g els ws then .wait s
  else
    let one (s : State) (i : Nat) : State :=
      let k := s.elemKey g h.slot i
      let s := s.writeSelected k f (we % 2 ^ width) val
      match o.e 19 18 with
      | 1 => s.markRow k (wordMask (Fld.start f) width) true
      | 2 => s.markRow k (wordMask (Fld.start f) width) false
      | _ => s
    .done (els.foldl one s)

/-- VSTAT.EMPTY written from the active elements (R71, R113). -/
def Hart.setEmpty (h : Hart) (e : Bool) : Hart := { h with vstat := (h.vstat &&& 2) ||| (if e then 1 else 0) }

/-- A tag count to a scalar register (R113). -/
def State.tagCount (s : State) (id : Nat) (h : Hart) (g : Gang) (m : Mask) (d : Reg) (ta : Tag)
    (f : List Nat → Nat) : Res :=
  let els := s.activeEls h g m
  let hit := els.filter fun i => (s.rawRow (s.elemKey g h.slot i)).tag ta
  .hart s id ((h.setEmpty els.isEmpty).later d (BitVec.ofNat 64 (f hit)))

/-- Write a tag of each listed element from a function of its index. -/
def State.writeTags (s : State) (h : Hart) (g : Gang) (td : Tag) (f : Nat → Bool) (els : List Nat) : State :=
  els.foldl (fun s i => s.tagRow (s.elemKey g h.slot i) td (f i)) s

/-- TSHUP and TSHDN (R110): every source is read before any element is written. -/
def State.tagShift (s : State) (h : Hart) (g : Gang) (lim : Nat) (o : SForm) (up : Bool) : Res :=
  let n := (h.reg o.a).toNat
  let ts : Tag := BitVec.ofNat 3 (o.e 2 0)
  let td : Tag := BitVec.ofNat 3 (o.e 17 15)
  let src (i : Nat) : Bool :=
    if up then if n ≤ i then (s.rawRow (s.elemKey g h.slot (i - n))).tag ts else o.eb 18
    else if i + n < h.vl then (s.rawRow (s.elemKey g h.slot (i + n))).tag ts else o.eb 18
  let els := actOf h lim (s.activeEls h g o.mask)
  .done (s.writeTags h g td src els)

/-- The pass of one microword on one row (R117). -/
def uwordRow (sa sb m : W64) (r : Row) : Eff :=
  let cx := Fld.start (Uword.field sa (Uword.xbase m)) + Uword.xoff m
  let cy := Fld.start (Uword.field sa (Uword.ybase m)) + Uword.yoff m
  let bx := Uword.xval m sb
  let yb := Uword.yval m sb
  if !Uword.write m then
    let hit := (!Uword.xen m || r.data.getLsbD cx == bx) && (!Uword.yen m || r.data.getLsbD cy == yb) &&
      (!Uword.qen m || r.tag (Uword.qtag m) == Uword.qval m)
    { tag := some (Uword.tt m, combine (Uword.cmb m) (r.tag (Uword.tt m)) hit) }
  else if r.tag (Uword.tt m) != m.getLsbD 58 then
    { writes := (if Uword.xen m then [(cx, 1, bitAt 0 bx)] else []) ++ (if Uword.yen m then [(cy, 1, bitAt 0 yb)] else []),
      tag := if Uword.qen m then some (Uword.qtag m, Uword.qval m) else none }
  else {}

/-- One microword on every listed element. -/
def State.microPass (s : State) (h : Hart) (g : Gang) (sa sb : W64) (els : List Nat) (m : W64) : State :=
  els.foldl (fun s i =>
    let k := s.elemKey g h.slot i
    s.applyEff k (uwordRow sa sb m (s.rawRow k))) s

/-- ASRCH (R107): Masked key search of field F, combined into tag td. -/
def execAsrch (o : SForm) (s : State) : Host.Outcome State Fault Refusal :=
  run (.asrch o) (fun s id h g lim => s.search id h g lim o (h.reg o.a).toNat (h.reg o.b).toNat) s

/-- ASRCHL (R107): Search of field F against a literal key. -/
def execAsrchl (o : SForm) (s : State) : Host.Outcome State Fault Refusal :=
  run (.asrchl o) (fun s id h g lim => s.search id h g lim o o.lit16 (2 ^ 64 - 1)) s

/-- AWR (R108): Tagged write of field F, with an optional full/empty action. -/
def execAwr (o : SForm) (s : State) : Host.Outcome State Fault Refusal :=
  run (.awr o) (fun s _ h g lim => s.taggedWrite h g lim o (h.reg o.a).toNat (h.reg o.b).toNat) s

/-- AWRL (R108): Tagged write of a literal value to field F. -/
def execAwrl (o : SForm) (s : State) : Host.Outcome State Fault Refusal :=
  run (.awrl o) (fun s _ h g lim => s.taggedWrite h g lim o o.lit16 (2 ^ 64 - 1)) s

/-- TSHUP (R110): Shifts a tag up by sa elements. -/
def execTshup (o : SForm) (s : State) : Host.Outcome State Fault Refusal :=
  run (.tshup o) (fun s _ h g lim => s.tagShift h g lim o true) s

/-- TSHDN (R110): Shifts a tag down by sa elements. -/
def execTshdn (o : SForm) (s : State) : Host.Outcome State Fault Refusal :=
  run (.tshdn o) (fun s _ h g lim => s.tagShift h g lim o false) s

/-- TAND (R112): td := ta AND tb in each acted element. -/
def execTand (td ta tb : Tag) (m : Mask) (s : State) : Host.Outcome State Fault Refusal :=
  run (.tand td ta tb m) (fun s id h g lim => s.tagOp id h g lim m td fun r => r.tag ta && r.tag tb) s

/-- TOR (R112): td := ta OR tb. -/
def execTor (td ta tb : Tag) (m : Mask) (s : State) : Host.Outcome State Fault Refusal :=
  run (.tor td ta tb m) (fun s id h g lim => s.tagOp id h g lim m td fun r => r.tag ta || r.tag tb) s

/-- TXOR (R112): td := ta XOR tb. -/
def execTxor (td ta tb : Tag) (m : Mask) (s : State) : Host.Outcome State Fault Refusal :=
  run (.txor td ta tb m) (fun s id h g lim => s.tagOp id h g lim m td fun r => r.tag ta != r.tag tb) s

/-- TANDN (R112): td := ta AND NOT tb. -/
def execTandn (td ta tb : Tag) (m : Mask) (s : State) : Host.Outcome State Fault Refusal :=
  run (.tandn td ta tb m) (fun s id h g lim => s.tagOp id h g lim m td fun r => r.tag ta && !r.tag tb) s

/-- TNOT (R112): td := NOT ta. -/
def execTnot (td ta : Tag) (m : Mask) (s : State) : Host.Outcome State Fault Refusal :=
  run (.tnot td ta m) (fun s id h g lim => s.tagOp id h g lim m td fun r => !r.tag ta) s

/-- TMOV (R112): td := ta. -/
def execTmov (td ta : Tag) (m : Mask) (s : State) : Host.Outcome State Fault Refusal :=
  run (.tmov td ta m) (fun s id h g lim => s.tagOp id h g lim m td fun r => r.tag ta) s

/-- TSET (R112): td := 1 in each acted element. -/
def execTset (td : Tag) (m : Mask) (s : State) : Host.Outcome State Fault Refusal :=
  run (.tset td m) (fun s id h g lim => s.tagOp id h g lim m td fun _ => true) s

/-- TCLR (R112): td := 0 in each acted element. -/
def execTclr (td : Tag) (m : Mask) (s : State) : Host.Outcome State Fault Refusal :=
  run (.tclr td m) (fun s id h g lim => s.tagOp id h g lim m td fun _ => false) s

/-- TCNT (R113): sd := the number of active elements with ta set. -/
def execTcnt (d : Reg) (ta : Tag) (m : Mask) (s : State) : Host.Outcome State Fault Refusal :=
  run (.tcnt d ta m) (fun s id h g _ => s.tagCount id h g m d ta fun l => l.length) s

/-- TANY (R113): sd := 1 if any active element has ta set, else 0. -/
def execTany (d : Reg) (ta : Tag) (m : Mask) (s : State) : Host.Outcome State Fault Refusal :=
  run (.tany d ta m) (fun s id h g _ => s.tagCount id h g m d ta fun l => if l.isEmpty then 0 else 1) s

/-- TFIRST (R113): sd := the least active index with ta set, or VL if there is none. -/
def execTfirst (d : Reg) (ta : Tag) (m : Mask) (s : State) : Host.Outcome State Fault Refusal :=
  run (.tfirst d ta m) (fun s id h g _ => s.tagCount id h g m d ta fun l => l.headD h.vl) s

/-- TPICK (R114): td keeps the sa lowest-indexed set elements of ta. -/
def execTpick (td ta : Tag) (a : Reg) (m : Mask) (s : State) : Host.Outcome State Fault Refusal :=
  run (.tpick td ta a m) (fun s _ h g lim => 
    let els := s.activeEls h g m
    let sel := (els.filter fun i => (s.rawRow (s.elemKey g h.slot i)).tag ta).take (min (h.reg a).toNat els.length)
    .done (s.writeTags h g td (fun i => sel.contains i) (actOf h lim els))) s

/-- AMCODE_RUN (R117): Runs a user microcode routine of passes. The elements acted on are those the mask gave before the
first pass, also when the routine writes its own mask tag (R93) (DEDUCED, log 50). -/
def execAmcodeRun (o : SForm) (s : State) : Host.Outcome State Fault Refusal :=
  run (.amcodeRun o) (fun s _ h g lim => 
    let sa := h.reg o.a
    let f (b : Nat) := Uword.field sa b
    let els := s.activeEls h g o.mask
    let act := actOf h lim els
    if !s.elsFullRaw h g els (Fld.words (f 0) ++ Fld.words (f 1) ++ Fld.words (f 2)) || s.elsReserved h g act (Fld.words (f 2)) then .wait s
    else
      let ms := (s.runRoutine h g (o.e 11 0)).getD []
      .done (ms.foldl (fun s m => s.microPass h g sa (h.reg o.b) act m) s)) s

/-- Enter microwords in the tables of every core of the gang (R118). -/
def State.putUcode (s : State) (g : Gang) (j : Nat) (ws : List W64) : State :=
  { s with ucode := (List.range g.g).foldl (fun u e =>
      ((List.range ws.length).zip ws).foldl (fun u x => SMap.put u ((g.first + e) * 1024 + j + x.1) x.2) u) s.ucode }

/-- Whether an instruction loads microcode, or runs it. -/
def isAmcodeLoad : Instr → Bool
  | .amcodeLoad _ => true
  | _ => false
def isAmcodeRun : Instr → Bool
  | .amcodeRun _ => true
  | _ => false

/-- Whether a convoy has an AMCODE run that has issued and not finished: one not behind a load of the convoy, or one whose
load is done (R118, R119). -/
def Conv.hasRun (c : Conv) : Bool :=
  (c.routines.drop c.idx).any Option.isSome || ((c.instrs.drop c.idx).takeWhile fun i => !isAmcodeLoad i).any isAmcodeRun

/-- Whether another hart of a gang has issued an AMCODE run that has not finished (R118, R119). -/
def State.runInProgress (s : State) (id k : Nat) : Bool :=
  s.harts.any fun e => e.1 != id && e.2.gang == k && e.2.conv.any Conv.hasRun

/-- AMCODE_LOAD (R118): Loads microwords into user microcode entries. -/
def execAmcodeLoad (o : SForm) (s : State) : Host.Outcome State Fault Refusal :=
  run (.amcodeLoad o) (fun s id h g _ => 
    if s.runInProgress id h.gang then .wait s
    else
    match s.readWords id h ((List.range (h.reg o.b).toNat).map fun i => h.reg o.a + BitVec.ofNat 64 (8 * i)) with
    | .fault c va => .stop s c va none
    | .pending s => .busy s
    | .words ws => .done (s.putUcode g (o.e 11 0 - 3072) ws)) s

end Sys2Proof.Machine
end

