-- ==== Sys2Proof/Machine/Fp.lean ====
section
/-! DEFINITION. Number formats and their arithmetic (R120 to R126): integers of a field, the five floating formats, exact
values, the one rounding with its flags, and the operations that every floating instruction shares. -/

namespace Sys2Proof.Machine

open Sys2Proof

/-! ## Flags (R71) -/

/-- NV, DZ, OF, UF, NX and SAT. -/
def fNV : BitVec 6 := 1
def fDZ : BitVec 6 := 2
def fOF : BitVec 6 := 4
def fUF : BitVec 6 := 8
def fNX : BitVec 6 := 16
def fSAT : BitVec 6 := 32

/-- A flag when a condition holds. -/
def flagIf (b : Bool) (f : BitVec 6) : BitVec 6 := if b then f else 0

/-! ## Integers (R120) -/

/-- The value of a field of width w with integer type t. -/
def ival (t w x : Nat) : Int := if t = 1 then sextNat w x else (x % 2 ^ w : Nat)

/-- The pattern of an integer in w bits. -/
def wrap (w : Nat) (i : Int) : Nat := (i % 2 ^ w).toNat

/-- Least and greatest value of an integer type. -/
def loInt (t w : Nat) : Int := if t = 1 then -2 ^ (w - 1) else 0
def hiInt (t w : Nat) : Int := if t = 1 then 2 ^ (w - 1) - 1 else 2 ^ w - 1

/-- Clamp to the range of the type. -/
def clampInt (lo hi i : Int) : Int := if i < lo then lo else if hi < i then hi else i

/-- The clamped pattern, with SAT where the clamp changed the value. -/
def satInt (t w : Nat) (i : Int) : Nat × BitVec 6 :=
  let r := clampInt (loInt t w) (hiInt t w) i
  (wrap w r, flagIf (r ≠ i) fSAT)

/-- An integer delivered with or without .sat. -/
def putInt (sat : Bool) (t w : Nat) (i : Int) : Nat × BitVec 6 := if sat then satInt t w i else (wrap w i, 0)

/-- Quotient rounded toward zero and its remainder, with the edge cases of R142. -/
def quotInt (t w : Nat) (a b : Int) : Int := if b = 0 then (if t = 1 then -1 else 2 ^ w - 1) else a.tdiv b
def remInt (a b : Int) : Int := if b = 0 then a else a.tmod b

/-! ## Floating formats (R121) -/

/-- A format's exponent bits, fraction bits and bias. -/
structure Fmt where
  code : Nat
  eb : Nat
  fb : Nat
  bias : Nat
  deriving DecidableEq, Repr

/-- The format of a type code. -/
def fmtOf (t : Nat) : Fmt :=
  match t with
  | 2 => ⟨2, 8, 23, 127⟩
  | 3 => ⟨3, 8, 7, 127⟩
  | 4 => ⟨4, 5, 10, 15⟩
  | 5 => ⟨5, 4, 3, 7⟩
  | _ => ⟨6, 5, 2, 15⟩

namespace Fmt

/-- Width in bits. -/
def width (f : Fmt) : Nat := 1 + f.eb + f.fb
/-- The sign of a pattern. -/
def sign (f : Fmt) (x : Nat) : Bool := x.testBit (f.eb + f.fb)
/-- Exponent and fraction of a pattern together. -/
def mag (f : Fmt) (x : Nat) : Nat := x % 2 ^ (f.eb + f.fb)
/-- The pattern with a sign and a magnitude. -/
def signed (f : Fmt) (neg : Bool) (mag : Nat) : Nat := if neg then 2 ^ (f.eb + f.fb) + mag else mag
/-- The canonical NaN. -/
def nan (f : Fmt) : Nat := if f.code = 5 then 0x7F else (2 ^ f.eb - 1) * 2 ^ f.fb + 2 ^ (f.fb - 1)
/-- The magnitude of infinity; E4M3 has none. -/
def infMag (f : Fmt) : Nat := (2 ^ f.eb - 1) * 2 ^ f.fb
/-- The magnitude of the largest finite value. -/
def maxMag (f : Fmt) : Nat := if f.code = 5 then 0x7E else f.infMag - 1
/-- Whether a pattern is a NaN. -/
def isNan (f : Fmt) (x : Nat) : Bool := f.maxMag < f.mag x && (f.code == 5 || f.mag x != f.infMag)
/-- Exponent of the smallest normal. -/
def emin (f : Fmt) : Int := 1 - f.bias
/-- Exponent of the last place of a subnormal. -/
def qmin (f : Fmt) : Int := f.emin - f.fb

end Fmt

/-- An exact value: sign, integer and power of two; a zero has a sign. -/
inductive FVal where
  | nan
  | inf (neg : Bool)
  | fin (neg : Bool) (m : Nat) (e : Int)
  deriving DecidableEq, Repr

/-- The value of a pattern (R121). -/
def Fmt.value (f : Fmt) (x : Nat) : FVal :=
  if f.isNan x then .nan
  else if f.code ≠ 5 && f.mag x = f.infMag then .inf (f.sign x)
  else
    let e := f.mag x / 2 ^ f.fb
    let m := f.mag x % 2 ^ f.fb
    if e = 0 then .fin (f.sign x) m f.qmin else .fin (f.sign x) (m + 2 ^ f.fb) (f.qmin + (e - 1))

/-- The value of a pattern as an input: while FZ is in force a subnormal is a zero of its sign (R125). -/
def Fmt.input (f : Fmt) (fz : Bool) (x : Nat) : FVal :=
  if fz && f.mag x < 2 ^ f.fb then .fin (f.sign x) 0 0 else f.value x

/-- An integer as a value. -/
def FVal.ofInt (i : Int) : FVal := .fin (i < 0) i.natAbs 0

/-- A BFP element from its mantissa pattern, its width and the block's exponent (R126). -/
def bfpValue (m x e : Nat) : FVal :=
  if e = 0 then .fin false 0 0
  else if e = 255 then .nan
  else
    let i := sextNat m x
    .fin (i < 0) i.natAbs ((e : Int) - 127)

/-- Negate. -/
def FVal.neg : FVal → FVal
  | .nan => .nan
  | .inf n => .inf (!n)
  | .fin n m e => .fin (!n) m e

/-- Whether a value is a NaN. -/
def FVal.isNan : FVal → Bool
  | .nan => true
  | _ => false

/-! ## Rounding (R123 to R125) -/

/-- m / 2^sh rounded to an integer in a mode. -/
def roundShift (rm : Nat) (neg : Bool) (m sh : Nat) : Nat :=
  let q := m / 2 ^ sh
  let r := m % 2 ^ sh
  let up : Bool :=
    match rm with
    | 0 => 2 ^ sh < 2 * r || (2 ^ sh == 2 * r && q % 2 == 1)
    | 1 => false
    | 2 => neg && r != 0
    | 3 => !neg && r != 0
    | _ => 2 ^ sh ≤ 2 * r
  if up then q + 1 else q

/-- m * 2^e as a multiple of 2^q, rounded in a mode, and whether that is inexact. -/
def roundAt (rm : Nat) (neg : Bool) (m : Nat) (e q : Int) : Nat × Bool :=
  if q ≤ e then (m * 2 ^ (e - q).toNat, false)
  else (roundShift rm neg m (q - e).toNat, m % 2 ^ (q - e).toNat != 0)

/-- An overflow: infinity or the largest finite, as the mode directs; E4M3 has the NaN for infinity, and .sat the
largest finite (R124, R143). -/
def Fmt.overflow (f : Fmt) (rm : Nat) (sat neg : Bool) : Nat :=
  let toInf : Bool := match rm with | 1 => false | 2 => neg | 3 => !neg | _ => true
  if !toInf || sat then f.signed neg f.maxMag
  else if f.code = 5 then f.nan
  else f.signed neg f.infMag

/-- Round a nonzero exact value to the format, with its flags (R123 to R125). -/
def Fmt.roundFin (f : Fmt) (rm : Nat) (fz sat neg : Bool) (m : Nat) (e : Int) : Nat × BitVec 6 :=
  let q : Int := m.log2 + e - f.fb
  let free := roundAt rm neg m e q
  let tiny : Bool := q < f.qmin && !(q + 1 == f.qmin && free.1 == 2 ^ (f.fb + 1))
  if tiny && fz then (f.signed neg 0, fUF ||| fNX)
  else
    let q' : Int := if q < f.qmin then f.qmin else q
    let r := roundAt rm neg m e q'
    let mag := (q' - f.qmin).toNat * 2 ^ f.fb + r.1
    if f.maxMag < mag then (f.overflow rm sat neg, fOF ||| fNX)
    else (f.signed neg mag, flagIf r.2 fNX ||| flagIf (tiny && r.2) fUF)

/-- Deliver an exact value in a format. -/
def Fmt.deliver (f : Fmt) (rm : Nat) (fz sat : Bool) : FVal → Nat × BitVec 6
  | .nan => (f.nan, 0)
  | .inf n => (if sat then f.signed n f.maxMag else if f.code = 5 then f.nan else f.signed n f.infMag, 0)
  | .fin n m e => if m = 0 then (f.signed n 0, 0) else f.roundFin rm fz sat n m e

/-! ## Exact operations: the value and NV or DZ -/

/-- A signed magnitude as an integer. -/
def signedInt (neg : Bool) (m : Nat) : Int := if neg then -(m : Int) else m

/-- a + b (R122, R124) (DEDUCED, log 13). -/
def FVal.add (rm : Nat) : FVal → FVal → FVal × BitVec 6
  | .nan, _ => (.nan, 0)
  | _, .nan => (.nan, 0)
  | .inf a, .inf b => if a = b then (.inf a, 0) else (.nan, fNV)
  | .inf a, .fin _ _ _ => (.inf a, 0)
  | .fin _ _ _, .inf b => (.inf b, 0)
  | .fin n m e, .fin n' m' e' =>
    if m = 0 && m' = 0 then (.fin (if n = n' then n else rm == 2) 0 0, 0)
    else
      let q := if e ≤ e' then e else e'
      let t := signedInt n (m * 2 ^ (e - q).toNat) + signedInt n' (m' * 2 ^ (e' - q).toNat)
      if t = 0 then (.fin (rm == 2) 0 0, 0) else (.fin (t < 0) t.natAbs q, 0)

/-- a × b. -/
def FVal.mul : FVal → FVal → FVal × BitVec 6
  | .nan, _ => (.nan, 0)
  | _, .nan => (.nan, 0)
  | .inf a, .inf b => (.inf (a != b), 0)
  | .inf a, .fin n m _ => if m = 0 then (.nan, fNV) else (.inf (a != n), 0)
  | .fin n m _, .inf b => if m = 0 then (.nan, fNV) else (.inf (n != b), 0)
  | .fin n m e, .fin n' m' e' => (.fin (n != n') (m * m') (e + e'), 0)

/-- a × b + c, exact (R138, R173). A NaN operand raises nothing (R122). -/
def FVal.fma (rm : Nat) (a b c : FVal) : FVal × BitVec 6 :=
  if a.isNan || b.isNan || c.isNan then (.nan, 0)
  else
    let p := a.mul b
    if p.1.isNan then p else p.1.add rm c

/-- a / b: a quotient of 64 bits or more with a sticky last bit (R173). -/
def FVal.div : FVal → FVal → FVal × BitVec 6
  | .nan, _ => (.nan, 0)
  | _, .nan => (.nan, 0)
  | .inf _, .inf _ => (.nan, fNV)
  | .inf a, .fin n _ _ => (.inf (a != n), 0)
  | .fin n _ _, .inf b => (.fin (n != b) 0 0, 0)
  | .fin n m e, .fin n' m' e' =>
    if m' = 0 then (if m = 0 then (.nan, fNV) else (.inf (n != n'), fDZ))
    else
      let s := 64 + m'.log2
      let x := m * 2 ^ s
      (.fin (n != n') (2 * (x / m') + if x % m' = 0 then 0 else 1) (e - e' - s - 1), 0)

/-- Integer square root of a number below 2^128. -/
def isqrt (n : Nat) : Nat :=
  (List.range 64).foldl (fun r i => let c := r + 2 ^ (63 - i); if c * c ≤ n then c else r) 0

/-- √a with a sticky last bit (R173). -/
def FVal.sqrt : FVal → FVal × BitVec 6
  | .nan => (.nan, 0)
  | .inf n => if n then (.nan, fNV) else (.inf false, 0)
  | .fin n m e =>
    if m = 0 then (.fin n 0 0, 0)
    else if n then (.nan, fNV)
    else
      let odd := e % 2 ≠ 0
      let x := (if odd then 2 * m else m) * 2 ^ 64
      let r := isqrt x
      (.fin false (2 * r + if r * r = x then 0 else 1) ((if odd then e - 1 else e) / 2 - 33), 0)

/-- An operation's exact result delivered: rounded once, with every flag (DEDUCED, log 13). -/
def Fmt.result (f : Fmt) (rm : Nat) (fz : Bool) (r : FVal × BitVec 6) : Nat × BitVec 6 :=
  let x := f.deliver rm fz false r.1
  (x.1, x.2 ||| r.2)

/-! ## Order of patterns (R139, R141) -/

/-- Patterns that are no NaN in order of value, with -0 below +0. -/
def Fmt.key (f : Fmt) (x : Nat) : Int := if f.sign x then -(f.mag x : Int) - 1 else f.mag x

/-- In order of value, with the zeros equal. -/
def Fmt.keyEq (f : Fmt) (x : Nat) : Int := signedInt (f.sign x) (f.mag x)

/-- cond(cc, a, b) of R141 on keys. -/
def condInt (cc : Nat) (a b : Int) : Bool :=
  match cc with
  | 0 => a == b
  | 1 => a != b
  | 2 => a < b
  | 3 => a ≤ b
  | 4 => b < a
  | _ => b ≤ a

/-- cond(cc, a, b) on values of a type (R141). -/
def condType (t w cc a b : Nat) : Bool :=
  if isInt t then condInt cc (ival t w a) (ival t w b)
  else
    let f := fmtOf t
    if f.isNan a || f.isNan b then cc == 1 else condInt cc (f.keyEq a) (f.keyEq b)

/-- The smaller or larger of two values of a type; a NaN operand gives the canonical NaN (R139, R173). -/
def pickType (t w : Nat) (max : Bool) (a b : Nat) : Nat :=
  if isInt t then if (ival t w b < ival t w a) == max then a else b
  else
    let f := fmtOf t
    if f.isNan a || f.isNan b then f.nan else if (f.key b < f.key a) == max then a else b

/-! ## Conversion (R143) -/

/-- A value rounded to an integer in a mode, and whether that is inexact. -/
def roundInt (rm : Nat) (n : Bool) (m : Nat) (e : Int) : Int × Bool :=
  let r := roundAt rm n m e 0
  (signedInt n r.1, r.2)

/-- A value to an integer type: the range is judged on the rounded integer. -/
def FVal.toInt (t w rm : Nat) : FVal → Nat × BitVec 6
  | .nan => (0, fNV)
  | .inf n => (wrap w (if n then loInt t w else hiInt t w), fNV)
  | .fin n m e =>
    let r := roundInt rm n m e
    let c := clampInt (loInt t w) (hiInt t w) r.1
    if c ≠ r.1 then (wrap w c, fNV) else (wrap w c, flagIf r.2 fNX)

/-- The value of a field of type t (0 to 6). -/
def valueOf (t w : Nat) (fz : Bool) (x : Nat) : FVal :=
  if isInt t then FVal.ofInt (ival t w x) else (fmtOf t).input fz x

/-- A value delivered in type dt, of width wd. -/
def FVal.convert (dt wd rm : Nat) (fz sat : Bool) (v : FVal) : Nat × BitVec 6 :=
  if isInt dt then v.toInt dt wd rm else (fmtOf dt).deliver rm fz sat v

/-- VCVT and FCVT on one value (R143, R176): st is 0 to 6. -/
def convertBits (dt wd st ws rm : Nat) (fz sat : Bool) (x : Nat) : Nat × BitVec 6 :=
  if isInt dt && isInt st then putInt sat dt wd (ival st ws x)
  else (valueOf st ws fz x).convert dt wd rm fz sat

/-- The rounding mode of an fn4[2:0] override, 0 for FRM.RM (R143, R168). -/
def rmOf (fn rm : Nat) : Nat := if fn = 0 then rm else fn - 1

end Sys2Proof.Machine
end

