-- ==== Sys2Proof/Machine/Arith.lean ====
section
/-! DEFINITION. Associative arithmetic, op8 0x00 to 0x1B of the V form (R132 to R145). The passes read raw bits (R92,
R99); every result is formed from the row as it stood, and D is written once. -/

namespace Sys2Proof.Machine

open Sys2Proof

/-- Bv(i) of R133, for an operand of width w. -/
def bval (v : VForm) (h : Hart) (r : Row) (w : Nat) : Nat :=
  match v.bm with
  | 0 => r.fld v.B
  | 1 => (h.reg v.bReg).toNat % 2 ^ w
  | _ => if v.ty = 1 then wrap w (sextNat 24 v.x.toNat) else v.x.toNat % 2 ^ w

/-- The count of a shift: all of the register or of the immediate, as a natural number (R133). -/
def shiftCount (v : VForm) (h : Hart) : Nat := if v.bm = 1 then (h.reg v.bReg).toNat else v.x.toNat

/-- An elementwise instruction that writes D (R135): `ws` are the words it reads. -/
def State.arith (s : State) (id : Nat) (h : Hart) (g : Gang) (lim : Nat) (v : VForm) (ws : List Nat)
    (f : Row → Nat × BitVec 6) : Res :=
  s.passes id h g lim v.m ws (Fld.words v.D) fun _ r =>
    let x := f r
    Eff.field v.D x.1 x.2

/-- A binary operation on the patterns of A and Bv. -/
def State.arith2 (s : State) (id : Nat) (h : Hart) (g : Gang) (lim : Nat) (v : VForm)
    (f : Nat → Nat → Nat × BitVec 6) : Res :=
  let wa := Fld.width v.A
  s.arith id h g lim v (sourceWords v.fieldsAB) fun r => f (r.fld v.A) (bval v h r wa)

/-- A unary operation on the pattern of A. -/
def State.arith1 (s : State) (id : Nat) (h : Hart) (g : Gang) (lim : Nat) (v : VForm) (f : Nat → Nat × BitVec 6) : Res :=
  s.arith id h g lim v (Fld.words v.A) fun r => f (r.fld v.A)

/-- An integer operation, exact, on two operands of one type, delivered in D. -/
def intOp (v : VForm) (sat : Bool) (f : Int → Int → Int) (a b : Nat) : Nat × BitVec 6 :=
  let wa := Fld.width v.A
  putInt sat v.ty (Fld.width v.D) (f (ival v.ty wa a) (ival v.ty wa b))

/-- A floating operation rounded RNE (R137). -/
def floatOp (v : VForm) (h : Hart) (f : FVal → FVal → FVal × BitVec 6) (a b : Nat) : Nat × BitVec 6 :=
  let t := fmtOf v.ty
  t.result 0 h.fz (f (t.input h.fz a) (t.input h.fz b))

/-- Sign changes of a floating pattern: a NaN gives the canonical NaN (R139). -/
def signOp (t : Fmt) (neg : Bool → Bool) (a : Nat) : Nat × BitVec 6 :=
  if t.isNan a then (t.nan, 0) else (t.signed (neg (t.sign a)) (t.mag a), 0)

/-- The bits of a signed or natural operand combined bit by bit. -/
def bitOp (f : Nat → Nat → Nat) (a b : Nat) : Nat × BitVec 6 := (f a b, 0)

/-! ## Add, subtract, multiply -/

/-- VADD (R137): Associative add. -/
def execVadd (v : VForm) (s : State) : Host.Outcome State Fault Refusal :=
  run (.vadd v) (fun s id h g lim => 
    s.arith2 id h g lim v (if isInt v.ty then intOp v false (· + ·) else floatOp v h (FVal.add 0))) s

/-- VSUB (R137): Associative subtract. -/
def execVsub (v : VForm) (s : State) : Host.Outcome State Fault Refusal :=
  run (.vsub v) (fun s id h g lim => 
    s.arith2 id h g lim v (if isInt v.ty then intOp v false (· - ·) else floatOp v h fun a b => a.add 0 b.neg)) s

/-- VADDS (R137): Saturating associative add. -/
def execVadds (v : VForm) (s : State) : Host.Outcome State Fault Refusal :=
  run (.vadds v) (fun s id h g lim => s.arith2 id h g lim v (intOp v true (· + ·))) s

/-- VSUBS (R137): Saturating associative subtract. -/
def execVsubs (v : VForm) (s : State) : Host.Outcome State Fault Refusal :=
  run (.vsubs v) (fun s id h g lim => s.arith2 id h g lim v (intOp v true (· - ·))) s

/-- VMUL (R138): Associative multiply. -/
def execVmul (v : VForm) (s : State) : Host.Outcome State Fault Refusal :=
  run (.vmul v) (fun s id h g lim => 
    s.arith2 id h g lim v (if isInt v.ty then intOp v (v.fnb 2) (· * ·) else floatOp v h FVal.mul)) s

/-- VMULH (R138): Widening multiply into high and low fields D and C. -/
def execVmulh (v : VForm) (s : State) : Host.Outcome State Fault Refusal :=
  run (.vmulh v) (fun s id h g lim => 
    let n := Fld.width v.A
    s.passes id h g lim v.m (sourceWords v.fieldsAB) (Fld.words v.D ++ Fld.words v.fC) fun _ r =>
      let p := ival v.ty n (r.fld v.A) * ival v.ty n (bval v h r n)
      { writes := [(Fld.start v.D, n, wrap n (p / 2 ^ n)), (Fld.start v.fC, n, wrap n p)] }) s

/-- VMAC on one element (R138): D, A and Bv. -/
def macOp (v : VForm) (h : Hart) (d a b : Nat) : Nat × BitVec 6 :=
  if isInt v.ty then intOp v (v.fnb 2) (fun x y => ival v.ty (Fld.width v.D) d + x * y) a b
  else
    let t := fmtOf v.ty
    t.result 0 h.fz ((t.input h.fz a).fma 0 (t.input h.fz b) (t.input h.fz d))

/-- VMAC (R138): Multiply-accumulate into D. -/
def execVmac (v : VForm) (s : State) : Host.Outcome State Fault Refusal :=
  run (.vmac v) (fun s id h g lim => 
    s.arith id h g lim v (sourceWords v.fieldsAB ++ Fld.words v.D) fun r => macOp v h (r.fld v.D) (r.fld v.A) (bval v h r (Fld.width v.A))) s

/-! ## Negate, absolute value, difference, minimum, maximum -/

/-- VNEG (R139): Negate. -/
def execVneg (v : VForm) (s : State) : Host.Outcome State Fault Refusal :=
  run (.vneg v) (fun s id h g lim => 
    s.arith1 id h g lim v fun a =>
      if isInt v.ty then intOp v (v.fnb 2) (fun x _ => -x) a 0 else signOp (fmtOf v.ty) not a) s

/-- VABS (R139): Absolute value. -/
def execVabs (v : VForm) (s : State) : Host.Outcome State Fault Refusal :=
  run (.vabs v) (fun s id h g lim => 
    s.arith1 id h g lim v fun a =>
      if isInt v.ty then intOp v (v.fnb 2) (fun x _ => x.natAbs) a 0 else signOp (fmtOf v.ty) (fun _ => false) a) s

/-- VABSD (R139): Absolute difference. -/
def execVabsd (v : VForm) (s : State) : Host.Outcome State Fault Refusal :=
  run (.vabsd v) (fun s id h g lim => s.arith2 id h g lim v (intOp v false fun x y => (x - y).natAbs)) s

/-- VMIN (R139): Elementwise minimum. -/
def execVmin (v : VForm) (s : State) : Host.Outcome State Fault Refusal :=
  run (.vmin v) (fun s id h g lim => s.arith2 id h g lim v fun a b => (pickType v.ty (Fld.width v.A) false a b, 0)) s

/-- VMAX (R139): Elementwise maximum. -/
def execVmax (v : VForm) (s : State) : Host.Outcome State Fault Refusal :=
  run (.vmax v) (fun s id h g lim => s.arith2 id h g lim v fun a b => (pickType v.ty (Fld.width v.A) true a b, 0)) s

/-! ## Logic and shifts -/

/-- VAND (R140): Bitwise AND. -/
def execVand (v : VForm) (s : State) : Host.Outcome State Fault Refusal :=
  run (.vand v) (fun s id h g lim => s.arith2 id h g lim v (bitOp Nat.land)) s

/-- VOR (R140): Bitwise OR. -/
def execVor (v : VForm) (s : State) : Host.Outcome State Fault Refusal :=
  run (.vor v) (fun s id h g lim => s.arith2 id h g lim v (bitOp Nat.lor)) s

/-- VXOR (R140): Bitwise XOR. -/
def execVxor (v : VForm) (s : State) : Host.Outcome State Fault Refusal :=
  run (.vxor v) (fun s id h g lim => s.arith2 id h g lim v (bitOp Nat.xor)) s

/-- VNOT (R140): Bitwise NOT. -/
def execVnot (v : VForm) (s : State) : Host.Outcome State Fault Refusal :=
  run (.vnot v) (fun s id h g lim => s.arith1 id h g lim v fun a => (2 ^ Fld.width v.A - 1 - a, 0)) s

/-- The count of a shift, a count of w or more read as w: it shifts every bit out (R140). -/
def shiftBy (v : VForm) (h : Hart) : Nat := min (shiftCount v h) (Fld.width v.A)

/-- VSHL (R140): Shift left, optionally saturating. -/
def execVshl (v : VForm) (s : State) : Host.Outcome State Fault Refusal :=
  run (.vshl v) (fun s id h g lim => s.arith1 id h g lim v fun a => intOp v (v.fnb 2) (fun x _ => x * 2 ^ shiftBy v h) a 0) s

/-- VSHR (R140): Logical shift right. -/
def execVshr (v : VForm) (s : State) : Host.Outcome State Fault Refusal :=
  run (.vshr v) (fun s id h g lim => s.arith1 id h g lim v fun a => (a / 2 ^ shiftBy v h, 0)) s

/-- VSRA (R140): Arithmetic shift right. -/
def execVsra (v : VForm) (s : State) : Host.Outcome State Fault Refusal :=
  run (.vsra v) (fun s id h g lim => s.arith1 id h g lim v fun a => intOp v false (fun x _ => x / 2 ^ shiftBy v h) a 0) s

/-! ## Compare, select and move -/

/-- VCMP (R141): Compare, writing a tag. -/
def execVcmp (v : VForm) (s : State) : Host.Outcome State Fault Refusal :=
  run (.vcmp v) (fun s id h g lim => 
    let wa := Fld.width v.A
    s.passes id h g lim v.m (sourceWords v.fieldsAB) [] fun _ r =>
      { tag := some (v.dTag, condType v.ty wa v.cc (r.fld v.A) (bval v h r wa)) }) s

/-- VSEL (R141): Select A or B by tag. -/
def execVsel (v : VForm) (s : State) : Host.Outcome State Fault Refusal :=
  run (.vsel v) (fun s id h g lim => 
    let wa := Fld.width v.A
    s.arith id h g lim v (sourceWords v.fieldsAB) fun r => (if r.tag (v.x.extractLsb' 0 3) then r.fld v.A else bval v h r wa, 0)) s

/-- VMOV (R141): Copy a field or a broadcast value. -/
def execVmov (v : VForm) (s : State) : Host.Outcome State Fault Refusal :=
  run (.vmov v) (fun s id h g lim => 
    let wd := Fld.width v.D
    s.arith id h g lim v (if v.bm = 0 then Fld.words v.A else []) fun r =>
      (if v.bm = 0 then r.fld v.A else bval v h r wd, 0)) s

/-! ## Population count and division -/

/-- VPOPC (R142): Population count of A. -/
def execVpopc (v : VForm) (s : State) : Host.Outcome State Fault Refusal :=
  run (.vpopc v) (fun s id h g lim => s.arith1 id h g lim v fun a => (popCount 64 a % 2 ^ Fld.width v.D, 0)) s

/-- VDIV (R142): Divide, or remainder with .rem. -/
def execVdiv (v : VForm) (s : State) : Host.Outcome State Fault Refusal :=
  run (.vdiv v) (fun s id h g lim => 
    s.arith2 id h g lim v (intOp v false (if v.fnb 2 then remInt else quotInt v.ty (Fld.width v.A)))) s

/-- VMULL (R138): Exact widening multiply. -/
def execVmull (v : VForm) (s : State) : Host.Outcome State Fault Refusal :=
  run (.vmull v) (fun s id h g lim => s.arith2 id h g lim v (intOp v false (· * ·))) s

/-! ## Conversion, blocks -/

/-- The scale field of a row (R126). -/
def Row.scale (r : Row) : Nat := takeBits r.data 504 8

/-- The element that holds the scale field of the block of element i (R126). -/
def blockHead (i : Nat) : Nat := 32 * (i / 32)

/-- The block exponent of element i. -/
def State.scaleOf (s : State) (h : Hart) (g : Gang) (i : Nat) : Nat := (s.rawRow (s.elemKey g h.slot (blockHead i))).scale

/-- Whether the scale fields of the blocks of the listed elements are full, as the passes see it (R92, R99): word 15 of the
head row of each active element's block, the head row active or not (DESIGN CHOICE, log 69). -/
def State.scalesFull (s : State) (h : Hart) (g : Gang) (els : List Nat) : Bool :=
  els.all fun i => (s.rawRow (s.elemKey g h.slot (blockHead i))).full.getLsbD 15

/-- Source type and .sat of a conversion (R143). -/
def cvtSt (v : VForm) : Nat := v.xb 4 0
def cvtSat (v : VForm) : Bool := v.x.getLsbD 5

/-- One element of VCVT (R143); `e` is its block exponent. -/
def cvtOp (v : VForm) (h : Hart) (e a : Nat) : Nat × BitVec 6 :=
  let ws := Fld.width v.A
  let wd := Fld.width v.D
  let rm := rmOf v.fn h.rm
  if cvtSt v = 7 then (bfpValue ws a e).convert v.ty wd rm h.fz (cvtSat v)
  else convertBits v.ty wd (cvtSt v) ws rm h.fz (cvtSat v) a

/-- VCVT (R143): Associative format conversion. -/
def execVcvt (v : VForm) (s : State) : Host.Outcome State Fault Refusal :=
  run (.vcvt v) (fun s id h g lim => 
    if cvtSt v = 7 && !s.scalesFull h g (s.activeEls h g v.m) then .wait s
    else
      s.passes id h g lim v.m (Fld.words v.A) (Fld.words v.D) fun i r =>
        let x := cvtOp v h (if cvtSt v = 7 then s.scaleOf h g i else 0) (r.fld v.A)
        Eff.field v.D x.1 x.2) s

/-- The blocks a block instruction acts on (R128): those with an element that satisfies act(i), and after an earlier
stop only those wholly below the element. -/
def actBlocks (h : Hart) (lim : Nat) (els : List Nat) : List Nat :=
  let n := match els.getLast? with | some i => i / 32 + 1 | none => 0
  (List.range n).filter fun b =>
    (els.any fun i => i / 32 == b && h.vstart ≤ i) && (!stopped h || 32 * b + 31 < lim)

/-- RNE(x * 2^(127 - E)) as an integer; `none` for an infinity. -/
def quantAt (e : Nat) : FVal → Option Int
  | .fin n m x => some (roundInt 0 n m (x + 127 - e)).1
  | _ => none

/-- Whether a mantissa fits in m bits. -/
def fitsMant (m : Nat) (x : FVal) (e : Nat) : Bool :=
  match quantAt e x with
  | some i => -2 ^ (m - 1) ≤ i && i ≤ 2 ^ (m - 1) - 1
  | none => false

/-- Whether M * 2^(E - 127) is x. -/
def quantExact (e : Nat) (i : Int) : FVal → Bool
  | .fin n k x =>
    let r := roundInt 0 n k (x + 127 - e)
    !r.2 && r.1 == i
  | _ => false

/-- Quantise the values of a block (R127): the exponent, the mantissa patterns and the flags. -/
def quantise (m : Nat) (xs : List FVal) : Nat × List Nat × BitVec 6 :=
  let zeros := xs.map fun _ => 0
  if xs.any FVal.isNan then (255, zeros, fNV)
  else if xs.all fun x => match x with | .fin _ k _ => k == 0 | _ => false then (0, zeros, 0)
  else
    let lo : Int := -2 ^ (m - 1)
    let hi : Int := 2 ^ (m - 1) - 1
    let fit := ((List.range 254).map (· + 1)).find? fun e => xs.all fun x => fitsMant m x e
    let e := fit.getD 254
    let ms := xs.map fun x =>
      match x with
      | .inf n => if n then lo else hi
      | x => clampInt lo hi ((quantAt e x).getD 0)
    let inexact := (xs.zip ms).any fun p => !quantExact e p.2 p.1
    (e, ms.map (wrap m), flagIf fit.isNone fSAT ||| flagIf inexact fNX)

/-- Write the scale field of a block (R126). -/
def State.putScale (s : State) (h : Hart) (g : Gang) (b e : Nat) : State :=
  s.writeRow (s.elemKey g h.slot (32 * b)) 504 8 e

/-- VBFPQ on one block (R127, R128): J its active elements, W all of it below VL. -/
def State.quantBlock (s : State) (h : Hart) (g : Gang) (v : VForm) (els : List Nat) (b : Nat) : State × BitVec 6 :=
  let j := els.filter fun i => i / 32 == b
  let inW := ((List.range 32).map (32 * b + ·)).filter fun i => i < h.vl
  let xs := j.map fun i => valueOf (v.xb 4 0) (Fld.width v.A) h.fz ((s.rawRow (s.elemKey g h.slot i)).fld v.A)
  let q := quantise (Fld.width v.D) xs
  let ms := j.zip q.2.1
  let put (s : State) (i : Nat) : State :=
    s.writeRow (s.elemKey g h.slot i) (Fld.start v.D) (Fld.width v.D) (((ms.find? fun p => p.1 == i).map Prod.snd).getD 0)
  ((inW.foldl put s).putScale h g b q.1, q.2.2)

/-- VSCALE on one block (R145). -/
def State.scaleBlock (s : State) (h : Hart) (g : Gang) (v : VForm) (d : Int) (els : List Nat) (b : Nat) :
    State × BitVec 6 :=
  let e := s.scaleOf h g (32 * b)
  let n : Int := (e : Int) + d
  if e = 0 || e = 255 then (s, 0)
  else if 254 < n then (s.putScale h g b 255, fOF)
  else if n < 1 then
    let some1 := els.any fun i => i / 32 == b && (s.rawRow (s.elemKey g h.slot i)).fld v.D != 0
    (s.putScale h g b 0, fUF ||| flagIf some1 fNX)
  else (s.putScale h g b n.toNat, 0)

/-- Run a block instruction on its blocks in order, collecting flags. -/
def State.eachBlock (s : State) (id : Nat) (h : Hart) (one : State → Nat → State × BitVec 6) (bs : List Nat) : Res :=
  let r := bs.foldl (fun (acc : State × BitVec 6) b => let x := one acc.1 b; (x.1, acc.2 ||| x.2)) (s, 0)
  .done (r.1.putHart id (h.raise r.2))

/-- VBFPQ (R127): Quantises blocks to block floating point. -/
def execVbfpq (v : VForm) (s : State) : Host.Outcome State Fault Refusal :=
  run (.vbfpq v) (fun s id h g lim => 
    let els := s.activeEls h g v.m
    let bs := actBlocks h lim els
    if !s.elsFullRaw h g els (Fld.words v.A) || s.elsReserved h g (bs.flatMap fun b => (List.range 32).map (32 * b + ·)) (15 :: Fld.words v.D)
    then .wait s
    else s.eachBlock id h (fun s b => s.quantBlock h g v els b) bs) s

/-- VSCALE (R145): Adjusts the block exponents. -/
def execVscale (v : VForm) (s : State) : Host.Outcome State Fault Refusal :=
  run (.vscale v) (fun s id h g lim => 
    let els := s.activeEls h g v.m
    let bs := actBlocks h lim els
    if !s.elsFullRaw h g els (Fld.words v.D) || !s.scalesFull h g els || s.elsReserved h g (bs.map (32 * ·)) [15] then .wait s
    else
      let d : Int := if v.bm = 1 then (h.reg v.bReg).toInt else sextNat 24 v.x.toNat
      s.eachBlock id h (fun s b => s.scaleBlock h g v d els b) bs) s

end Sys2Proof.Machine
end

