-- ==== Sys2Proof/Machine/Reduce.lean ====
section
/-! DEFINITION. Reductions, scans, selection and similarity, op8 0x40 to 0x46 of the V form (R146 to R161), with the
canonical order that the element-pipe reductions share. -/

namespace Sys2Proof.Machine

open Sys2Proof

/-! ## The canonical order (R147, R148) -/

/-- A value that may be absent, with the flags its operations raised. -/
structure Node3 where
  val : Option Nat
  flags : BitVec 6
  deriving DecidableEq, Repr

/-- comb of R147. -/
def comb (op : Nat → Nat → Nat × BitVec 6) (u v : Node3) : Node3 :=
  match u.val, v.val with
  | none, _ => ⟨v.val, u.flags ||| v.flags⟩
  | _, none => ⟨u.val, u.flags ||| v.flags⟩
  | some a, some b =>
    let r := op a b
    ⟨some r.1, u.flags ||| v.flags ||| r.2⟩

/-- One level of the pairwise tree. -/
def pairs (op : Nat → Nat → Nat × BitVec 6) : List Node3 → List Node3
  | a :: b :: t => comb op a b :: pairs op t
  | l => l

/-- The five levels over one block of 32. -/
def tree (op : Nat → Nat → Nat × BitVec 6) (l : List Node3) : Node3 :=
  ((List.range 5).foldl (fun l _ => pairs op l) l).headD ⟨none, 0⟩

/-- canon of R147 over elements 0 to n - 1. -/
def canon (op : Nat → Nat → Nat × BitVec 6) (val : Nat → Option Nat) (n : Nat) (init : Node3) : Node3 :=
  (List.range ((n + 31) / 32)).foldl (fun acc b =>
    comb op acc (tree op ((List.range 32).map fun j =>
      let i := 32 * b + j
      ⟨if i < n then val i else none, 0⟩))) init

/-- The values that take part, merged two at a time in the order the machine picks (R148, DESIGN CHOICE, log 21). -/
def mergeAll (op : Nat → Nat → Nat × BitVec 6) (pick : Nat → Nat) : Nat → List Node3 → Node3
  | 0, l => l.headD ⟨none, 0⟩
  | n + 1, l =>
    if l.length < 2 then l.headD ⟨none, 0⟩
    else
      let i := pick n % l.length
      let rest := l.eraseIdx i
      let j := pick n / l.length % rest.length
      let m := comb op (l.getD i ⟨none, 0⟩) (rest.getD j ⟨none, 0⟩)
      mergeAll op pick n (rest.set j m)

/-- A floating reduction of the values of n positions: canon under MODE.LA = 1, the machine's order otherwise. -/
def reduceFloat (h : Hart) (g : Gang) (op : Nat → Nat → Nat × BitVec 6) (val : Nat → Option Nat) (n : Nat)
    (init : Option Nat) : Node3 :=
  if h.la then canon op val n ⟨init, 0⟩
  else
    let l := (init.toList ++ (List.range n).filterMap val).map fun x => (⟨some x, 0⟩ : Node3)
    mergeAll op (Config.mergePick h.vl g.na g.g g.h) l.length l

/-- FP32 addition under FRM.RM, with FRM.FZ in FRSUM only (R125, R153, R180) (DEDUCED, log 52). -/
def add32 (h : Hart) (fz : Bool) (a b : Nat) : Nat × BitVec 6 :=
  let t := fmtOf 2
  t.result h.rm fz ((t.input fz a).add h.rm (t.input fz b))

/-! ## Common rules (R150, R151) -/

/-- The body of an instruction that reads A in every active element, once A is full there: as the passes see the
full/empty bits with `raw`, else as the row port does (R92, R96, R99). -/
def State.reduceOn (s : State) (h : Hart) (g : Gang) (v : VForm) (raw : Bool) (body : List Nat → Res) : Res :=
  let els := s.activeEls h g v.m
  let full := if raw then s.elsFullRaw h g els (Fld.words v.A) else s.elsFull h g els (Fld.words v.A)
  if full then body els else .wait s

/-- Value of A in element i as a pass sees it, and as the row port reads it. -/
def State.rawA (s : State) (h : Hart) (g : Gang) (v : VForm) (i : Nat) : Nat := (s.rawRow (s.elemKey g h.slot i)).fld v.A
def State.rowA (s : State) (h : Hart) (g : Gang) (v : VForm) (i : Nat) : Nat := (s.rowAt (s.elemKey g h.slot i)).fld v.A

/-- Whether a row-mode read of a field of element i meets poisoned data (R99). -/
def State.lost (s : State) (h : Hart) (g : Gang) (i : Nat) (ws : List Nat) : Bool :=
  ws.any fun w => s.wordBad (s.elemKey g h.slot i) w

/-- Value of A in element i as a row read of an instruction that no poison stops (R150) (DESIGN CHOICE, log 51). -/
def State.readA (s : State) (h : Hart) (g : Gang) (v : VForm) (i : Nat) : Nat :=
  if s.lost h g i (Fld.words v.A) then (Config.lostRead s.serial (2 * i)).toNat % 2 ^ Fld.width v.A else s.rowA h g v i

/-- The scale field of the block of element i, read the same way. -/
def State.readScale (s : State) (h : Hart) (g : Gang) (i : Nat) : Nat :=
  if s.lost h g (blockHead i) [15] then (Config.lostRead s.serial (2 * i + 1)).toNat % 256
  else (s.rowAt (s.elemKey g h.slot (blockHead i))).scale

/-- Log what row reads of A, and of the scale fields with `bfp`, have met, and count the instruction (R99, R376). -/
def State.noteRead (s : State) (h : Hart) (g : Gang) (els ws : List Nat) (bfp : Bool) : State :=
  if s.upsets.isEmpty && s.badRows.isEmpty then s
  else
    let s := s.noteEls h g els ws
    let s := if bfp then s.noteEls h g (els.map blockHead) [15] else s
    { s with serial := s.serial + 1 }

/-- The exact sum of a block of BFP mantissas as an FP32 value (R153): +0 for E = 0, NaN for E = 255, and an infinity
beyond the range. -/
def blockSum (w e : Nat) (ms : List Nat) : Nat × BitVec 6 :=
  if e = 0 then (0, 0)
  else if e = 255 then ((fmtOf 2).nan, 0)
  else
    let t := (ms.map (sextNat w)).sum
    (fmtOf 2).deliver 0 false false (.fin (t < 0) t.natAbs ((e : Int) - 127))

/-- The partials of the blocks with an active element, as canon's block results (R153) (DEDUCED, log 18). -/
def State.bfpSum (s : State) (h : Hart) (g : Gang) (v : VForm) (els : List Nat) (init : Option Nat) : Node3 :=
  let n := (h.vl + 31) / 32
  let part (b : Nat) : Node3 :=
    let j := els.filter fun i => i / 32 == b
    if j.isEmpty then ⟨none, 0⟩
    else
      let r := blockSum (Fld.width v.A) (s.readScale h g (32 * b)) (j.map (s.readA h g v))
      ⟨some r.1, r.2⟩
  let op := add32 h false
  if h.la then (List.range n).foldl (fun acc b => comb op acc (part b)) ⟨init, 0⟩
  else
    let l := (⟨init, 0⟩ :: (List.range n).map part).filter fun x => x.val.isSome
    mergeAll op (Config.mergePick h.vl g.na g.g g.h) l.length l

/-- Deliver a reduction's result and flags, with VSTAT.EMPTY (R152). -/
def State.reduced (s : State) (id : Nat) (h : Hart) (d : Reg) (empty : Bool) (r : Nat) (f : BitVec 6) : Res :=
  .hart s id (((h.raise f).setEmpty empty).later d (BitVec.ofNat 64 r))

/-! ## Sum, minimum, maximum -/

/-- VRSUM (R153): Sum reduction into sd. -/
def execVrsum (v : VForm) (s : State) : Host.Outcome State Fault Refusal :=
  run (.vrsum v) (fun s id h g _ => 
    s.reduceOn h g v (v.ty != 7) fun els =>
      let old := h.reg v.dReg
      if v.ty = 7 then
        if !(els.all fun i => (s.rowAt (s.elemKey g h.slot (blockHead i))).full.getLsbD 15) then .wait s
        else
          let r := s.bfpSum h g v els (if v.fnb 0 then some (old.toNat % 2 ^ 32) else none)
          let s := s.noteRead h g els (Fld.words v.A) true
          if els.isEmpty && v.fnb 0 then s.reduced id h v.dReg true old.toNat 0
          else s.reduced id h v.dReg els.isEmpty (r.val.getD 0) r.flags
      else
        let sum := (els.map fun i => ival v.ty (Fld.width v.A) (s.rawA h g v i)).sum +
          (if v.fnb 0 then ival v.ty 64 old.toNat else 0)
        let r := putInt (v.fnb 1) v.ty 64 sum
        s.reduced id h v.dReg els.isEmpty r.1 r.2) s

/-- The tags of a list of elements, written in every listed element. -/
def State.setTags (s : State) (h : Hart) (g : Gang) (els : List Nat) (td : Tag) (f : Nat → Bool) : State :=
  s.writeTags h g td f els

/-- The identity of VRMIN (`max` false) or VRMAX (R155). -/
def reduceIdentity (t w : Nat) (max : Bool) : Nat :=
  if isInt t then wrap w (if max then loInt t w else hiInt t w)
  else
    let f := fmtOf t
    f.signed max (if t = 5 then f.maxMag else f.infMag)

/-- Extend a result pattern to 64 bits (R152). -/
def extendType (t w x : Nat) : Nat := if t = 1 then wrap 64 (sextNat w x) else x

/-- The smallest or largest value of a list of patterns, from a start value. -/
def pickAll (t w : Nat) (max : Bool) (start : Nat) (xs : List Nat) : Nat := xs.foldl (pickType t w max) start

/-- VRMIN and VRMAX (R154). -/
def State.extreme (s : State) (id : Nat) (h : Hart) (g : Gang) (v : VForm) (max : Bool) : Res :=
  s.reduceOn h g v true fun els =>
    let w := Fld.width v.A
    let t := v.ty
    let xs := els.map (s.rawA h g v)
    let old := (h.reg v.dReg).toNat % 2 ^ w
    let tw : Tag := v.D.extractLsb' 6 3
    if els.isEmpty then
      s.reduced id h v.dReg true (if v.fnb 0 then (h.reg v.dReg).toNat else extendType t w (reduceIdentity t w max)) 0
    else
      let f := fmtOf t
      let nan := !isInt t && xs.any f.isNan
      let r0 := pickAll t w max (xs.headD 0) xs
      let r := if v.fnb 0 then pickType t w max r0 old else r0
      let win (i : Nat) : Bool := let x := s.rawA h g v i; if nan then f.isNan x else x == r && (isInt t || !f.isNan x)
      (s.setTags h g els tw win).reduced id h v.dReg false (extendType t w r) 0

/-- VRMIN (R154): Minimum reduction, marking the winners in tw. -/
def execVrmin (v : VForm) (s : State) : Host.Outcome State Fault Refusal :=
  run (.vrmin v) (fun s id h g _ => s.extreme id h g v false) s

/-- VRMAX (R154): Maximum reduction, marking the winners in tw. -/
def execVrmax (v : VForm) (s : State) : Host.Outcome State Fault Refusal :=
  run (.vrmax v) (fun s id h g _ => s.extreme id h g v true) s

/-! ## Scan -/

/-- VSCAN's running sums (R156): the value each active element writes. -/
def scanRun (excl seg : Bool) (val : Nat → Int) (ts : Nat → Bool) : Int → List Nat → List (Nat × Int)
  | _, [] => []
  | run, i :: t =>
    let run := if seg && ts i then 0 else run
    let next := run + val i
    (i, if excl then run else next) :: scanRun excl seg val ts next t

/-- VSCAN (R156): Running sum, optionally exclusive or segmented. No poison stops it (R150). -/
def execVscan (v : VForm) (s : State) : Host.Outcome State Fault Refusal :=
  run (.vscan v) (fun s id h g lim => 
    s.reduceOn h g v false fun els =>
      let wd := Fld.width v.D
      let act := actOf h lim els
      if s.elsReserved h g act (Fld.words v.D) then .wait s
      else
        let ts (i : Nat) : Bool := (s.rawRow (s.elemKey g h.slot i)).tag (v.x.extractLsb' 0 3)
        let sums := scanRun (v.fnb 0) (v.fnb 1) (fun i => ival v.ty (Fld.width v.A) (s.readA h g v i)) ts 0 els
        let put (s : State) (p : Nat × Int) : State :=
          if act.contains p.1 then s.writeRow (s.elemKey g h.slot p.1) (Fld.start v.D) wd (wrap wd p.2) else s
        .done ((sums.foldl put (s.noteRead h g els (Fld.words v.A) false)).putHart id (h.setEmpty els.isEmpty))) s

/-! ## Top-k (R157) -/

/-- Rank of a key: NaNs last and equal, the others from largest or smallest; lower is better. -/
def rankKey (t w : Nat) (min : Bool) (x : Nat) : Bool × Int :=
  if isInt t then (false, if min then ival t w x else -(ival t w x))
  else
    let f := fmtOf t
    if f.isNan x then (true, 0) else (false, if min then f.key x else -(f.key x))

/-- Whether rank a comes strictly before rank b. -/
def rankBefore (a b : Bool × Int) : Bool := if a.1 = b.1 then a.2 < b.2 else b.1

/-- Insert an element before the first one of a strictly worse rank: equal ranks stay in index order. -/
def rankInsert (r : Nat → Bool × Int) (i : Nat) : List Nat → List Nat
  | [] => [i]
  | j :: t => if rankBefore (r i) (r j) then i :: j :: t else j :: rankInsert r i t

/-- Elements in rank order. -/
def rankSort (r : Nat → Bool × Int) (els : List Nat) : List Nat := els.foldl (fun l i => rankInsert r i l) []

/-- VTOPK (R157): Selects the k best keys into td, with the boundary set in tc. -/
def execVtopk (v : VForm) (s : State) : Host.Outcome State Fault Refusal :=
  run (.vtopk v) (fun s id h g _ => 
    s.reduceOn h g v true fun els =>
      let r (i : Nat) := rankKey v.ty (Fld.width v.A) (v.fnb 0) (s.rawA h g v i)
      let l := rankSort r els
      let n := min (h.reg v.bReg).toNat l.length
      let best := l.take n
      let edge := if 1 ≤ n && n < l.length then best.getLast?.map r else none
      let s1 := s.setTags h g els (v.D.extractLsb' 6 3) fun i => best.contains i
      let s2 := s1.setTags h g els (v.D.extractLsb' 9 3) fun i => edge == some (r i)
      s2.reduced id h v.dReg els.isEmpty n 0) s

/-! ## Similarity -/

/-- VSIMH (R158): Hamming similarity or distance to a broadcast query. -/
def execVsimh (v : VForm) (s : State) : Host.Outcome State Fault Refusal :=
  run (.vsimh v) (fun s id h g lim => 
    let n := Fld.width v.A
    let q := (h.reg v.bReg).toNat % 2 ^ n
    s.arith1 id h g lim v fun a =>
      let diff := popCount n (Nat.xor a q)
      ((if v.fnb 0 then diff else n - diff) % 2 ^ Fld.width v.D, 0)) s

/-- The dot product of packed sub-elements (R159). -/
def packedDot (t e n a q : Nat) : Int :=
  ((List.range (n / e)).map fun l =>
    ival t e (bits a (e * l + e - 1) (e * l)) * ival t e (bits q (e * l + e - 1) (e * l))).sum

/-- VSIMD (R159): Packed dot product with a broadcast query. -/
def execVsimd (v : VForm) (s : State) : Host.Outcome State Fault Refusal :=
  run (.vsimd v) (fun s id h g lim => 
    s.arith1 id h g lim v fun a =>
      (wrap (Fld.width v.D) (packedDot v.ty (2 ^ v.bm) (Fld.width v.A) a (h.reg v.bReg).toNat), 0)) s

end Sys2Proof.Machine
end

