-- ==== Sys2Proof/Machine/Sfu.lean ====
section
/-! DEFINITION. The special functions (R177 to R179). Each is computed in fixed point with 320 fraction bits, far beyond
what separates any operand's exact result from a rounding boundary; a result that is not exact carries a last sticky bit.
16-bit formats round it RNE; FP32 takes one of its two neighbours, which one being open (log 20). -/

namespace Sys2Proof.Machine

open Sys2Proof

namespace Sfu

/-- One in fixed point. -/
def one : Nat := 2 ^ 320

/-- An inexact positive value x / 2^320. -/
def between (neg : Bool) (x : Nat) : FVal := .fin neg (2 * x + 1) (-321)

/-- A value just below m * 2^e. -/
def below (neg : Bool) (m : Nat) (e : Int) : FVal := .fin neg (m * 2 ^ 128 - 1) (e - 128)

/-- Σ z^(2k+1)/(2k+1), with alternating signs for arctan (`alt`) or without for artanh, of z = 1/n, scaled by s. -/
def arc (alt : Bool) (s n : Nat) (terms : Nat) : Int :=
  ((List.range terms).foldl (fun (acc : Int × Nat) k =>
    let t : Int := (acc.2 / (2 * k + 1) : Nat)
    (if alt && k % 2 = 1 then acc.1 - t else acc.1 + t, acc.2 / (n * n))) (0, s / n)).1

/-- π scaled by 2^640 (Machin's formula). -/
def pi : Nat := (16 * arc true (2 ^ 640) 5 150 - 4 * arc true (2 ^ 640) 239 50).toNat

/-- ln 2 scaled by 2^320. -/
def ln2 : Nat := (2 * arc false (2 ^ 320) 3 110).toNat

/-- e^y for 0 ≤ y < 1, in fixed point. -/
def exp (y : Nat) : Nat :=
  ((List.range 80).foldl (fun (acc : Nat × Nat) k => (acc.1 + acc.2, acc.2 * y / one / (k + 1))) (0, one)).1

/-- e^y = 2^k * r for y ≥ 0 in fixed point: k, and r with 1 ≤ r < 2. -/
def expWide (y : Nat) : Nat × Nat := (y / ln2, exp (y % ln2))

/-- e^(-y) for y ≥ 0 in fixed point. -/
def expNeg (y : Nat) : Nat :=
  let e := expWide y
  one * one / e.2 / 2 ^ e.1

/-- m * 2^e in fixed point, rounded down. -/
def fix (m : Nat) (e : Int) : Nat :=
  if 0 ≤ e + 320 then m * 2 ^ (e + 320).toNat else m / 2 ^ (-(e + 320)).toNat

/-- The exponent of the leading bit of m * 2^e. -/
def lead (m : Nat) (e : Int) : Int := m.log2 + e

/-- ln of a value with 1 ≤ r < 2 in fixed point. -/
def ln (r : Nat) : Nat :=
  let z := (r - one) * one / (r + one)
  let z2 := z * z / one
  2 * ((List.range 110).foldl (fun (acc : Nat × Nat) k => (acc.1 + acc.2 / (2 * k + 1), acc.2 * z2 / one)) (0, z)).1

/-- sin r and cos r for 0 ≤ r < 2 in fixed point. -/
def sinFix (r : Nat) : Int :=
  ((List.range 50).foldl (fun (acc : Int × Int) k =>
    (acc.1 + acc.2, -(acc.2 * (r : Int) / one * r / one / ((2 * k + 2) * (2 * k + 3) : Nat)))) (0, (r : Int))).1
def cosFix (r : Nat) : Int :=
  ((List.range 50).foldl (fun (acc : Int × Int) k =>
    (acc.1 + acc.2, -(acc.2 * (r : Int) / one * r / one / ((2 * k + 1) * (2 * k + 2) : Nat)))) (0, (one : Int))).1

/-- |x| = jπ/2 + r: j mod 4 and r in fixed point (R179). -/
def reduce (m : Nat) (e : Int) : Nat × Nat :=
  let x := if 0 ≤ e + 640 then m * 2 ^ (e + 640).toNat else 0
  let half := pi / 2
  (x / half % 4, x % half / 2 ^ 320)

/-- An inexact value with a sign from a signed fixed-point number. -/
def signedFix (flip : Bool) (x : Int) : FVal := between (flip != decide (x < 0)) x.natAbs

/-- 1/x. -/
def rcp : FVal → FVal × BitVec 6
  | .fin n m e => if m = 0 then (.inf n, fDZ) else (FVal.fin false 1 0).div (.fin n m e)
  | .inf n => (.fin n 0 0, 0)
  | .nan => (.nan, 0)

/-- 1/√x: the square root of 1/x, exact for an even power of two. -/
def rsq : FVal → FVal × BitVec 6
  | .fin n m e =>
    if m = 0 then (.inf n, fDZ)
    else if n then (.nan, fNV)
    else
      let odd := e % 2 ≠ 0
      let d := if odd then 2 * m else m
      let h := (if odd then e - 1 else e) / 2
      let r := isqrt (2 ^ 120 / d)
      (.fin false (2 * r + if r * r * d = 2 ^ 120 then 0 else 1) (-h - 61), 0)
  | .inf n => if n then (.nan, fNV) else (.fin false 0 0, 0)
  | .nan => (.nan, 0)

/-- 2^x. -/
def exp2 : FVal → FVal × BitVec 6
  | .fin n m e =>
    if m = 0 then (.fin false 1 0, 0)
    else if 12 ≤ lead m e then (.fin false 1 (if n then -4096 else 4096), 0)
    else
      let f := fix m e
      let k := f / one
      let r := f % one
      if r = 0 then (.fin false 1 (if n then -k else k), 0)
      else if n then (.fin false (2 * exp ((one - r) * ln2 / one) + 1) (-321 - k - 1), 0)
      else (.fin false (2 * exp (r * ln2 / one) + 1) (-321 + k), 0)
  | .inf n => if n then (.fin false 0 0, 0) else (.inf false, 0)
  | .nan => (.nan, 0)

/-- log2 x. -/
def log2 : FVal → FVal × BitVec 6
  | .fin n m e =>
    if m = 0 then (.inf true, fDZ)
    else if n then (.nan, fNV)
    else
      let k := lead m e
      if m = 2 ^ m.log2 then (FVal.ofInt k, 0)
      else
        let l := ln (m * one / 2 ^ m.log2) * one / ln2
        (signedFix false (k * one + l), 0)
  | .inf n => if n then (.nan, fNV) else (.inf false, 0)
  | .nan => (.nan, 0)

/-- sin x. -/
def sin : FVal → FVal × BitVec 6
  | .fin n m e =>
    if m = 0 then (.fin n 0 0, 0)
    else if lead m e < -40 then (below n m e, 0)
    else
      let r := reduce m e
      let y := if r.1 % 2 = 0 then sinFix r.2 else cosFix r.2
      (signedFix (n != decide (2 ≤ r.1)) y, 0)
  | .inf _ => (.nan, fNV)
  | .nan => (.nan, 0)

/-- cos x. -/
def cos : FVal → FVal × BitVec 6
  | .fin _ m e =>
    if m = 0 then (.fin false 1 0, 0)
    else if lead m e < -40 then (below false 1 0, 0)
    else
      let r := reduce m e
      let y := if r.1 % 2 = 0 then cosFix r.2 else sinFix r.2
      (signedFix (r.1 == 1 || r.1 == 2) y, 0)
  | .inf _ => (.nan, fNV)
  | .nan => (.nan, 0)

/-- tanh x. -/
def tanh : FVal → FVal × BitVec 6
  | .fin n m e =>
    if m = 0 then (.fin n 0 0, 0)
    else if lead m e < -40 then (below n m e, 0)
    else if 6 ≤ lead m e then (below n 1 0, 0)
    else
      let t := expNeg (2 * fix m e)
      (between n ((one - t) * one / (one + t)), 0)
  | .inf n => (.fin n 1 0, 0)
  | .nan => (.nan, 0)

/-- 1/(1 + e^(-x)). -/
def sig : FVal → FVal × BitVec 6
  | .fin n m e =>
    if m = 0 then (.fin false 1 (-1), 0)
    else if 9 ≤ lead m e then (if n then .fin false 1 (-600) else below false 1 0, 0)
    else
      let w := expWide (fix m e)
      let d := w.2 * 2 ^ w.1 + one
      if n then (.fin false (2 * (one * 2 ^ 800 / d) + 1) (-801), 0) else (between false ((d - one) * one / d), 0)
  | .inf n => (if n then .fin false 0 0 else .fin false 1 0, 0)
  | .nan => (.nan, 0)

/-- 2/√π in fixed point. -/
def twoOverSqrtPi : Nat :=
  let r := (List.range 330).foldl (fun r i => let c := r + 2 ^ (329 - i); if c * c ≤ pi then c else r) 0
  2 * one * one / r

/-- erf x for 0 ≤ x < 4 in fixed point: 2/√π e^(-x²) Σ 2^n x^(2n+1) / (2n+1)!!. -/
def erfFix (x : Nat) : Nat :=
  let x2 := x * x / one
  let sum := ((List.range 250).foldl (fun (acc : Nat × Nat) k =>
    (acc.1 + acc.2, acc.2 * 2 * x2 / one / (2 * k + 3))) (0, x)).1
  twoOverSqrtPi * (sum * expNeg x2 / one) / one

/-- erf x; from |x| = 4 on it lies within 2^-25 of 1, where no rounding tells its values apart. -/
def erf : FVal → FVal × BitVec 6
  | .fin n m e =>
    if m = 0 then (.fin n 0 0, 0)
    else if lead m e < -40 then (.fin n (2 * (m * twoOverSqrtPi) + 1) (e - 321), 0)
    else if 2 ≤ lead m e then (below n 1 0, 0)
    else (between n (erfFix (fix m e)), 0)
  | .inf n => (.fin n 1 0, 0)
  | .nan => (.nan, 0)

/-- The function of a code: 0 FRCP, 1 FRSQ, 2 FEXP2, 3 FLOG2, 4 FSIN, 5 FCOS, 6 FTANH, 7 FSIG, 8 FERF. -/
def eval (code : Nat) (x : FVal) : FVal × BitVec 6 :=
  match code with
  | 0 => rcp x
  | 1 => rsq x
  | 2 => exp2 x
  | 3 => log2 x
  | 4 => sin x
  | 5 => cos x
  | 6 => tanh x
  | 7 => sig x
  | _ => erf x

/-- The rounding of a result: RNE for 16-bit formats and for a magnitude beyond FP32; otherwise the neighbour the
evaluator delivers (DESIGN CHOICE, log 20). -/
def mode (t code x : Nat) : FVal → Nat
  | .fin _ m e => if t ≠ 2 || 128 ≤ lead m e then 0 else if Config.sfuUpper code (BitVec.ofNat 32 x) then 3 else 2
  | _ => 0

/-- Beyond the bound of the fast forms (R179). -/
def tooFar (x : Nat) : Bool := 0x45490FDA < x % 2 ^ 31

/-- A special function on a pattern of format t (R177 to R179) (DEDUCED, log 32). -/
def run (t code : Nat) (fz fast : Bool) (x : Nat) : Nat × BitVec 6 :=
  let f := fmtOf t
  if fast && tooFar x && !f.isNan x then (f.nan, fNV)
  else
    let r := eval code (f.input fz x)
    f.result (mode t code x r.1) fz r

end Sfu

end Sys2Proof.Machine
end

