-- ==== Sys2Proof/Machine/Elem.lean ====
section
/-! DEFINITION. The element pipe and the special-function pipe, op8 0x60 to 0x77 of the V form (R163 to R182). -/

namespace Sys2Proof.Machine

open Sys2Proof

/-- b of R173. -/
def pipeB (v : VForm) (h : Hart) (r : Row) : Nat :=
  if v.x.getLsbD 0 then (h.reg v.bReg).toNat % 2 ^ Fld.width v.A else r.fld v.B

/-- A row-mode elementwise instruction that reads the words `ws` and writes D (R169, R170). -/
def State.pipe (s : State) (id : Nat) (h : Hart) (g : Gang) (lim : Nat) (v : VForm) (ws : List Nat)
    (f : Row → Nat × BitVec 6) : Res :=
  s.rowMode id h g lim v.m ws (Fld.words v.D) fun _ r =>
    let x := f r
    Eff.field v.D x.1 x.2

/-- A rounded operation on the input values of a and b (R171). -/
def State.pipe2 (s : State) (id : Nat) (h : Hart) (g : Gang) (lim : Nat) (v : VForm)
    (f : Nat → FVal → FVal → FVal × BitVec 6) : Res :=
  let t := fmtOf v.ty
  let rm := rmOf v.fn h.rm
  s.pipe id h g lim v (sourceWords v.fieldsPipe) fun r =>
    t.result rm h.fz (f rm (t.input h.fz (r.fld v.A)) (t.input h.fz (pipeB v h r)))

/-- FFMA and FFMS: `flip` negates c (R173). -/
def State.fused (s : State) (id : Nat) (h : Hart) (g : Gang) (lim : Nat) (v : VForm) (flip : FVal → FVal) : Res :=
  let t := fmtOf v.ty
  let rm := rmOf v.fn h.rm
  s.pipe id h g lim v (Fld.words v.A ++ Fld.words v.B ++ Fld.words v.fC) fun r =>
    t.result rm h.fz ((t.input h.fz (r.fld v.A)).fma rm (t.input h.fz (r.fld v.B)) (flip (t.input h.fz (r.fld v.fC))))

/-- A special function (R177 to R179). -/
def State.special (s : State) (id : Nat) (h : Hart) (g : Gang) (lim : Nat) (v : VForm) (code : Nat) (fast : Bool) : Res :=
  s.pipe id h g lim v (Fld.words v.A) fun r => Sfu.run v.ty code h.fz fast (r.fld v.A)

/-- FADD (R173): Element-pipe floating add. -/
def execFadd (v : VForm) (s : State) : Host.Outcome State Fault Refusal :=
  run (.fadd v) (fun s id h g lim => s.pipe2 id h g lim v FVal.add) s

/-- FSUB (R173): Element-pipe floating subtract. -/
def execFsub (v : VForm) (s : State) : Host.Outcome State Fault Refusal :=
  run (.fsub v) (fun s id h g lim => s.pipe2 id h g lim v fun rm a b => a.add rm b.neg) s

/-- FMUL (R173): Element-pipe floating multiply. -/
def execFmul (v : VForm) (s : State) : Host.Outcome State Fault Refusal :=
  run (.fmul v) (fun s id h g lim => s.pipe2 id h g lim v fun _ => FVal.mul) s

/-- FFMA (R173): Fused multiply-add. -/
def execFfma (v : VForm) (s : State) : Host.Outcome State Fault Refusal :=
  run (.ffma v) (fun s id h g lim => s.fused id h g lim v (fun c => c)) s

/-- FFMS (R173): Fused multiply-subtract. -/
def execFfms (v : VForm) (s : State) : Host.Outcome State Fault Refusal :=
  run (.ffms v) (fun s id h g lim => s.fused id h g lim v FVal.neg) s

/-- FMIN (R173): Floating minimum. -/
def execFmin (v : VForm) (s : State) : Host.Outcome State Fault Refusal :=
  run (.fmin v) (fun s id h g lim => s.pipe id h g lim v (sourceWords v.fieldsPipe) fun r => (pickType v.ty (Fld.width v.A) false (r.fld v.A) (pipeB v h r), 0)) s

/-- FMAX (R173): Floating maximum. -/
def execFmax (v : VForm) (s : State) : Host.Outcome State Fault Refusal :=
  run (.fmax v) (fun s id h g lim => s.pipe id h g lim v (sourceWords v.fieldsPipe) fun r => (pickType v.ty (Fld.width v.A) true (r.fld v.A) (pipeB v h r), 0)) s

/-- FABS (R173): Floating absolute value. -/
def execFabs (v : VForm) (s : State) : Host.Outcome State Fault Refusal :=
  run (.fabs v) (fun s id h g lim => s.pipe id h g lim v (Fld.words v.A) fun r => signOp (fmtOf v.ty) (fun _ => false) (r.fld v.A)) s

/-- FNEG (R173): Floating negate. -/
def execFneg (v : VForm) (s : State) : Host.Outcome State Fault Refusal :=
  run (.fneg v) (fun s id h g lim => s.pipe id h g lim v (Fld.words v.A) fun r => signOp (fmtOf v.ty) not (r.fld v.A)) s

/-- FCMP (R174): Floating compare, writing a tag. -/
def execFcmp (v : VForm) (s : State) : Host.Outcome State Fault Refusal :=
  run (.fcmp v) (fun s id h g lim => 
    s.rowMode id h g lim v.m (sourceWords v.fieldsPipe) [] fun _ r =>
      { tag := some (v.dTag, condType v.ty (Fld.width v.A) v.cc (r.fld v.A) (pipeB v h r)) }) s

/-- FCVT (R176): Element-pipe conversion. -/
def execFcvt (v : VForm) (s : State) : Host.Outcome State Fault Refusal :=
  run (.fcvt v) (fun s id h g lim => 
    s.pipe id h g lim v (Fld.words v.A) fun r =>
      convertBits v.ty (Fld.width v.D) (cvtSt v) (Fld.width v.A) (rmOf v.fn h.rm) h.fz (cvtSat v) (r.fld v.A)) s

/-- FDIV (R173): Floating divide. -/
def execFdiv (v : VForm) (s : State) : Host.Outcome State Fault Refusal :=
  run (.fdiv v) (fun s id h g lim => s.pipe2 id h g lim v fun _ => FVal.div) s

/-- FSQRT (R173): Floating square root. -/
def execFsqrt (v : VForm) (s : State) : Host.Outcome State Fault Refusal :=
  run (.fsqrt v) (fun s id h g lim => 
    let t := fmtOf v.ty
    s.pipe id h g lim v (Fld.words v.A) fun r => t.result (rmOf v.fn h.rm) h.fz (t.input h.fz (r.fld v.A)).sqrt) s

/-- FRCP (R178): Reciprocal. -/
def execFrcp (v : VForm) (s : State) : Host.Outcome State Fault Refusal :=
  run (.frcp v) (fun s id h g lim => s.special id h g lim v 0 false) s

/-- FRSQ (R178): Reciprocal square root. -/
def execFrsq (v : VForm) (s : State) : Host.Outcome State Fault Refusal :=
  run (.frsq v) (fun s id h g lim => s.special id h g lim v 1 false) s

/-- FEXP2 (R178): Power of 2. -/
def execFexp2 (v : VForm) (s : State) : Host.Outcome State Fault Refusal :=
  run (.fexp2 v) (fun s id h g lim => s.special id h g lim v 2 false) s

/-- FLOG2 (R178): Logarithm base 2. -/
def execFlog2 (v : VForm) (s : State) : Host.Outcome State Fault Refusal :=
  run (.flog2 v) (fun s id h g lim => s.special id h g lim v 3 false) s

/-- FSIN (R179): Sine, full or fast form. -/
def execFsin (v : VForm) (s : State) : Host.Outcome State Fault Refusal :=
  run (.fsin v) (fun s id h g lim => s.special id h g lim v 4 (v.fnb 0)) s

/-- FCOS (R179): Cosine, full or fast form. -/
def execFcos (v : VForm) (s : State) : Host.Outcome State Fault Refusal :=
  run (.fcos v) (fun s id h g lim => s.special id h g lim v 5 (v.fnb 0)) s

/-- FTANH (R178): Hyperbolic tangent. -/
def execFtanh (v : VForm) (s : State) : Host.Outcome State Fault Refusal :=
  run (.ftanh v) (fun s id h g lim => s.special id h g lim v 6 false) s

/-- FSIG (R178): Sigmoid. -/
def execFsig (v : VForm) (s : State) : Host.Outcome State Fault Refusal :=
  run (.fsig v) (fun s id h g lim => s.special id h g lim v 7 false) s

/-- FERF (R178): Error function. -/
def execFerf (v : VForm) (s : State) : Host.Outcome State Fault Refusal :=
  run (.ferf v) (fun s id h g lim => s.special id h g lim v 8 false) s

/-! ## Reductions (R180, R181) -/

/-- Run a reduction of the pipe: it reads the element groups in ascending order as they become full (R24), stops with
nothing changed at the lowest poisoned element (R170), and ends with the values of all active elements. -/
def State.pipeReduce (s : State) (id : Nat) (h : Hart) (g : Gang) (v : VForm)
    (body : State → List Nat → (Nat → Nat) → Res) : Res :=
  let els := s.activeEls h g v.m
  let ws := Fld.words v.A
  let todo := els.filter fun i => h.done ≤ i
  let held := firstGroup (fun i => s.elsFull h g [i] ws) todo
  let now := todo.filter fun i => match held with | some n => i < n | none => true
  let s' := s.noteEls h g now ws
  let read := (now.map fun i => (i, s.rowA h g v i)) ++ h.taken
  match s.poisonEl h g now ws, held with
  | some e, _ => .stop s' .poison (BitVec.ofNat 64 e) (some e)
  | none, none => body s' els fun i => ((read.find? fun x => x.1 == i).map Prod.snd).getD 0
  | none, some n =>
    if now.isEmpty then .wait s
    else .wait { (s'.putHart id { h with done := n, taken := read }) with asleep := [] }

/-- An element of FRSUM widened to FP32 (R180). -/
def widen (h : Hart) (t x : Nat) : Nat := ((fmtOf 2).deliver 0 false false ((fmtOf t).input h.fz x)).1

/-- FRSUM (R180): FP32 sum reduction into sd. With no active element it gives sd[31:0] as it stands under .acc, a NaN that
is not canonical included (DESIGN CHOICE, log 61). -/
def execFrsum (v : VForm) (s : State) : Host.Outcome State Fault Refusal :=
  run (.frsum v) (fun s id h g _ => 
    s.pipeReduce id h g v fun s els a =>
      let val (i : Nat) : Option Nat := if els.contains i then some (widen h v.ty (a i)) else none
      let r := reduceFloat h g (add32 h h.fz) val h.vl (if v.fnb 0 then some ((h.reg v.dReg).toNat % 2 ^ 32) else none)
      s.reduced id h v.dReg els.isEmpty (r.val.getD 0) r.flags) s

/-- FRMAX (R181): Floating maximum reduction into sd. A NaN in sd under .acc gives the canonical NaN also when no element
is active, where the second bullet of R181 reads sd itself (DEDUCED, log 53). -/
def execFrmax (v : VForm) (s : State) : Host.Outcome State Fault Refusal :=
  run (.frmax v) (fun s id h g _ => 
    s.pipeReduce id h g v fun s els a =>
      let wa := Fld.width v.A
      let xs := els.map a
      let old := (h.reg v.dReg).toNat % 2 ^ wa
      let start := if v.fnb 0 then (if (fmtOf v.ty).isNan old then (fmtOf v.ty).nan else old) else reduceIdentity v.ty wa true
      let r := if xs.isEmpty then start else pickAll v.ty wa true start xs
      s.reduced id h v.dReg els.isEmpty r 0) s

end Sys2Proof.Machine
end

