-- ==== Sys2Proof/Machine/Exchange.lean ====
section
/-! DEFINITION. Exchange instructions, GANG and VGRANT, op8 0x80 to 0x86 of the S form (R183 to R190). -/

namespace Sys2Proof.Machine

open Sys2Proof

/-- Every element below VL (R185). -/
def allEls (h : Hart) (g : Gang) : List Nat := List.range (min h.vl (h.vlmax g))

/-- Write D of every active element from a source element or a fill (R186): every source is read before any write, and
poison stops at the lowest element it feeds (R187). -/
def State.exchange (s : State) (h : Hart) (g : Gang) (o : SForm) (src : Nat → Option Nat) (fill : Nat) : Res :=
  let els := s.activeEls h g o.xmask
  let ws := Fld.words o.xA
  if !s.elsFull h g (allEls h g) ws || s.elsReserved h g els (Fld.words o.fld) then .wait s
  else
    let bad := els.find? fun i =>
      match src i with
      | some j => (s.poisonEl h g [j] ws).isSome
      | none => false
    let put (t : State) (i : Nat) : State :=
      let x := match src i with | some j => (s.rowAt (s.elemKey g h.slot j)).fld o.xA | none => fill
      t.writeRow (s.elemKey g h.slot i) (Fld.start o.fld) (Fld.width o.fld) x
    let todo := match bad with | some e => els.filter fun i => i < e | none => els
    let s' := (todo.foldl put s).noteEls h g ((todo ++ bad.toList).filterMap src) ws
    match bad with
    | some e => .stop s' .poison (BitVec.ofNat 64 e) (some e)
    | none => .done s'

/-- An element below VL, or none. -/
def below (h : Hart) (j : Nat) : Option Nat := if j < h.vl then some j else none

/-- GANG (R184): Reports the gang's shape and the hart's slot. -/
def execGang (o : SForm) (s : State) : Host.Outcome State Fault Refusal :=
  run (.gang o) (fun s id h g _ => 
    let v := h.gangid * 2 ^ 14 + g.na * 2 ^ 8 + g.g * 2 ^ 5 + g.h * 2 ^ 2 + h.slot
    .hart s id (h.setReg o.d (BitVec.ofNat 64 v))) s

/-- VBCAST (R186): Broadcasts element n of A to D. -/
def execVbcast (o : SForm) (s : State) : Host.Outcome State Fault Refusal :=
  run (.vbcast o) (fun s _ h g _ => s.exchange h g o (fun _ => below h (h.reg o.a).toNat) 0) s

/-- VEXT (R186): Extracts element n of A to sd. -/
def execVext (o : SForm) (s : State) : Host.Outcome State Fault Refusal :=
  run (.vext o) (fun s id h g _ => 
    let n := (h.reg o.a).toNat
    let f := o.xA
    if !s.elsFull h g (allEls h g) (Fld.words f) then .wait s
    else if h.vl ≤ n then .hart s id (h.later o.d 0)
    else if (s.poisonEl h g [n] (Fld.words f)).isSome then .hart (s.noteEls h g [n] (Fld.words f)) id (h.laterPoison o.d (BitVec.ofNat 64 n))
    else
      let x := (s.rowAt (s.elemKey g h.slot n)).fld f
      .hart (s.noteEls h g [n] (Fld.words f)) id (h.later o.d (if o.eb 30 then word64 (sextNat (Fld.width f) x) else BitVec.ofNat 64 x))) s

/-- VINS (R186): Inserts sv into element n of D. -/
def execVins (o : SForm) (s : State) : Host.Outcome State Fault Refusal :=
  run (.vins o) (fun s _ h g lim => 
    let n := (h.reg o.a).toNat
    if n < h.vl && h.vstart ≤ n && n < lim then
      if s.elsReserved h g [n] (Fld.words o.fld) then .wait s
      else .done (s.writeRow (s.elemKey g h.slot n) (Fld.start o.fld) (Fld.width o.fld) (h.reg o.d).toNat)
    else .done s) s

/-- VSLIDE (R186): Slides elements up or down with a fill value. -/
def execVslide (o : SForm) (s : State) : Host.Outcome State Fault Refusal :=
  run (.vslide o) (fun s _ h g _ => 
    let n := (h.reg o.a).toNat
    let src (i : Nat) : Option Nat := if o.sz = 0 then (if n ≤ i then some (i - n) else none) else below h (i + n)
    s.exchange h g o src (h.reg o.d).toNat) s

/-- VPERMR (R186): Permutes elements by XOR or rotation. -/
def execVpermr (o : SForm) (s : State) : Host.Outcome State Fault Refusal :=
  run (.vpermr o) (fun s _ h g _ => 
    let n := (h.reg o.a).toNat
    s.exchange h g o (fun i => if o.sz = 0 then below h (Nat.xor i n) else below h ((i + n) % h.vl)) 0) s

/-- Whether a hart has come to a vector instruction some of whose elements wait for their answers (R246, R259). -/
def State.elementsOut (s : State) (id : Nat) (h : Hart) : Bool :=
  (match h.current with | some i => isVector i | none => false) && s.remotes.any fun r => r.hart == id && r.dest.isNone

/-- Whether a hart of a gang has a vector instruction in progress: a load still to land, elements still unanswered, work
begun on some of its elements, or an instruction queued at a matrix engine (R189). -/
def State.gangBusy (s : State) (k : Nat) : Bool :=
  s.harts.any fun e => e.2.gang == k &&
    (!e.2.vfills.isEmpty || e.2.sent.isSome || e.2.done != 0 || s.elementsOut e.1 e.2 ||
      s.cores.any fun c => c.2.mqueue.any fun m => m.hart == e.1)

/-- Every hart of a gang with a new row grant. -/
def State.grantRows (s : State) (k r : Nat) : State :=
  { s with harts := s.harts.map fun (e : Nat × Hart) => (e.1, if e.2.gang = k then { e.2 with rows := r } else e.2) }

/-- VGRANT (R189): Narrows or widens the gang's row grant. -/
def execVgrant (o : SForm) (s : State) : Host.Outcome State Fault Refusal :=
  run (.vgrant o) (fun s id h g _ => 
    if s.gangBusy h.gang then .wait s
    else
      let r := min (max (h.reg o.a).toNat 1) (1024 / g.h)
      .done ((s.putHart id (h.setReg o.d (BitVec.ofNat 64 (g.g * g.na * r)))).grantRows h.gang r)) s

end Sys2Proof.Machine
end

