-- ==== Sys2Proof/Machine/Matrix.lean ====
section
/-! DEFINITION. The matrix engines (R191 to R218): entry into a queue with what is sampled there (R206), the start and
the commit of the head of a queue, the products (R195 to R201), and the support instructions (R209 to R215). -/

namespace Sys2Proof.Machine

open Sys2Proof

/-! ## Tiles, reports and queues -/

/-- The tile that name t of engine e is for a slot (R192). -/
def tileOf (g : Gang) (slot t e : Nat) : Nat := tileKey (g.first + e) (slot * (16 / g.h) + t)

/-- The tile and engine an instruction names. -/
def tileName : Instr → Option (Nat × Nat)
  | .mma v => some (v.mT, v.mE)
  | .mmas v => some (v.mT, v.mE)
  | .mmau v => some (v.mT, v.mE)
  | .mlda o => some (o.mT, o.mE)
  | .msta o => some (o.mT, o.mE)
  | .mzero o => some (o.mT, o.mE)
  | .mchk o => some (o.mT, o.mE)
  | _ => none

/-- The report of a failed tile: cause and TVAL (R208). -/
def State.report (s : State) (g : Gang) (slot t e : Nat) : Option (Cause × W64) :=
  let x := s.tileAt (tileOf g slot t e)
  if x.failed || x.poisoned then
    some (if x.failed then .matrixErr else .poison, BitVec.ofNat 64 (t + 16 * e + 256 * min x.discarded 255))
  else none

/-- Clear a tile's failure mark; the counts stay (R208). -/
def State.clearMark (s : State) (g : Gang) (slot t e : Nat) : State :=
  let k := tileOf g slot t e
  s.putTile k { s.tileAt k with failed := false, poisoned := false }

/-- Instructions that trap at issue while their tile is marked failed (R208). -/
def reportsTile : Instr → Bool
  | .mma _ => true
  | .mmas _ => true
  | .mmau _ => true
  | .mlda _ => true
  | .msta _ => true
  | .mzero _ => true
  | _ => false

/-- Whether the hart has an instruction in core p's queue, on one tile or on any. -/
def State.queuedOn (s : State) (id p : Nat) (t : Option Nat) : Bool :=
  (s.coreAt p).mqueue.any fun m => m.hart == id &&
    match t with | some n => (tileName m.instr).map Prod.fst == some n | none => true

/-- Under MODE.DET, the bytes of local-store rows that the hart's buffered stores have written: an engine reads them as
written though their turn has not come (R205, R248) (DEDUCED, log 19). -/
def State.bufRows (s : State) (h : Hart) : List (Nat × Nat × Byte) :=
  h.buf.filterMap fun x =>
    match s.home x.1 with
    | .ls p off => some (s.lsRow p (off / 64), 8 * (off % 64), x.2)
    | _ => none

/-- Enter the queue of engine e, a release at device scope (R244), unless the tile has a report or the queue of eight is
full (R191, R208) (DEDUCED, log 19). Under MODE.DET it waits for no store of the pusher's commit buffer: matrix
instructions are not among the synchronising ones of R248 (DESIGN CHOICE, log 63). -/
def State.enqueue (s : State) (id : Nat) (h : Hart) (g : Gang) (i : Instr) (t e : Nat) (regs : List Nat)
    (tags : List Bool) : Res :=
  match s.report g h.slot t e with
  | some r => .stop (s.clearMark g h.slot t e) r.1 r.2 none
  | none =>
    let p := g.first + e
    let c := s.coreAt p
    if 8 ≤ c.mqueue.length then .wait s
    else if !s.settledFor id h 3 then .busy s
    else
      let m : MEntry := ⟨id, p, i, regs, h.frm, h.fz, h.adesc, tags, false, false, s.bufRows h⟩
      .done (s.putCore p { c with mqueue := c.mqueue ++ [m] })

/-- The mask's bits at n row indices from q, sampled at entry (R196, R206). -/
def State.sampleTags (s : State) (h : Hart) (g : Gang) (v : VForm) (q n : Nat) : List Bool :=
  if v.m.en then (List.range n).map fun j => s.maskAt v.m (s.indexKey g h.slot v.mE (q + j)) else []

/-- The mask target (R202). -/
def maskTarget (v : VForm) : Nat := bits v.fn4.toNat 2 1

/-- Issue a product (R196 to R206); `qa` is the row index its first mask bit belongs to under target 0. -/
def State.product (s : State) (id : Nat) (h : Hart) (g : Gang) (i : Instr) (qa : Nat) : Res :=
  match productEntry id h g i with
  | none => .wait s
  | some (v, e) =>
    let tags :=
      match maskTarget v with
      | 0 => s.sampleTags h g v qa 64
      | 1 => s.sampleTags h g v e.qb 64
      | _ => s.sampleTags h g v e.qb e.depth
    s.enqueue id h g i v.mT v.mE e.regs tags

/-! ## What a product computes -/

/-- Operand type of B: the other of E4M3 and E5M2 under .mix (R194, R202). -/
def typeB (v : VForm) : Nat := if v.fnb 0 && (v.ty = 5 || v.ty = 6) then 11 - v.ty else v.ty

/-- Slot j of a field in a row (R194). -/
def slotBits (r : Row) (f : BitVec 15) (ew j : Nat) : Nat := r.fld f / 2 ^ (j * ew) % 2 ^ ew

/-- Bytes laid over a row, those of other rows left out. -/
def Row.overlaid (r : Row) (k : Nat) : List (Nat × Nat × Byte) → Row
  | [] => r
  | x :: t => ({ r with data := if x.1 = k then putBits r.data x.2.1 8 x.2.2.toNat else r.data }).overlaid k t

/-- A row as the engine reads it for an entry (R205). -/
def State.operandRow (s : State) (e : MEntry) (k : Nat) : Row := (s.rowAt k).overlaid k e.overlay

/-- A floating or BFP operand value (R195). -/
def State.operandVal (s : State) (e : MEntry) (key : Nat → Nat) (t ew : Nat) (f : BitVec 15) (q j : Nat) : FVal :=
  let x := slotBits (s.operandRow e (key q)) f ew j
  if t = 7 then bfpValue ew x (s.operandRow e (key (32 * (q / 32)))).scale else (fmtOf t).input e.fz x

/-- acc of R197: C, and the operand pairs of the terms. -/
def accFloat (fz : Bool) (c : Nat) (terms : List (FVal × FVal)) : Nat × BitVec 6 :=
  let t := fmtOf 2
  let cv := t.input fz c
  if cv.isNan || terms.any fun p => p.1.isNan || p.2.isNan then (t.nan, 0)
  else
    let ps := terms.map fun p => (p.1.mul p.2).1
    let inf (n : Bool) : Bool := ps.any fun p => p == .inf n
    if ps.any FVal.isNan then (t.nan, fNV)
    else if (inf true && (inf false || cv == .inf false)) || (inf false && cv == .inf true) then (t.nan, fNV)
    else if inf true || inf false then (t.signed (inf true) t.infMag, 0)
    else
      match ps with
      | [] => (c, 0)
      | p :: rest => t.result 0 fz (cv.add 0 (rest.foldl (fun a b => (a.add 0 b).1) p))

/-- acc of R198. -/
def accInt (sat : Bool) (c : Nat) (terms : List (Int × Int)) : Nat × BitVec 6 :=
  putInt sat 1 32 (sextNat 32 c + (terms.map fun p => p.1 * p.2).sum)

/-- Whether term (m, k, n) is masked on (R196). -/
def MEntry.on (e : MEntry) (v : VForm) (m k n : Nat) : Bool :=
  !v.m.en || e.tags.getD (match maskTarget v with | 0 => m | 1 => n | _ => k) false

/-- One output word of a product (R196). -/
def State.productWord (s : State) (e : MEntry) (key : Nat → Nat) (v : VForm) (c m n : Nat) : Nat × BitVec 6 :=
  let p := v.perRow
  let ks := (List.range e.depth).filter fun k => e.on v m k n && (e.aRow m k).isSome
  let qa (k : Nat) : Nat := (e.aRow m k).getD 0
  let qb (k : Nat) : Nat := e.qb + 64 * (k / p) + n
  if ks.isEmpty then (c, 0)
  else if isInt v.ty then
    accInt (v.fnb 0) c (ks.map fun k =>
      (ival v.ty v.ew (slotBits (s.operandRow e (key (qa k))) v.A v.ew (k % p)),
        ival v.ty v.ew (slotBits (s.operandRow e (key (qb k))) v.B v.ew (k % p))))
  else
    accFloat e.fz c (ks.map fun k =>
      (s.operandVal e key v.ty v.ew v.A (qa k) (k % p), s.operandVal e key (typeB v) v.ew v.B (qb k) (k % p)))

/-- The words of a tile with their flags, from a function of row and column. -/
def tileFrom (f : Nat → Nat → Nat × BitVec 6) : List (BitVec 32) × BitVec 6 :=
  let all := (List.range 4096).map fun w => f (w / 64) (w % 64)
  (all.map fun x => BitVec.ofNat 32 x.1, all.foldl (fun a x => a ||| x.2) 0)

/-! ## Row types of MLDA and MSTA (R209 to R211) -/

/-- The floating type code of a row type 0 to 4. -/
def rowFloat (rt : Nat) : Nat := match rt with | 0 => 2 | 1 => 3 | 2 => 4 | 3 => 5 | _ => 6

/-- Slots per row. -/
def slotsPerRow (o : SForm) : Nat := Fld.width o.fld / rowTypeWidth o.mRT

/-- A slot widened to a tile word (R210). -/
def widenWord (rt : Nat) (fz : Bool) (x : Nat) : Nat :=
  if rt = 0 then x
  else if rt < 5 then ((fmtOf 2).deliver 0 false false ((fmtOf (rowFloat rt)).input fz x)).1
  else wrap 32 (sextNat (rowTypeWidth rt) x)

/-- A tile word converted to a slot (R211). -/
def narrowWord (rt rm : Nat) (fz sat : Bool) (x : Nat) : Nat × BitVec 6 :=
  if rt = 0 || rt = 5 then (x, 0)
  else if rt < 5 then ((fmtOf 2).input fz x).convert (rowFloat rt) (rowTypeWidth rt) rm fz sat
  else putInt sat 1 (rowTypeWidth rt) (sextNat 32 x)

/-- The row indices an MLDA or MSTA covers. -/
def coveredRows (o : SForm) (q : Nat) : List Nat := rowRun q (ceilDiv 64 (slotsPerRow o))

/-! ## Start and commit (R207, R208, R216) -/

/-- Flags of a result that commits outside the convoy: they reach FST at the next convoy boundary (R372). -/
def Hart.raiseLater (h : Hart) (f : BitVec 6) : Hart := { h with mflags := h.mflags ||| f }

/-- Mark an MSTA's words full or empty (R206). -/
def State.markStored (s : State) (key : Nat → Nat) (o : SForm) (q : Nat) (full : Bool) : State :=
  (coveredRows o q).foldl (fun s r => s.markRow (key r) (wordMask (Fld.start o.fld) (Fld.width o.fld)) full) s

/-- Store a tile into its rows (R211). -/
def State.storeTile (s : State) (key : Nat → Nat) (o : SForm) (q k : Nat) (rm : Nat) (fz : Bool) : State × BitVec 6 :=
  let p := slotsPerRow o
  let tw := rowTypeWidth o.mRT
  let r := (List.range 4096).foldl (fun (acc : State × BitVec 6) i =>
    let n := i % 64
    let x := narrowWord o.mRT rm fz (o.eb 25) (s.tileWord k i).toNat
    (acc.1.writeRow (key (q + 64 * (n / p) + i / 64)) (Fld.start o.fld + n % p * tw) tw x.1, acc.2 ||| x.2)) (s, 0)
  (r.1.markStored key o q true, r.2)

/-- Tile k takes these words and comes into use (R192). -/
def State.setTile (s : State) (k : Nat) (ws : List (BitVec 32)) : State :=
  (s.putTileWords k ws).putTile k { s.tileAt k with inUse := true }

/-- The effect of an instruction that commits (R196 to R212). -/
def State.matrixEffect (s : State) (e : MEntry) (h : Hart) (g : Gang) (k : Nat) : State × BitVec 6 :=
  let key (q : Nat) : Nat := s.indexKey g h.slot (e.core - g.first) q
  let product (v : VForm) : State × BitVec 6 :=
    let r := tileFrom fun m n => s.productWord e key v (s.tileWord k (64 * m + n)).toNat m n
    (s.setTile k r.1, r.2)
  match e.instr with
  | .mma v => product v
  | .mmas v => product v
  | .mmau v => product v
  | .mlda o =>
    let q := e.regs.getD 0 0
    let p := slotsPerRow o
    let r := tileFrom fun m n =>
      (widenWord o.mRT e.fz (slotBits (s.operandRow e (key (q + 64 * (n / p) + m))) o.fld (rowTypeWidth o.mRT) (n % p)), 0)
    (s.setTile k r.1, 0)
  | .msta o => s.storeTile key o (e.regs.getD 0 0) k (bits e.frm.toNat 2 0) e.fz
  | .mzero o => ((s.putTileWords k []).putTile k { s.tileAt k with inUse := !o.eb 21 }, 0)
  | _ => (s, 0)

/-- Take the head of core p's queue off. -/
def State.popMatrix (s : State) (p : Nat) : State :=
  let c := s.coreAt p
  s.putCore p { c with mqueue := c.mqueue.drop 1 }

/-- Discard the head (R206, R208). -/
def State.discard (s : State) (e : MEntry) (h : Hart) (g : Gang) (k : Nat) : State :=
  let t := s.tileAt k
  let s := (s.putTile k { t with discarded := t.discarded + 1 }).popMatrix e.core
  match e.instr with
  | .msta o => s.markStored (s.indexKey g h.slot (e.core - g.first)) o (e.regs.getD 0 0) true
  | _ => s

/-- Fail the head: mark the tile, log it, and doom the entries of the same tile behind it (R208). -/
def State.failMatrix (s : State) (e : MEntry) (k : Nat) (poison : Bool) : State :=
  let t := s.tileAt k
  let s := ((s.putTile k { t with failed := t.failed || !poison, poisoned := t.poisoned || poison }).popMatrix e.core).logCore
    e.core 3
  let c := s.coreAt e.core
  let doom (m : MEntry) : MEntry :=
    if m.hart = e.hart && (tileName m.instr).map Prod.fst = (tileName e.instr).map Prod.fst then { m with doomed := true } else m
  s.putCore e.core { c with mqueue := c.mqueue.map doom }

/-- Whether every word a queued instruction reads is full (R205). -/
def State.operandsFull (s : State) (e : MEntry) (first : Bool) : Bool :=
  (s.readKeys e first).all fun r => (s.rowAt r.1).fullAt r.2

/-- Whether an MSTA at the head of its queue must wait for words that another engine still reads; a word still empty is one
that waits for it (R205, R206) (DEDUCED, log 19). -/
def State.storeHeld (s : State) (e : MEntry) (h : Hart) (g : Gang) : Bool :=
  match e.instr with
  | .msta o => (coveredRows o (e.regs.getD 0 0)).any fun q =>
      s.reservedBeside e.core (s.indexKey g h.slot (e.core - g.first) q) (Fld.words o.fld)
  | _ => false

/-- Commit, fail or discard the started head of core p's queue (R207, R208). -/
def State.matrixCommit (s : State) (p : Nat) (check : MatrixCheck) : State :=
  match (s.coreAt p).mqueue with
  | [] => s
  | e :: _ =>
    match s.entryHart e, tileName e.instr with
    | some (h, g), some (t, en) =>
      let k := tileOf g h.slot t en
      let s' := State.noteKeys { s with asleep := [] } (s.readKeys e false)
      if !e.started || (s.coreAt p).frozen then s
      else if e.doomed then State.discard { s with asleep := [] } e h g k
      else if !s.operandsFull e false || s.storeHeld e h g then s
      else if (s.readKeys e false).any fun r => r.2.any fun w => s.wordBad r.1 w then s'.failMatrix e k true
      else if isProduct e.instr && check = .rerunFails then s'.failMatrix e k false
      else
        let r := s'.matrixEffect e h g k
        let s1 := r.1.popMatrix p
        let s2 := s1.onHart e.hart (fun h => h.raiseLater r.2)
        if isProduct e.instr && check = .rerunAgrees then
          let t := s2.tileAt k
          (s2.putTile k { t with reruns := t.reruns + 1 }).logCore p 2
        else s2
    | _, _ => s.popMatrix p

/-- Start the head of core p's queue (R216). -/
def State.matrixStart (s : State) (p : Nat) : State :=
  let c := s.coreAt p
  match c.mqueue with
  | [] => s
  | e :: rest =>
    if e.started || c.frozen || !(e.doomed || s.operandsFull e true) then s
    else s.putCore p { c with mqueue := { e with started := true } :: rest }

/-! ## The instructions -/

/-- MMA (R196): Matrix multiply-accumulate into a tile. -/
def execMma (v : VForm) (s : State) : Host.Outcome State Fault Refusal :=
  run (.mma v) (fun s id h g _ => 
    s.product id h g (.mma v) (h.reg (v.xReg 0)).toNat) s

/-- MMAS (R199): Sliding-window matrix product for convolution. -/
def execMmas (v : VForm) (s : State) : Host.Outcome State Fault Refusal :=
  run (.mmas v) (fun s id h g _ => 
    s.product id h g (.mmas v) (h.reg (v.xReg 0)).toNat) s

/-- MMAU (R201): Matrix product with an unfolded A operand. -/
def execMmau (v : VForm) (s : State) : Host.Outcome State Fault Refusal :=
  run (.mmau v) (fun s id h g _ => s.product id h g (.mmau v) 0) s

/-- MLDA (R210): Loads a tile from rows. -/
def execMlda (o : SForm) (s : State) : Host.Outcome State Fault Refusal :=
  run (.mlda o) (fun s id h g _ => s.enqueue id h g (.mlda o) o.mT o.mE [(h.reg o.a).toNat] []) s

/-- MSTA (R211): Stores a tile to rows with conversion. -/
def execMsta (o : SForm) (s : State) : Host.Outcome State Fault Refusal :=
  run (.msta o) (fun s id h g _ => 
    let q := (h.reg o.a).toNat
    let key := s.indexKey g h.slot o.mE
    match s.enqueue id h g (.msta o) o.mT o.mE [q] [] with
    | .done s' =>
      if (coveredRows o q).any fun r => s.reserved (key r) (Fld.words o.fld) then .wait s
      else .done (s'.markStored key o q false)
    | r => r) s

/-- MZERO (R212): Zeroes a tile; with .free the tile leaves use. -/
def execMzero (o : SForm) (s : State) : Host.Outcome State Fault Refusal :=
  run (.mzero o) (fun s id h g _ => s.enqueue id h g (.mzero o) o.mT o.mE [] []) s

/-- The bits a descriptor keeps (R200). -/
def adescMask (k : Nat) : W64 := match k with | 0 => maskOf 33 0 | 3 => maskOf 31 0 | _ => maskOf 63 0

/-- Write descriptor k (R213). -/
def Hart.setAdesc (h : Hart) (k : BitVec 2) (v : W64) : Hart :=
  { h with adesc := h.adesc.set k.toNat (v &&& adescMask k.toNat) k.isLt }

/-- Read descriptor k. -/
def Hart.getAdesc (h : Hart) (k : BitVec 2) : W64 := h.adesc[k.toNat]'(k.isLt)

/-- MDESC (R213): Writes an unfolding descriptor. -/
def execMdesc (o : SForm) (s : State) : Host.Outcome State Fault Refusal :=
  runHart (.mdesc o) (fun h => h.setAdesc (o.ext.extractLsb' 0 2) (h.reg o.a)) s

/-- MDESC_RD (R213): Reads an unfolding descriptor. -/
def execMdescRd (o : SForm) (s : State) : Host.Outcome State Fault Refusal :=
  runReg (.mdescRd o) o.d (fun h => h.getAdesc (o.ext.extractLsb' 0 2)) s

/-- The engines an MWAIT covers (R214). -/
def waitEngines (g : Gang) (o : SForm) : List Nat := if o.eb 22 then List.range g.g else [o.mE]

/-- The first report among the hart's tiles of the engines, with the tile and engine (R208, R214): with several, that of
the lowest engine and then the lowest tile, whose mark alone MWAIT clears (DESIGN CHOICE, log 64). -/
def State.anyReport (s : State) (h : Hart) (g : Gang) (es : List Nat) : Option (Nat × Nat × Cause × W64) :=
  (es.flatMap fun e => (List.range (16 / g.h)).map fun t => (t, e)).findSome? fun x =>
    (s.report g h.slot x.1 x.2).map fun r => (x.1, x.2, r.1, r.2)

/-- MWAIT (R214): Waits for the hart's queued matrix instructions to commit or fail. -/
def execMwait (o : SForm) (s : State) : Host.Outcome State Fault Refusal :=
  run (.mwait o) (fun s id h g _ => 
    let es := waitEngines g o
    if es.any fun e => s.queuedOn id (g.first + e) none then .wait s
    else
      match s.anyReport h g es with
      | some (t, e, c, tv) => .stop (s.clearMark g h.slot t e) c tv none
      | none => .done s) s

/-- MCHK (R215): Reads and clears a tile's rerun and discard counts and failure marks. -/
def execMchk (o : SForm) (s : State) : Host.Outcome State Fault Refusal :=
  run (.mchk o) (fun s id h g _ => 
    if s.queuedOn id (g.first + o.mE) (some o.mT) then .wait s
    else
      let k := tileOf g h.slot o.mT o.mE
      let t := s.tileAt k
      let v := min t.reruns (2 ^ 32 - 1) * 2 ^ 16 + min t.discarded 255 * 2 ^ 8 + bitAt 1 t.poisoned + bitAt 0 t.failed
      .done ((s.putTile k { t with failed := false, poisoned := false, discarded := 0, reruns := 0 }).putHart id
        (h.setReg o.d (BitVec.ofNat 64 v)))) s

/-! ## The engine's own steps -/

/-- MATRIX_START (R216): The matrix engine starts the next queued instruction once it is free and the first chunk's
words are full (DEDUCED, log 19). -/
def execMatrixStart (s : State) : Host.Outcome State Fault Refusal :=
  .next (s.matrixStart s.who)

/-- MATRIX_COMMIT (R207): After the checksum checks, the tile and flags of a matrix instruction are committed (DEDUCED,
log 19). -/
def execMatrixCommit (core : Nat) (check : MatrixCheck) (s : State) : Host.Outcome State Fault Refusal :=
  .next (s.matrixCommit core check)

end Sys2Proof.Machine
end

