-- ==== Sys2Proof/Machine/VMem.lean ====
section
/-! DEFINITION. Vector memory instructions (R226 to R235): the loads and stores of elements and of whole rows, the
first-fault load, and loads served from replicas (R247). -/

namespace Sys2Proof.Machine

open Sys2Proof

/-- What an access moves: first row bit, width in bits, size in bytes. -/
structure VShape where
  start : Nat
  width : Nat
  deriving DecidableEq, Repr

/-- Element size in bytes. -/
def VShape.bytes (f : VShape) : Nat := f.width / 8

/-- The row words covered. -/
def VShape.words (f : VShape) : List Nat := Fld.wordsOf f.start f.width

/-- The field F, or the whole row (R227). -/
def fieldShape (o : SForm) : VShape := ⟨Fld.start o.fld, Fld.width o.fld⟩
def rowShape : VShape := ⟨0, 512⟩

/-- The addresses of R227: unit stride, the stride sb, the index field X, or 64 bytes a row. -/
def unitAddr (h : Hart) (o : SForm) (i : Nat) : W64 := h.reg o.a + BitVec.ofNat 64 (Fld.width o.fld / 8 * i)
def strideAddr (h : Hart) (o : SForm) (i : Nat) : W64 := h.reg o.a + h.reg o.b * BitVec.ofNat 64 i
def State.indexAddr (s : State) (h : Hart) (g : Gang) (o : SForm) (i : Nat) : W64 :=
  h.reg o.a + BitVec.ofNat 64 ((s.rowAt (s.elemKey g h.slot i)).fld o.vIndex)
def rowAddr (h : Hart) (o : SForm) (i : Nat) : W64 := h.reg o.a + BitVec.ofNat 64 (64 * i)

/-- The elements in the order their accesses are performed: ascending under .ord and MODE.DET, the machine's otherwise
(R231). -/
def State.accessOrder (s : State) (h : Hart) (o : SForm) (els : List Nat) : List Nat :=
  if o.eb 19 || h.det then els
  else (s.elemOrder.filter fun i => els.contains i) ++ els.filter fun i => !s.elemOrder.contains i

/-- The lowest listed element whose access fails, with the cause (R228, R229): an address read from poisoned words,
then alignment, translation and permission in the TLB of the element's core; `extra` gives a further cause. -/
def State.firstFault (s : State) (h : Hart) (g : Gang) (k : Access) (n : Nat) (addr : Nat → W64) (lost : Nat → Bool)
    (extra : Nat → Nat → Option Cause) (els : List Nat) : Option (Nat × Cause) :=
  els.findSome? fun i =>
    if lost i then some (i, .poison)
    else
      match s.locate h (addr i) n k 0 (g.elemCore i - g.first) with
      | .error c => some (i, c)
      | .ok pa => (extra i pa).map fun c => (i, c)

/-- The checked physical address of an element. -/
def State.elemPa (s : State) (h : Hart) (g : Gang) (k : Access) (n : Nat) (addr : Nat → W64) (i : Nat) : Nat :=
  match s.locate h (addr i) n k 0 (g.elemCore i - g.first) with
  | .ok pa => pa
  | .error _ => 0

/-- Index words read (R227). -/
def indexWords (o : SForm) (indexed : Bool) : List Nat := if indexed then Fld.words o.vIndex else []

/-- The replica a .rep load of element i is served from, if there is one (R247). -/
def State.replicaOf (s : State) (h : Hart) (g : Gang) (i pa : Nat) : Option Replica :=
  let a := i % (g.g * g.na)
  let p := g.elemCore i
  let sl := replicaSlice p (s.physArray p (a % g.na) / 4)
  s.replicas.find? fun r => r.slice == sl && r.queue == h.queue && r.line == pa / 64

/-- What the access of element i loads: a replica's bytes, or the home's, which MODE.DET's values never leave to chance
(R247, R251); `none` is poisoned data. -/
def State.elemLoad (s : State) (id : Nat) (h : Hart) (g : Gang) (rep : Bool) (i pa n : Nat) : Option Nat :=
  match if rep && !h.det then s.replicaOf h g i pa else none with
  | some r => some (takeBits r.data (8 * (pa % 64)) (8 * n))
  | none => s.loadAny id h pa n (i + 1)

/-- Fill replicas of the lines of a .rep load, when the machine keeps what it reads (R247). -/
def State.keepReplicas (s : State) (h : Hart) (g : Gang) (rep : Bool) (pas : List (Nat × Nat)) : State :=
  if rep && s.keep then
    pas.foldl (fun s x =>
      match s.home x.2 with
      | .mem _ => if (s.replicaOf h g x.1 x.2).isSome then s else s.fillReplicas (g.elemCore x.1) h.queue (x.2 / 64)
      | _ => s) s
  else s

/-- What the accesses of elements load, one after another. With `seq` an access sees what the ones before it write to
the hart's own rows (R231). -/
def State.loadVals (s : State) (id : Nat) (h : Hart) (g : Gang) (f : VShape) (rep seq : Bool) :
    List (Nat × Nat) → List (Nat × Option Nat)
  | [] => []
  | (i, pa) :: t =>
    let v := s.elemLoad id h g rep i pa f.bytes
    let s' := match v with
      | some x => if seq then s.writeRow (s.elemKey g h.slot i) f.start f.width x else s
      | none => s
    (i, v) :: s'.loadVals id h g f rep seq t

/-- The loads of an .ord instruction some of whose elements lie on another device (R231): each element's value, a local
one's too, is kept as the answer to a request, and an element's request is sent once the lower ones are answered; whether
every element is, up to one with poisoned data. -/
def State.loadInOrder (s : State) (id : Nat) (h : Hart) (g : Gang) (f : VShape) (rep : Bool) (before : List (Nat × Nat)) :
    List (Nat × Nat) → State × Bool
  | [] => (s, true)
  | (i, pa) :: t =>
    match s.answerOf id pa (.read f.bytes) (i + 1) with
    | some none => (s, true)
    | some (some _) => s.loadInOrder id h g f rep (before ++ [(i, pa)]) t
    | none =>
      if s.home pa = .remote then ((s.askRemote id [(pa, .read f.bytes, i + 1)]).getD s, false)
      else
        let seen := before.foldl (fun (v : State) x =>
          match s.answerOf id x.2 (.read f.bytes) (x.1 + 1) with
          | some (some b) => v.writeRow (s.elemKey g h.slot x.1) f.start f.width b.toNat
          | _ => v) s
        let v := (seen.elemLoad id h g rep i pa f.bytes).map (BitVec.ofNat 512)
        State.loadInOrder { s with
          remotes := s.remotes ++ [⟨s.serial, 0, false, false, false, id, pa, .read f.bytes, false, none, i + 1, some v⟩] }
          id h g f rep (before ++ [(i, pa)]) t

/-- The value of an element's load: the one kept for it, or the one just read. -/
def State.keptVal (s : State) (id n i pa : Nat) (v : Option Nat) : Option Nat :=
  match s.home pa, s.answerOf id pa (.read n) (i + 1) with
  | .remote, _ => v
  | _, some kept => kept.map BitVec.toNat
  | _, none => v

/-- Whether the access of an element reaches the home: none of a replica does (R393). -/
def State.reachesHome (s : State) (h : Hart) (g : Gang) (rep : Bool) (i pa : Nat) : Bool :=
  !rep || h.det || (s.replicaOf h g i pa).isNone

/-- Perform the loads of the elements: their words are empty until VECTOR_LOAD_FILL (R228). -/
def State.loadEls (s : State) (id : Nat) (h : Hart) (g : Gang) (f : VShape) (rep : Bool) (pas : List (Nat × Nat))
    (vals : List (Nat × Option Nat)) : State :=
  let fill (x : Nat × Option Nat) : VFill := ⟨s.elemKey g h.slot x.1, f.start, f.width, x.2.getD 0⟩
  let s1 := pas.foldl (fun t x =>
    (if s.reachesHome h g rep x.1 x.2 then t.readTouch x.2 f.bytes else t).markRow (s.elemKey g h.slot x.1) (wordMask f.start f.width) false)
    (s.keepReplicas h g rep pas)
  s1.putHart id { h with vfills := h.vfills ++ vals.map fill }

/-- A vector load (R228 to R231). `ff` is the first-fault form. -/
def State.vload (s : State) (id : Nat) (h : Hart) (g : Gang) (lim : Nat) (o : SForm) (f : VShape) (addr : Nat → W64)
    (indexed ff : Bool) : Res :=
  let els := s.activeEls h g o.mask
  let act := actOf h lim els
  let n := f.bytes
  let rep := o.eb 18
  if !s.elsFull h g els (indexWords o indexed) || s.elsReserved h g act f.words then .wait s
  else
    let lost (i : Nat) : Bool := (s.poisonEl h g [i] (indexWords o indexed)).isSome
    let near := s.firstFault h g .load n addr lost (fun _ _ => none) act
    let ok := match near with | some e => act.filter fun i => i < e.1 | none => act
    let pas := ok.map fun i => (i, s.elemPa h g .load n addr i)
    match pas.find? fun x => s.accessHeld id x.2 n with
    | some x => s.holdHere id x.2
    | none =>
      let far := pas.filter fun x => s.home x.2 == .remote
      let r : State × Bool :=
        if o.eb 19 && !far.isEmpty then s.loadInOrder id h g f rep [] pas
        else
          match s.askRemote id (far.map fun x => (x.2, PeerOp.read n, x.1 + 1)) with
          | some s' => (s', false)
          | none => (s, true)
      if !r.2 then .busy r.1
      else
        let s := r.1
        let seq : Bool := o.eb 19 || (!h.det && !s.elemOrder.isEmpty)
        let read (l : List (Nat × Nat)) : List (Nat × Option Nat) :=
          (l.zip (s.loadVals id h g f rep seq l)).map fun x => (x.1.1, s.keptVal id n x.1.1 x.1.2 x.2.2)
        let dead := (pas.zip (read pas)).find? fun x => x.2.2.isNone
        let bad := match dead with
          | some x => some (x.1.1, Cause.poison)
          | none => near
        let run := pas.filter fun x => match bad with | some e => x.1 < e.1 | none => true
        let order := (s.accessOrder h o (run.map Prod.fst)).filterMap fun i => run.find? fun x => x.1 == i
        let s0 := s.noteEls h g (match bad with | some e => act.filter fun i => i ≤ e.1 | none => act) (indexWords o indexed)
        let s0 := match dead with
          | some x => if s.reachesHome h g rep x.1.1 x.1.2 then s0.readTouch x.1.2 n else s0
          | none => s0
        let s1 := s0.loadEls id h g f rep order (read order)
        match bad with
        | none => if ff then .done (s1.onHart id fun h => { h with vstat := h.vstat &&& 1 }) else .done s1
        | some (e, c) =>
          if ff && act.head? != some e then
            .done (s1.onHart id fun h => { h with vl := e, vstat := (h.vstat &&& 1) ||| 2 })
          else .stop s1 c (addr e) (some e)

/-- The stores of the elements one after another, plain ones as R235 and R248 have them; under MODE.DET the first that
does not fit the commit buffer is returned (R248). -/
def State.storeEls (s : State) (id : Nat) (val : Nat → List Byte) (plain ord : Bool) : List (Nat × Nat) → State × Option Nat
  | [] => (s, none)
  | (i, pa) :: t =>
    match s.hartAt id with
    | none => (s, none)
    | some h =>
      if plain then
        match s.plainStore h pa (val i) ord with
        | some (s', h') => (s'.putHart id h').storeEls id val plain ord t
        | none => (s, some i)
      else ((s.physWrite pa (val i)).touch pa).storeEls id val plain ord t

/-- Whether the elements of a store are performed at once in their order: with an order, or under .ord when some lie
outside memory (R231, R235). -/
def State.storesAtOnce (s : State) (h : Hart) (o : SForm) (pas : List (Nat × Nat)) : Bool :=
  o.sz != 0 || (o.eb 19 && !h.det && pas.any fun x => match s.home x.2 with | .mem _ => false | _ => true)

/-- What the stores of elements wait for: words an engine reads (R205), the hart's earlier accesses (R239), its own
stores and a moving page when they are performed at once. -/
def State.storeElsWait (s : State) (id : Nat) (h : Hart) (o : SForm) (n : Nat) (pas : List (Nat × Nat)) : Bool :=
  (pas.any fun x => s.storeReserved x.2 n) || (o.sz != 0 && !s.settledFor id h o.vScope) ||
  if s.storesAtOnce h o pas then s.remoteOut id true || pas.any fun x => s.pageMoving x.2 || s.ownDrain h x.2 n
  else pas.any fun x => s.storeWaits id h x.2

/-- A vector store (R228, R229, R231, R248). -/
def State.vstore (s : State) (id : Nat) (h : Hart) (g : Gang) (lim : Nat) (o : SForm) (f : VShape) (addr : Nat → W64)
    (indexed : Bool) : Res :=
  let els := s.activeEls h g o.mask
  let act := actOf h lim els
  let n := f.bytes
  if !s.elsFull h g els (indexWords o indexed) || !s.elsFull h g act f.words then .wait s
  else
    let lost (i : Nat) : Bool := (s.poisonEl h g [i] (indexWords o indexed)).isSome
    let poisoned (i _pa : Nat) : Option Cause := if (s.poisonEl h g [i] f.words).isSome then some .poison else none
    let bad := s.firstFault h g .store n addr lost poisoned act
    let run := match bad with | some e => act.filter fun i => i < e.1 | none => act
    let pas := (s.accessOrder h o run).map fun i => (i, s.elemPa h g .store n addr i)
    match pas.find? fun x => s.accessHeld id x.2 n with
    | some x => s.holdHere id x.2
    | none =>
      if s.storeElsWait id h o n pas then .busy s
      else
        let val (i : Nat) : List Byte := leBytes n (takeBits (s.rowAt (s.elemKey g h.slot i)).data f.start f.width)
        let s0 := s.noteEls h g (match bad with | some e => act.filter fun i => i ≤ e.1 | none => act)
          (indexWords o indexed ++ f.words)
        let r := s0.storeEls id val (!s.storesAtOnce h o pas) (o.eb 19) pas
        match r.2, bad with
        | some e, _ => .pause r.1.bump e
        | none, some (e, c) => .stop r.1.bump c (addr e) (some e)
        | none, none => .done r.1.bump

/-- VLD (R228): Unit-stride vector load. -/
def execVld (o : SForm) (s : State) : Host.Outcome State Fault Refusal :=
  run (.vld o) (fun s id h g lim => s.vload id h g lim o (fieldShape o) (unitAddr h o) false false) s

/-- VST (R228): Unit-stride vector store. -/
def execVst (o : SForm) (s : State) : Host.Outcome State Fault Refusal :=
  run (.vst o) (fun s id h g lim => s.vstore id h g lim o (fieldShape o) (unitAddr h o) false) s

/-- VLDS (R227): Strided vector load. -/
def execVlds (o : SForm) (s : State) : Host.Outcome State Fault Refusal :=
  run (.vlds o) (fun s id h g lim => s.vload id h g lim o (fieldShape o) (strideAddr h o) false false) s

/-- VSTS (R227): Strided vector store. -/
def execVsts (o : SForm) (s : State) : Host.Outcome State Fault Refusal :=
  run (.vsts o) (fun s id h g lim => s.vstore id h g lim o (fieldShape o) (strideAddr h o) false) s

/-- VLDX (R227): Indexed vector load. -/
def execVldx (o : SForm) (s : State) : Host.Outcome State Fault Refusal :=
  run (.vldx o) (fun s id h g lim => s.vload id h g lim o (fieldShape o) (s.indexAddr h g o) true false) s

/-- VSTX (R227): Indexed vector store. -/
def execVstx (o : SForm) (s : State) : Host.Outcome State Fault Refusal :=
  run (.vstx o) (fun s id h g lim => s.vstore id h g lim o (fieldShape o) (s.indexAddr h g o) true) s

/-- VLDFF (R230): First-fault load that shortens VL instead of trapping at a later element. -/
def execVldff (o : SForm) (s : State) : Host.Outcome State Fault Refusal :=
  run (.vldff o) (fun s id h g lim => s.vload id h g lim o (fieldShape o) (unitAddr h o) false true) s

/-- RLD (R232): Loads whole 64-byte rows. -/
def execRld (o : SForm) (s : State) : Host.Outcome State Fault Refusal :=
  run (.rld o) (fun s id h g lim => s.vload id h g lim o rowShape (rowAddr h o) false false) s

/-- RST (R232): Stores whole 64-byte rows. -/
def execRst (o : SForm) (s : State) : Host.Outcome State Fault Refusal :=
  run (.rst o) (fun s id h g lim => s.vstore id h g lim o rowShape (rowAddr h o) false) s

end Sys2Proof.Machine
end

