-- ==== Sys2Proof/Machine/Sync.lean ====
section
/-! DEFINITION. Atomics (R253 to R263), full/empty words (R264 to R268), waiting on an address (R269 to R271), barriers
(R272 to R274) and the work deque (R275, R276). A waiting instruction is tried again; its place in the arrival order is
its entry in `State.parks`. -/

namespace Sys2Proof.Machine

open Sys2Proof

/-- The instruction hart `id` waits at. -/
def State.waitingAt (s : State) (id : Nat) : Option Instr := (s.hartAt id).bind fun h => if h.waiting && (s.gangAt h.gang).isSome then h.current else none

/-! ## Atomics -/

/-- What an atomic writes (R258): function, size in bytes, old value, operand (ACAS: compare value), new value. -/
def atomFn (fn size old v v' : Nat) : Nat :=
  let wd := 8 * size
  match fn with
  | 0 => (old + v) % 2 ^ wd
  | 1 => ((fmtOf 2).result 0 false (((fmtOf 2).value old).add 0 ((fmtOf 2).value v))).1
  | 2 => if sextNat wd old ≤ sextNat wd v then old else v
  | 3 => if sextNat wd v ≤ sextNat wd old then old else v
  | 4 => min old v
  | 5 => max old v
  | 6 => Nat.land old v
  | 7 => Nat.lor old v
  | 8 => Nat.xor old v
  | 9 => v
  | _ => if old = v then v' else old

/-- Whether an element below e of an .ord instruction is still to be answered by another device (R259). -/
def State.farBefore (s : State) (id serial e : Nat) : Bool :=
  s.remotes.any fun r => r.hart == id && r.serial == serial && r.ord && r.tag ≤ e && r.answer.isNone

/-- Whether the atomic at index n may be performed now: the hart's earlier ones on the same 8-byte word come first, and
under .ord the lower elements of its instruction, those at another device included; elements without .ord come in any
order (R254, R259). It waits for a page or core that is moving and for reserved words. -/
def State.atomReady (s : State) (n : Nat) (a : AtomReq) : Bool :=
  !((s.atoms.take n).any fun b => b.hart == a.hart &&
    if b.serial = a.serial then a.ord else s.placeOfPa b.pa / 8 == s.placeOfPa a.pa / 8) &&
  !(a.ord && s.farBefore a.hart a.serial a.elem) && !s.pageMoving a.pa && !s.storeReserved a.pa a.size &&
  match s.home a.pa with
  | .ls p _ => !s.coreMoving p
  | _ => true

/-- Deliver an atomic's old value to its destination (R256, R257); `none` is poison, which an element keeps a note of
(R260). -/
def Hart.atomResult (h : Hart) (d : AtomDest) (old : Option Nat) (row : Nat → Nat) : Hart :=
  match d, old with
  | .posted, _ => h
  | .reg r _, some v => { h with fills := h.fills ++ [⟨r, BitVec.ofNat 64 v, false⟩] }
  | .reg r va, none => { h with fills := h.fills ++ [⟨r, va, true⟩] }
  | .field k st wd _ _, some v => { h with vfills := h.vfills ++ [⟨k, st, wd, v⟩] }
  | .field k st wd i va, none =>
    { h with vfills := h.vfills ++ [⟨k, st, wd, row k / 2 ^ st % 2 ^ wd⟩], lost := h.lost ++ [(i, va)] }

/-- Perform an atomic at its home: the old value, or poison, which writes nothing; nor does an ACAS that fails (R254,
R258, R260). -/
def State.atomAt (s : State) (pa size fn v v' : Nat) : State × Option Nat :=
  let t := s.readTouch pa size
  if s.physPoison pa size then (t, none)
  else
    let old := s.physVal pa size
    (if fn = 10 && old ≠ v then t else t.physStore pa size (atomFn fn size old v v'), some old)

/-- The words of an element that waits for its result. -/
def AtomDest.words : AtomDest → Option (Nat × BitVec 16)
  | .field k st wd _ _ => some (k, wordMask st wd)
  | _ => none

/-- Mark the words of requests empty until their results come, or full again (R259). -/
def State.markDests (s : State) (l : List AtomReq) (full : Bool) : State :=
  l.foldl (fun s a => match a.dest.words with | some x => s.markRow x.1 x.2 full | none => s) s

/-- After poison at an element of an .ord VAMO no higher one is sent: what is left of the instruction's requests goes
(R260). -/
def State.dropHigher (s : State) (id serial : Nat) : State :=
  let higher (b : AtomReq) : Bool := b.hart == id && b.serial == serial
  { s.markDests (s.atoms.filter higher) true with
    atoms := s.atoms.filter fun b => !higher b
    remotes := s.remotes.filter fun r => !(r.hart == id && r.serial == serial && r.ord && r.answer.isNone) }

/-- Perform the atomic at index n (R254). -/
def State.performAtom (s : State) (n : Nat) : State :=
  match s.atoms[n]? with
  | none => s
  | some a =>
    if !s.atomReady n a then s
    else
      let r := s.atomAt a.pa a.size a.fn a.v.toNat a.v'.toNat
      let s1 := { r.1 with atoms := s.atoms.eraseIdx n, asleep := [] }
      let s2 := s1.onHart a.hart fun h => h.atomResult a.dest r.2 fun k => (s1.rowAt k).data.toNat
      if r.2.isNone && a.ord && a.dest != .posted then s2.dropHigher a.hart a.serial else s2

/-- Whether an order needs the hart's earlier accesses performed first: release, acq_rel, seq. -/
def releases (order : Nat) : Bool := 2 ≤ order

/-- Whether an order holds the hart's later accesses back: acquire, acq_rel, seq. -/
def acquires (order : Nat) : Bool := order == 1 || 3 ≤ order

/-- Whether an address lies in the local store of a core other than the hart's own: an atomic there is a message send and
receipt (R253, R261). -/
def State.otherCore (s : State) (g : Gang) (pa : Nat) : Bool :=
  match s.home pa with
  | .ls p _ => p != g.first
  | _ => false

/-- AMO's fields (R256). -/
def amoFn (o : SForm) : Nat := o.e 3 0
def amoPosted (o : SForm) : Bool := o.eb 4
def amoScope (o : SForm) : Nat := o.e 7 5
def amoOrder (o : SForm) : Nat := o.e 10 8

/-- Whether an atomic waits before it is sent: for the hart's earlier loads (edge (a)) and, as a release or a message
send, for every earlier access (R239, R243, R261). -/
def State.amoWaits (s : State) (id : Nat) (h : Hart) (g : Gang) (o : SForm) (pas : List Nat) : Bool :=
  s.remoteOut id true ||
  ((releases (amoOrder o) || (amoOrder o != 0 && pas.any (s.otherCore g))) && !s.settledFor id h (amoScope o))

/-- The peer operation of a request. -/
def AtomReq.peerOp (a : AtomReq) : PeerOp := .atomic a.fn a.size a.v a.v'

/-- Whether a request to a local home can be performed at this moment. -/
def State.homeFree (s : State) (a : AtomReq) : Bool :=
  !s.pageMoving a.pa && !s.storeReserved a.pa a.size && !s.accessHeld a.hart a.pa a.size

/-- The request of an atomic at another device: posted, or an element's, whose answer is kept (R245, R253). -/
def AtomReq.remote (a : AtomReq) (port : Nat) (va : W64) : Remote :=
  let posted := a.dest == .posted
  ⟨a.serial, port, false, posted, a.ord, a.hart, a.pa, a.peerOp, false, if posted then some (0, va) else none, a.elem + 1,
    none⟩

/-- Send an atomic: to its home's queue, or over the link (R245, R253, R261). -/
def State.sendAtom (s : State) (a : AtomReq) (va : W64) : State :=
  match s.home a.pa with
  | .remote => { s with remotes := s.remotes ++ [a.remote (s.portOf a.pa) va] }
  | _ => { s with atoms := s.atoms ++ [a] }

/-- AMO (R256, R258, R260, R261); under MODE.DET it is performed now (R277). -/
def State.amo (s : State) (id : Nat) (h : Hart) (g : Gang) (o : SForm) : Res :=
  let va := h.reg o.a
  let n := 2 ^ o.sz
  let v : W64 := BitVec.ofNat 64 ((h.reg o.b).toNat % 2 ^ (8 * n))
  let v' : W64 := BitVec.ofNat 64 ((h.reg (rg (o.e 16 11))).toNat % 2 ^ (8 * n))
  match s.locate h va n .atomic 0 with
  | .error c => .stop s c va none
  | .ok pa =>
    if s.coreHeld id pa then s.holdHere id pa
    else if s.amoWaits id h g o [pa] || s.ownDrain h pa n then .busy s
    else
      let dest : AtomDest := if amoPosted o then .posted else .reg o.d va
      let a : AtomReq := ⟨id, amoFn o, pa, n, v, v', s.serial, false, 0, dest⟩
      let give (s : State) (old : Option Nat) : Res :=
        if amoPosted o then .done s
        else match old with
          | some x => .hart s id (h.later o.d (BitVec.ofNat 64 x))
          | none => .hart s id (h.laterPoison o.d va)
      match s.home pa with
      | .remote =>
        if amoPosted o then .done (s.sendAtom a va).bump
        else if h.det then
          match s.askRemote id [(pa, a.peerOp, 0)] with
          | some s' => .busy s'
          | none => give s (((s.answerOf id pa a.peerOp).getD none).map fun x => x.toNat % 2 ^ (8 * n))
        else
          let r : Remote := ⟨s.serial, s.portOf pa, acquires (amoOrder o), false, false, id, pa, a.peerOp, false, some (o.d, va), 0, none⟩
          .done (State.putHart { s with remotes := s.remotes ++ [r], serial := s.serial + 1 } id (h.empty o.d))
      | _ =>
        if h.det then
          if s.homeFree a then let r := s.atomAt pa n (amoFn o) v.toNat v'.toNat; give r.1 r.2 else .busy s
        else
          .done (State.putHart { s with atoms := s.atoms ++ [a], serial := s.serial + 1 } id
            (if amoPosted o then h else h.empty o.d))

/-- The request of one element of a VAMO (R257, R258). -/
def State.vamoReq (s : State) (id : Nat) (h : Hart) (g : Gang) (o : SForm) (va : W64) (pa i : Nat) : AtomReq :=
  let k := s.elemKey g h.slot i
  let f := o.amoF
  let x : W64 := BitVec.ofNat 64 ((s.rowAt k).fld f)
  let cmp : W64 := BitVec.ofNat 64 ((h.reg o.d).toNat % 2 ^ Fld.width f)
  let cas := amoFn o = 10
  ⟨id, amoFn o, pa, Fld.width f / 8, if cas then cmp else x, if cas then x else 0, s.serial, o.eb 11, i,
    if amoPosted o then .posted else .field k (Fld.start f) (Fld.width f) i va⟩

/-- Performing atomics of elements in order, now, at the hart's turn under MODE.DET (R259, R277): the results so far,
those of other devices and local ones, are kept as answered requests; whether every element has one, up to one with
poisoned data under .ord. A posted element of another device is waited for only under .ord, until it is accepted. -/
def State.vamoInOrder (s : State) (id : Nat) : List (Nat × AtomReq) → State × Bool
  | [] => (s, true)
  | (i, a) :: t =>
    match s.answerOf id a.pa a.peerOp (i + 1) with
    | some x => if x.isNone && a.ord then (s, true) else s.vamoInOrder id t
    | none =>
      if a.ord && s.remotes.any (fun r => r.hart == id && r.posted && r.ord) then (s, false)
      else if s.home a.pa = .remote && a.dest != .posted then ((s.askRemote id [(a.pa, a.peerOp, i + 1)]).getD s, false)
      else if s.home a.pa != .remote && !s.homeFree a then (s, false)
      else
        let r : State × Option Nat :=
          if s.home a.pa = .remote then (s.sendAtom a 0, some 0) else s.atomAt a.pa a.size a.fn a.v.toNat a.v'.toNat
        State.vamoInOrder { r.1 with
          remotes := r.1.remotes ++
            [⟨s.serial, 0, false, false, false, id, a.pa, a.peerOp, false, none, i + 1, some (r.2.map (BitVec.ofNat 512))⟩] } id t

/-- The elements of a VAMO below the element `e` of R259 whose requests were for sending. -/
def belowEls (e : Nat) (act : List Nat) : List Nat := act.filter fun i => i < e

/-- The results kept as answers, by element: poisoned data is none. -/
def State.vamoKept (s : State) (id : Nat) : List (Nat × Option Nat) :=
  s.remotes.filterMap fun r =>
    if r.hart = id && r.dest.isNone then r.answer.map fun v => (r.tag - 1, v.map BitVec.toNat) else none

/-- Write the results kept as answers to F, and mark the words of every element full (R259, R260). -/
def State.vamoWrite (s : State) (h : Hart) (g : Gang) (f : BitVec 15) (els : List Nat) (kept : List (Nat × Option Nat)) :
    State :=
  let s := kept.foldl (fun s x =>
    match x.2 with
    | some v => s.writeRow (s.elemKey g h.slot x.1) (Fld.start f) (Fld.width f) v
    | none => s) s
  els.foldl (fun s i => s.markRow (s.elemKey g h.slot i) (wordMask (Fld.start f) (Fld.width f)) true) s

/-- The end of a VAMO (R259, R260): poison, under .ord at its lowest element and else at the element `e` at which the
instruction ends with the lowest poisoned address, before a check fault at `e`. -/
def vamoStop (s : State) (ord : Bool) (e : Nat) (bad : Option (Cause × W64)) (lost : List (Nat × W64)) : Res :=
  match lost, bad with
  | x :: t, _ =>
    if ord then
      let y := t.foldl (fun a y => if y.1 < a.1 then y else a) x
      .stop s .poison y.2 (some y.1)
    else .stop s .poison (t.foldl (fun a y => if y.2.ult a then y.2 else a) x.2) (some e)
  | [], some (c, va) => .stop s c va (some e)
  | [], none => .done s

/-- The elements of a VAMO that may be sent: those below the element `e` of R259, with `e` itself and its fault; element
`e` is VL when no check fails. -/
def State.vamoEls (s : State) (h : Hart) (g : Gang) (o : SForm) (addr : Nat → W64) (act : List Nat) :
    List Nat × Nat × Option (Cause × W64) :=
  match s.firstFault h g .atomic (Fld.width o.amoF / 8) addr (fun _ => false) (fun _ _ => none) act with
  | some (e, c) => (belowEls e act, e, some (c, addr e))
  | none => (act, h.vl, none)

/-- What is left of a VAMO whose answers are all kept: F takes them, and it ends; an element met poison where an answer
says so or `lost` does (R259, R260). -/
def State.vamoFinish (s : State) (id : Nat) (h : Hart) (g : Gang) (o : SForm) (addr : Nat → W64) (act : List Nat) (e : Nat)
    (bad : Option (Cause × W64)) (lost : List (Nat × W64)) : Res :=
  let kept := s.vamoKept id
  let dead := (kept.filter fun x => x.2.isNone).map fun x => (x.1, addr x.1)
  let s1 := if amoPosted o then s else s.vamoWrite h g o.amoF (belowEls e act) kept
  vamoStop s1.bump (o.eb 11) e bad (lost ++ dead)

/-- A VAMO of a hart under MODE.DET at its turn (R277). -/
def State.vamoDet (s : State) (id : Nat) (h : Hart) (g : Gang) (o : SForm) (addr : Nat → W64) (act : List Nat)
    (reqs : List (Nat × AtomReq)) (e : Nat) (bad : Option (Cause × W64)) (lost : List (Nat × W64)) : Res :=
  let good := reqs.filter fun x => x.1 < e && !lost.any fun y => y.1 == x.1 || (o.eb 11 && y.1 < x.1)
  let r := s.vamoInOrder id good
  if r.2 then r.1.vamoFinish id h g o addr act e bad lost else .busy r.1

/-- A returning VAMO whose requests are sent: when every result is back, those of other devices are written to F, and it
ends (R259, R260). -/
def State.vamoEnd (s : State) (id : Nat) (h : Hart) (g : Gang) (o : SForm) (addr : Nat → W64) (act : List Nat) (e : Nat)
    (bad : Option (Cause × W64)) : Res :=
  if s.hasReturning id || s.remotes.any fun r => r.hart == id && r.dest.isNone && r.answer.isNone then .busy s
  else s.vamoFinish id h g o addr act e bad h.lost

/-- Whether a posted element is accepted where its home holds poisoned data: it is refused, as the home of a returning one
would refuse it (R260) (DEDUCED, log 33). -/
def State.deadHome (s : State) (o : SForm) (a : AtomReq) : Bool :=
  amoPosted o && s.home a.pa != .remote && s.physPoison a.pa a.size

/-- VAMO (R257 to R260): every check before any send; posted, it is done once its requests are sent; else it waits at its
instruction for their results, so that POISON is precise (DEDUCED, log 33). -/
def State.vamo (s : State) (id : Nat) (h : Hart) (g : Gang) (lim : Nat) (o : SForm) : Res :=
  let els := s.activeEls h g o.amoMask
  let act := actOf h lim els
  let n := Fld.width o.amoF / 8
  let addr (i : Nat) : W64 := h.reg o.a + BitVec.ofNat 64 ((s.rowAt (s.elemKey g h.slot i)).fld o.amoIndex)
  let plan := s.vamoEls h g o addr act
  let pa (i : Nat) : Nat := s.elemPa h g .atomic n addr i
  let reqs : List (Nat × AtomReq) := plan.1.map fun i => (i, s.vamoReq id h g o (addr i) (pa i) i)
  match h.sent with
  | some x => if h.det then s.vamoDet id h g o addr act reqs x.1 x.2 h.lost else s.vamoEnd id h g o addr act x.1 x.2
  | none =>
    if !s.elsFull h g els (Fld.words o.amoIndex) || !s.elsFull h g act (Fld.words o.amoF) then .wait s
    else if !amoPosted o && s.elsReserved h g act (Fld.words o.amoF) then .wait s
    else
      match reqs.find? fun x => s.coreHeld id x.2.pa with
      | some x => s.holdHere id x.2.pa
      | none =>
        if s.amoWaits id h g o (reqs.map fun x => x.2.pa) || reqs.any fun x => s.ownDrain h x.2.pa n then .busy s
        else
          let ws := Fld.words o.amoF ++ Fld.words o.amoIndex
          let s0 := s.noteEls h g plan.1 ws
          let lost := (reqs.filter fun x => (s.poisonEl h g [x.1] ws).isSome || s.deadHome o x.2).map fun x => (x.1, addr x.1)
          let good := reqs.filter fun x => !lost.any fun y => y.1 == x.1 || (o.eb 11 && y.1 < x.1)
          let s1 := s0.markDests (good.map Prod.snd) false
          if h.det then
            let h1 := { h with sent := some plan.2, lost := lost }
            (s1.putHart id h1).vamoDet id h1 g o addr act reqs plan.2.1 plan.2.2 lost
          else
            let s2 := (good.foldl (fun s x => s.sendAtom x.2 (addr x.1)) s1).bump
            if amoPosted o then vamoStop s2 (o.eb 11) plan.2.1 plan.2.2 lost
            else .busy (s2.putHart id { h with sent := some plan.2, lost := lost })

/-- AMO (R256): Scalar atomic performed at the home. -/
def execAmo (o : SForm) (s : State) : Host.Outcome State Fault Refusal :=
  run (.amo o) (fun s id h g _ => s.amo id h g o) s

/-- VAMO (R259): Vector atomic, one element per index. -/
def execVamo (o : SForm) (s : State) : Host.Outcome State Fault Refusal :=
  run (.vamo o) (fun s id h g lim => s.vamo id h g lim o) s

/-- HOME_ATOMIC_PERFORM (R254): A home performs an arriving atomic, wait or wake request serially per word, in requester-key order within a cycle. -/
def execHomeAtomicPerform (s : State) : Host.Outcome State Fault Refusal :=
  .next (s.performAtom s.who)

/-! ## Parking (R255, R266) -/

/-- Where requests at an address park: a core's bank units, or a slice; one to another device has no place here. -/
def State.parkHome (s : State) (pa : Nat) : Option Nat :=
  match s.home pa with
  | .ls c _ => some c
  | .mem _ => some (1000 + homeSlice pa)
  | _ => none

/-- Where a request parks. -/
def State.parkPlace (s : State) (p : Park) : Option Nat := if p.kind = 3 then some (s.coreOfLcid p.pa) else s.parkHome p.pa

/-- Whether a place's park table of 64 is full; peers' requests take places too (R255). -/
def State.tableFull (s : State) (place : Option Nat) : Bool :=
  place.isSome &&
  64 ≤ (s.parks.filter fun q => !q.refused && s.parkPlace q == place).length +
    (s.peerWaits.filter fun q => !q.refused && s.parkHome q.pa == place).length

/-- Whether the words of a full/empty request are in the state it waits for (R265). -/
def State.wordsReady (s : State) (kind pa bytes : Nat) : Bool :=
  match s.home pa with
  | .ls c off => (s.lsFull c off (bytes / 4)).all fun b => b == (kind == 0)
  | _ => false

/-- Whether a hart runs under MODE.DET. -/
def State.detHart (s : State) (id : Nat) : Bool := match s.hartAt id with | some h => h.det | none => false

/-- The parked full/empty requests, this device's and its peers': place in the order of arrival, address, bytes, and
whether they wait for empty words (R254, R266). Those of harts under MODE.DET are performed at their turns of a commit
instead (R277). -/
def State.feParked (s : State) : List (Nat × Nat × Nat × Nat) :=
  ((s.parks.filter fun p => !p.refused && p.kind < 2 && !s.detHart p.hart).map fun p => (p.serial, p.pa, p.bytes, p.kind)) ++
  (s.peerWaits.filter fun p => !p.refused).filterMap fun p =>
    match p.op with
    | .fullEmpty k n _ => some (p.serial, p.pa, n, if k = 2 then 1 else 0)
    | _ => none

/-- Whether a parked request on an overlapping word is ready and comes before: of those that arrived before `mine`, or
before a new arrival (R266). -/
def State.servedBefore (s : State) (mine : Option Nat) (pa bytes : Nat) : Bool :=
  s.feParked.any fun w =>
    (match mine with | some m => decide (w.1 < m) | none => true) && w.2.1 < pa + bytes && pa < w.2.1 + w.2.2.1 &&
      s.wordsReady w.2.2.2 w.2.1 w.2.2.1

/-- The hart's parked request. -/
def State.parkOf (s : State) (id : Nat) : Option Park := s.parks.find? fun p => p.hart == id

/-- The place of a hart's request in the order of arrivals; a refused one has none (R255). -/
def State.placeOf (s : State) (id : Nat) : Option Nat :=
  match s.parkOf id with
  | some p => if p.refused then none else some p.serial
  | none => none

/-- Whether a hart's request was refused and is not to be sent again yet: under MODE.DET it is at the hart's turn of a
later commit (R250, R255). -/
def State.isRefused (s : State) (id : Nat) (h : Hart) : Bool :=
  !h.det && match s.parkOf id with | some p => p.refused | none => false

/-- Take the hart's parked request away, one withdrawn for a migration too (R411). -/
def State.unpark (s : State) (id : Nat) : State :=
  { s with
    parks := s.parks.filter fun p => p.hart != id
    migs := s.migs.map fun m => { m with withdrawn := m.withdrawn.filter fun p => p.hart != id } }

/-- Park a request as a new arrival; a table that is full refuses it (R255). -/
def State.park (s : State) (p : Park) : State :=
  { s with parks := s.parks ++ [{ p with refused := s.tableFull (s.parkPlace p), serial := s.serial }] }.bump

/-- Wait with a parked request; one refused before is sent again (R250, R255). -/
def State.parkAndWait (s : State) (id pa bytes kind : Nat) : Res :=
  let new : Park := ⟨id, pa, bytes, kind, false, 0, none⟩
  match s.parkOf id with
  | some p => if p.refused then .wait ((s.unpark id).park new) else .wait s
  | none => .wait (s.park new)

/-! ## Full/empty words (R264 to R267) -/

/-- A full/empty request: 0 LDF, 1 LDFE, 2 STE, 3 STF. -/
structure Fe where
  kind : Nat
  d : Reg
  va : W64
  words : Nat
  timeout : Option W64
  scope : Nat
  deriving DecidableEq, Repr

/-- The request of an instruction (R264). -/
def feOf (h : Hart) (kind : Nat) (o : SForm) : Fe :=
  ⟨kind, o.d, h.reg o.a + word64 (sextNat 16 (o.e 15 0)), if o.sz = 2 then 1 else 2,
    if o.eb 16 then some (h.reg o.b) else none, o.e 19 17⟩

/-- The effect at the bank unit, in one step (R265): the value a load returns; `none` is poison. -/
def State.feAct (s : State) (kind pa n v : Nat) : State × Option Nat :=
  match s.home pa with
  | .ls p off =>
    if kind < 2 then
      let x := if s.physPoison pa (4 * n) then none else some (s.physVal pa (4 * n))
      let t := s.readTouch pa (4 * n)
      (if kind = 1 then t.lsMark p off n false else t, x)
    else ((s.physStore pa (4 * n) v).lsMark p off n true, some 0)
  | _ => (s, some 0)

/-- Deliver the result of a load (R265, R68). -/
def Hart.feResult (h : Hart) (f : Fe) (x : Option Nat) : Hart :=
  if f.kind < 2 then
    match x with
    | some v => h.later f.d (BitVec.ofNat 64 v)
    | none => h.laterPoison f.d f.va
  else h

/-- Whether an address of another device lies in its local stores (R27). -/
def farStore (pa : Nat) : Bool := 0x200000000000 ≤ pa % 2 ^ 46 && pa % 2 ^ 46 < 0x200030000000

/-- A full/empty request to a local store of another device (R253, R265): sent, and waited for; a timeout of 0 traps when
it is not answered at the next look (R267) (DESIGN CHOICE, log 6). -/
def State.feFar (s : State) (id : Nat) (h : Hart) (f : Fe) (pa v : Nat) : Res :=
  let op : PeerOp := .fullEmpty f.kind (4 * f.words) (BitVec.ofNat 64 v)
  if 2 ≤ f.kind && !s.settledFor id h f.scope then .busy s
  else
    match s.askRemote id [(pa, op, 0)] with
    | none => .hart s id (h.feResult f (((s.answerOf id pa op).getD none).map fun x => x.toNat % 2 ^ (32 * f.words)))
    | some s' =>
      if f.timeout == some 0 && !h.det && s.remotes.any (fun r => r.hart == id && r.dest.isNone) then .stop s .waitTimeout f.va none
      else .wait s'

/-- LDF, LDFE, STE and STF (R264 to R267) (DEDUCED, log 28). -/
def State.fe (s : State) (id : Nat) (h : Hart) (f : Fe) : Res :=
  let v := (h.reg f.d).toNat % 2 ^ (32 * f.words)
  let n := 4 * f.words
  match s.locate h f.va n (if f.kind < 2 then .load else .store) 0 with
  | .error c => .stop (s.unpark id) c f.va none
  | .ok pa =>
    match s.home pa with
    | .remote => if farStore pa then s.feFar id h f pa v else .stop s .dataProt f.va none
    | .ls _ _ =>
      if s.accessHeld id pa n then s.holdHere id pa
      else if 2 ≤ f.kind && !s.settledFor id h f.scope then .busy s
      else if s.isRefused id h then .wait s
      else
        let want := if f.kind = 2 then 1 else 0
        let ready := (f.kind == 3 || s.wordsReady want pa n) && !(f.kind != 0 && s.storeReserved pa n)
        if ready && !s.servedBefore (s.placeOf id) pa n then
          let r := (s.unpark id).feAct f.kind pa f.words v
          .hart r.1 id (h.feResult f r.2)
        else if f.timeout == some 0 && !h.det then .stop (s.unpark id) .waitTimeout f.va none
        else if f.kind = 3 then .busy s
        else s.parkAndWait id pa n want
    | _ => .stop s .dataProt f.va none

/-- LDF (R265): Waits until the word is full, then loads it. -/
def execLdf (o : SForm) (s : State) : Host.Outcome State Fault Refusal :=
  run (.ldf o) (fun s id h _ _ => s.fe id h (feOf h 0 o)) s

/-- LDFE (R265): Waits until the word is full, loads it and marks it empty. -/
def execLdfe (o : SForm) (s : State) : Host.Outcome State Fault Refusal :=
  run (.ldfe o) (fun s id h _ _ => s.fe id h (feOf h 1 o)) s

/-- STE (R265): Waits until the word is empty, stores it and marks it full. -/
def execSte (o : SForm) (s : State) : Host.Outcome State Fault Refusal :=
  run (.ste o) (fun s id h _ _ => s.fe id h (feOf h 2 o)) s

/-- STF (R265): Stores and marks full without waiting. -/
def execStf (o : SForm) (s : State) : Host.Outcome State Fault Refusal :=
  run (.stf o) (fun s id h _ _ => s.fe id h (feOf h 3 o)) s

/-- The local store a word lies in: a core of this device, or a place of another device's (R27). -/
def State.storeOf (s : State) (pa : Nat) : Option Nat :=
  match s.home pa with
  | .ls p _ => some p
  | .remote => if farStore pa then some (1000 + pa / 0x200000) else none
  | _ => none

/-- The first word of a FESET range whose access fails, with the cause: every word must lie in one core's local store,
and one beyond its end raises DATA_XLATE (R268). -/
def State.fesetFault (s : State) (h : Hart) (va : W64) (n : Nat) : Option (Cause × W64) :=
  let place (i : Nat) : Except Cause Nat :=
    match s.locate h (va + BitVec.ofNat 64 (4 * i)) 4 .store 0 with
    | .error c => .error c
    | .ok pa => match s.storeOf pa with
      | some p => .ok p
      | none => .error .dataProt
  let core := match place 0 with | .ok x => x | .error _ => 0
  (List.range n).findSome? fun i =>
    match place i with
    | .error c => some (c, va + BitVec.ofNat 64 (4 * i))
    | .ok x => if x = core then none else some (.dataXlate, va + BitVec.ofNat 64 (4 * i))

/-- The physical addresses of n words (R268). -/
def State.fesetWords (s : State) (h : Hart) (va : W64) (n : Nat) : List Nat :=
  (List.range n).filterMap fun i => (s.locate h (va + BitVec.ofNat 64 (4 * i)) 4 .store 0).toOption

/-- Mark one local-store word full or empty, as far as the core's store reaches (R268). -/
def State.markWord (s : State) (pa : Nat) (full : Bool) : State :=
  match s.home pa with
  | .ls p off => s.lsMark p off 1 full
  | _ => s

/-- Mark words at physical addresses full or empty (R268). -/
def State.markWords (s : State) (pas : List Nat) (full : Bool) : State := pas.foldl (fun s pa => s.markWord pa full) s

/-- Whether the marking of a word must wait: behind parked requests that an earlier marking has made ready (R266), or, to
empty it, for a matrix engine that still reads it (R205). -/
def State.markWaits (s : State) (place : Option Nat) (full : Bool) (pa : Nat) : Bool :=
  s.servedBefore place pa 4 || (!full && s.storeReserved pa 4)

/-- FESET of a range that passes its checks (R268); one in another device's store travels there as a request (R253). -/
def State.feset (s : State) (id : Nat) (h : Hart) (o : SForm) (va : W64) (n : Nat) : Res :=
  let full : Bool := o.sz == 0
  match if n = 0 then Except.error Cause.align else s.locate h va 4 .store 0 with
  | .error _ => .done s
  | .ok pa =>
    if s.coreHeld id pa then s.holdHere id pa
    else if full && !s.settledFor id h (o.e 19 17) then .busy s
    else if s.home pa = .remote then
      match s.askRemote id [(pa, .mark n full, 0)] with
      | some s' => .busy s'
      | none => .done s
    else if (s.fesetWords h va n).any (s.markWaits none full) then .busy s
    else .done (s.markWords (s.fesetWords h va n) full)

/-- FESET (R268): Marks a range of words full or empty. A misaligned sa raises ALIGN also when sb = 0 (DESIGN CHOICE, log
65). -/
def execFeset (o : SForm) (s : State) : Host.Outcome State Fault Refusal :=
  run (.feset o) (fun s id h _ _ =>
    let va := h.reg o.a
    let n := (h.reg o.b).toNat
    if va.toNat % 4 ≠ 0 then .stop s .align va none
    else
      match s.fesetFault h va n with
      | some (c, a) => .stop s c a none
      | none => s.feset id h o va n) s

/-! ## Waiting on an address (R269 to R271) -/

/-- A value of n bytes as WAITA compares it: sign-extended for lt and ge. -/
def waitVal (cc n x : Nat) : W64 := if cc = 2 || cc = 3 then word64 (sextNat (8 * n) x) else BitVec.ofNat 64 (x % 2 ^ (8 * n))

/-- WAITA's timeout, when it has one and it can expire (R250, R269). -/
def waitaTimeout (h : Hart) (o : SForm) : Option W64 := if o.eb 3 && !h.det then some (h.reg (rg (o.e 9 4))) else none

/-- WAITA: `expired` ends the wait whatever the condition (R269) (DEDUCED, log 28). -/
def State.waita (s : State) (id : Nat) (h : Hart) (o : SForm) (expired : Bool) : Res :=
  let va := h.reg o.a
  let n := 2 ^ o.sz
  match s.locate h va n .load 0 with
  | .error c => .stop (s.unpark id) c va none
  | .ok pa =>
    if s.accessHeld id pa n then s.holdHere id pa
    else if s.isRefused id h && !expired then .wait s
    else
      let ended := expired || waitaTimeout h o == some 0
      match (if s.home pa = .remote then s.askRemote id [(pa, .read n, 0)] else none) with
      | some s' => .busy s'
      | none =>
        match s.loadAny id h pa n with
        | none => .hart ((s.unpark id).readTouch pa n) id (h.laterPoison o.d va)
        | some x =>
          if condCode (o.e 2 0) (waitVal (o.e 2 0) n x) (waitVal (o.e 2 0) n (h.reg o.b).toNat) || ended then
            .hart ((s.unpark id).readTouch pa n) id (h.later o.d (BitVec.ofNat 64 x))
          else
            (s.dropAnswers id).parkAndWait id pa n 2

/-- WAITA (R269): Waits until a value at an address meets a condition. -/
def execWaita (o : SForm) (s : State) : Host.Outcome State Fault Refusal :=
  run (.waita o) (fun s id h _ _ => s.waita id h o false) s

/-- STWK (R270): Stores with release and wakes the watches on the address. -/
def execStwk (o : SForm) (s : State) : Host.Outcome State Fault Refusal :=
  run (.stwk o) (fun s id h _ _ => 
    let va := h.reg o.a
    let n := 2 ^ o.sz
    match s.locate h va n .store 0 with
    | .error c => .stop s c va none
    | .ok pa =>
      if s.accessHeld id pa n then s.holdHere id pa
      else if !s.settledFor id h (o.e 2 0) || s.pageMoving pa || s.storeReserved pa n then .busy s
      else .done ((s.physStore pa n ((h.reg o.b).toNat % 2 ^ (8 * n))).touch pa)) s

/-! ## Barriers (R272 to R274) -/

/-- Send a barrier's release to a waiting hart (R273). -/
def State.release (s : State) (ids : List Nat) (phase : Nat) : State :=
  ids.foldl (fun s i => s.onHart i fun h => { h with released := some phase }) s

/-- Complete the gang barrier if every live slot has arrived (R273). -/
def State.gangBarrier (s : State) (k : Nat) : State :=
  match s.gangAt k with
  | none => s
  | some g =>
    if g.live = 0 || g.arr = 0 || (g.live &&& ~~~g.arr) ≠ 0 then s
    else
      let ids := (s.harts.filter fun e => e.2.gang == k && match e.2.barrier with | some b => b.1.isNone | none => false).map Prod.fst
      (s.release ids g.phase.toNat).putGang k { g with arr := 0, phase := g.phase + 1 }

/-- A cluster barrier. -/
def State.barAt (s : State) (k : Nat) : Bar := SMap.getD s.bars k Bar.fresh

/-- Replace a cluster barrier. -/
def State.putBar (s : State) (k : Nat) (b : Bar) : State := { s with bars := SMap.setD s.bars k Bar.fresh b }

/-- Key of barrier `b` of the hart's launch in its cluster (R273). -/
def barKey (h : Hart) (g : Gang) (b : Nat) : Nat := (g.first / 24 * 16 + h.queue) * 32 + b

/-- Arrive at a cluster barrier (R273): the first arrival fixes the count, the last completes the phase. -/
def State.clusterArrive (s : State) (id k n : Nat) : State :=
  let b := s.barAt k
  let cnt := if b.arrived.isEmpty then n else b.count
  let all := b.arrived ++ [id]
  if cnt ≤ all.length then (s.release all (b.phase % 256)).putBar k ⟨0, [], b.phase + 1⟩
  else s.putBar k { b with count := cnt, arrived := all }

/-- A barrier's result: the phase completed, or 2^63 + the current phase on expiry (R273, R274). -/
def barExpired (phase : Nat) : W64 := BitVec.ofNat 64 (2 ^ 63 + phase)

/-- The current phase number of the barrier a hart has arrived at. -/
def State.phaseOf (s : State) (h : Hart) : Nat :=
  match h.barrier with
  | some (some k, _) => (s.barAt k).phase % 256
  | _ => ((s.gangAt h.gang).map fun g => g.phase.toNat).getD 0

/-- The hart leaves the barrier with a result. -/
def Hart.leaveBarrier (h : Hart) (d : Reg) (v : W64) : Hart := { h.setReg d v with barrier := none, released := none }

/-- BAR: `key` none is the gang's barrier; `arrive` counts the arrival (R273, R274) (DEDUCED, log 11). -/
def State.bar (s : State) (id : Nat) (h : Hart) (d : Reg) (key : Option Nat) (scope phase : Nat) (timeout : Option W64)
    (arrive : State → State) : Res :=
  match h.released with
  | some p => .hart s id (h.leaveBarrier d (BitVec.ofNat 64 p))
  | none =>
    if h.barrier.isSome then .wait s
    else if !s.settledFor id h scope then .busy s
    else
      let s1 := arrive (s.putHart id { h.empty d with barrier := some (key, phase) })
      match s1.hartAt id with
      | some h1 =>
        match h1.released with
        | some p => .hart s1 id (h1.leaveBarrier d (BitVec.ofNat 64 p))
        | none => if timeout = some 0 && !h.det then .hart s id (h.setReg d (barExpired phase)) else .wait (awake s1)
      | none => .wait s

/-- The timeout register of BAR. -/
def barTimeout (h : Hart) (o : SForm) : Option W64 := if o.eb 0 then some (h.reg o.b) else none

/-- Withdraw a hart's arrival (R274). -/
def State.withdrawArrival (s : State) (id : Nat) (h : Hart) : State :=
  match h.barrier with
  | some (some k, _) => let b := s.barAt k; s.putBar k { b with arrived := b.arrived.filter fun i => i != id }
  | some (none, _) =>
    match s.gangAt h.gang with
    | some g => s.putGang h.gang { g with arr := g.arr &&& ~~~(1#4 <<< h.slot) }
    | none => s
  | none => s

/-- BAR_GANG (R273): Arrives at the gang barrier. -/
def execBarGang (o : SForm) (s : State) : Host.Outcome State Fault Refusal :=
  run (.barGang o) (fun s id h g _ => 
    s.bar id h o.d none 1 g.phase.toNat (barTimeout h o) fun s =>
      (s.putGang h.gang { g with arr := g.arr ||| (1#4 <<< h.slot) }).gangBarrier h.gang) s

/-- BAR_CLUS (R273): Arrives at a cluster barrier with count n. -/
def execBarClus (o : SForm) (s : State) : Host.Outcome State Fault Refusal :=
  run (.barClus o) (fun s id h g _ => 
    let n := (h.reg o.a).toNat
    let k := barKey h g (bits n 4 0)
    s.bar id h o.d (some k) 2 ((s.barAt k).phase % 256) (barTimeout h o) fun s => s.clusterArrive id k (bits n 15 8)) s

/-! ## The work deque (R275, R276) -/

/-- The value returned when a deque is empty. -/
def dqEmpty : W64 := BitVec.ofNat 64 (2 ^ 63)

/-- Replace core p's deque. -/
def State.putDeque (s : State) (p : Nat) (l : List (BitVec 63)) : State := s.putCore p { s.coreAt p with deque := l }

/-- The oldest DQPOP that waits at core p and takes the next push (R276); under MODE.DET a blocked one is performed at its
hart's turn instead (R277). -/
def State.waitingPop (s : State) (p : Nat) : Option Park :=
  s.parks.find? fun x => x.kind == 3 && !x.refused && x.got.isNone && s.coreOfLcid x.pa == p &&
    match s.hartAt x.hart with | some h => !h.det | none => false

/-- Push an entry: a waiting DQPOP takes it, or it joins the tail (R276). -/
def State.dqEnter (s : State) (p : Nat) (v : BitVec 63) : State :=
  match s.waitingPop p with
  | some x => { s with parks := s.parks.map fun y => if y.serial = x.serial then { y with got := some v } else y }
  | none => s.putDeque p ((s.coreAt p).deque ++ [v])

/-- DQPUSH (R276): Pushes an entry at the tail of the core's deque. -/
def execDqpush (o : SForm) (s : State) : Host.Outcome State Fault Refusal :=
  run (.dqpush o) (fun s id h g _ =>
    if !s.settledFor id h 2 then .busy s
    else if 64 ≤ (s.coreAt g.first).deque.length then .hart s id (h.setReg o.d 1)
    else .hart (s.dqEnter g.first ((h.reg o.a).extractLsb' 0 63)) id (h.setReg o.d 0)) s

/-- DQPOP (R276): Pops the tail entry, waiting unless .nb. -/
def execDqpop (o : SForm) (s : State) : Host.Outcome State Fault Refusal :=
  run (.dqpop o) (fun s id h g _ =>
    let q := (s.coreAt g.first).deque
    match (s.parkOf id).bind Park.got, q.getLast? with
    | some x, _ => .hart (s.unpark id) id (h.later o.d (x.setWidth 64))
    | none, some x =>
      if s.isRefused id h then .wait s
      else .hart ((s.unpark id).putDeque g.first q.dropLast) id (h.later o.d (x.setWidth 64))
    | none, none =>
      if o.eb 0 then .hart s id (h.later o.d dqEmpty)
      else if s.isRefused id h then .wait s
      else s.parkAndWait id (s.lcidOf g.first) 0 3) s

/-- Whether the gang that held core p, with its deque, is saved and no gang is there now: steals wait (R29, R278). -/
def State.gangAway (s : State) (p : Nat) : Bool :=
  (s.gangOn p).isNone && s.lqs.any fun e =>
    match e.2.launch with
    | some la => la.saved.any fun x => x.gang.first ≤ p && p < x.gang.first + x.gang.g
    | none => false

/-- DQSTEAL (R276): Steals the head entry of a victim core's deque. -/
def execDqsteal (o : SForm) (s : State) : Host.Outcome State Fault Refusal :=
  run (.dqsteal o) (fun s id h _ _ =>
    let p := s.coreOfLcid (h.reg o.a).toNat
    if s.coreMoving p then .busy s
    else if s.gangAway p then .wait s
    else
      match (s.coreAt p).deque with
      | x :: t => .hart (s.putDeque p t) id (h.later o.d (x.setWidth 64))
      | [] => .hart s id (h.later o.d dqEmpty)) s

/-! ## The homes' and the barriers' own steps -/

/-- Whether a waiting request of a peer keeps those that came after it: a posted write that a page move or a migration
holds (R245, R396). -/
def State.peerHolds (s : State) (w : PeerWait) : Bool :=
  match w.op with
  | .write n _ => !s.storeReserved w.pa n
  | _ => false

/-- Whether a peer's request may be performed now: not behind a write that is held, not at a moving page or core, not at a
word a matrix engine reads, and a full/empty request only on words in the state it waits for, after the requests that
arrived before it. -/
def State.peerReady (s : State) (pa : Nat) (op : PeerOp) (place : Option Nat) : Bool :=
  !(s.peerWaits.any fun w => s.peerHolds w && match place with | some m => w.serial < m | none => true) &&
  (match s.home pa with | .ls p _ => !s.coreMoving p | _ => true) &&
  match op with
  | .read _ => true
  | .write n _ => !s.pageMoving pa && !s.storeReserved pa n
  | .atomic _ n _ _ => !s.pageMoving pa && !s.storeReserved pa n
  | .mark n full => !((List.range n).any fun i => s.markWaits place full (pa + 4 * i))
  | .fullEmpty k n _ =>
    !(k != 0 && s.storeReserved pa n) &&
    (k == 3 || s.wordsReady (if k = 2 then 1 else 0) pa n) && !s.servedBefore place pa n

/-- Perform a peer's request at its home, and answer it unless it is posted. -/
def State.performPeer (s : State) (pa : Nat) (op : PeerOp) : State :=
  let answer (s : State) (x : Option (BitVec 512)) : State := awake { s with peerAnswers := s.peerAnswers ++ [some x] }
  match op with
  | .read n =>
    answer (s.readTouch pa n) (if s.physPoison pa n then none else some (BitVec.ofNat 512 (s.physVal pa n)))
  | .write n v => awake ((s.physStore pa n (v.toNat % 2 ^ (8 * n))).touch pa)
  | .atomic fn n v v' =>
    let r := s.atomAt pa n fn (v.toNat % 2 ^ (8 * n)) (v'.toNat % 2 ^ (8 * n))
    answer r.1 (r.2.map (BitVec.ofNat 512))
  | .mark n full => answer (s.markWords ((List.range n).map fun i => pa + 4 * i) full) (some 0)
  | .fullEmpty k n v =>
    let r := s.feAct k pa (n / 4) (v.toNat % 2 ^ (8 * n))
    answer r.1 (r.2.map (BitVec.ofNat 512))

/-- A peer's request arrives at its home: performed, or it waits; a full/empty request that finds the park table full is
refused, and tried again later (R255). -/
def State.peerArrive (s : State) (pa : Nat) (op : PeerOp) : State :=
  if s.peerReady pa op none then s.performPeer pa op
  else
    let parks : Bool := match op with | .fullEmpty _ _ _ => true | _ => false
    let w : PeerWait := ⟨pa, op, parks && s.tableFull (s.parkHome pa), s.serial⟩
    State.bump { s with peerWaits := s.peerWaits ++ [w] }

/-- Perform the oldest waiting request of a peer that has become ready. -/
def State.servePeers (s : State) : State :=
  match s.peerWaits.find? fun x => !x.refused && s.peerReady x.pa x.op (some x.serial) with
  | some x => State.performPeer { s with peerWaits := s.peerWaits.filter fun y => y.serial != x.serial } x.pa x.op
  | none => s

/-- Try a peer's refused request again, as a new arrival (R255). -/
def State.retryPeer (s : State) (n : Nat) : State :=
  match s.peerWaits[n]? with
  | some x => if x.refused then awake (State.peerArrive { s with peerWaits := s.peerWaits.eraseIdx n } x.pa x.op) else s
  | none => s

/-- Run hart `id` as the current one. -/
def State.as (s : State) (id : Nat) : State := { s with cur := some id }

/-- FE_WAIT_SERVE (R266): A marking that changes a word's full/empty state serves the parked requests in arrival order. -/
def execFeWaitServe (s : State) : Host.Outcome State Fault Refusal :=
  match s.waitingAt s.who with
  | some (.ldf o) => run (.ldf o) (fun s id h _ _ => s.fe id h (feOf h 0 o)) (s.as s.who)
  | some (.ldfe o) => run (.ldfe o) (fun s id h _ _ => s.fe id h (feOf h 1 o)) (s.as s.who)
  | some (.ste o) => run (.ste o) (fun s id h _ _ => s.fe id h (feOf h 2 o)) (s.as s.who)
  | _ => .next s.servePeers

/-- WATCH_REEVALUATE (R271): A WAITA watch is re-evaluated after a waking STWK, and at least every 4,096 cycles. -/
def execWatchReevaluate (s : State) : Host.Outcome State Fault Refusal :=
  match s.waitingAt s.who with
  | some (.waita o) => run (.waita o) (fun s id h _ _ => s.waita id h o false) (s.as s.who)
  | _ => .next s

/-- Send a refused request again (R255): it is a new arrival, served or parked as it finds the home. Under MODE.DET it is
sent at its hart's turn of a later commit instead (R250). -/
def State.retryPark (s : State) (id : Nat) : State :=
  match s.parkOf id, s.hartAt id with
  | some p, some h => if p.refused && !h.det then awake (s.unpark id) else s
  | _, _ => s

/-- Peers' requests, as PARK_RETRY and FE_WAIT_SERVE name them: above every hart's key. -/
def peerKey : Nat := 0x1000000

/-- PARK_RETRY (R255): A waiting request refused by a full park table is retried after an interval that doubles up to 1,024 cycles. -/
def execParkRetry (s : State) : Host.Outcome State Fault Refusal :=
  .next (if peerKey ≤ s.who then s.retryPeer (s.who - peerKey) else s.retryPark s.who)

/-- BARRIER_RELEASE (R274): A completed barrier releases its waiting harts with the number of the phase that completed
(DEDUCED, log 11). -/
def execBarrierRelease (s : State) : Host.Outcome State Fault Refusal :=
  match s.waitingAt s.who with
  | some (.barGang o) => run (.barGang o) (fun s id h _ _ => s.bar id h o.d none 1 0 none fun s => s) (s.as s.who)
  | some (.barClus o) => run (.barClus o) (fun s id h _ _ => s.bar id h o.d none 2 0 none fun s => s) (s.as s.who)
  | _ => .next s

/-- The destination and timeout of a BAR. -/
def barOf : Instr → Option SForm
  | .barGang o => some o
  | .barClus o => some o
  | _ => none

/-- A barrier's timeout expires before completion (R274); none does under MODE.DET (R250). -/
def State.barrierTimeout (s : State) (id : Nat) : State :=
  match s.hartAt id, (s.waitingAt id).bind barOf with
  | some h, some o =>
    if h.det || h.released.isSome || h.barrier.isNone || !o.eb 0 then s
    else
      let v := barExpired (s.phaseOf h)
      awake ((s.withdrawArrival id h).putHart id (h.leaveBarrier o.d v).advance)
  | _, _ => s

/-- BARRIER_TIMEOUT (R274): A barrier timeout expires, the arrival is withdrawn and sd receives 2^63 plus the phase
number (DESIGN CHOICE, log 6). -/
def execBarrierTimeout (s : State) : Host.Outcome State Fault Refusal :=
  .next (s.barrierTimeout s.who)

end Sys2Proof.Machine
end

