-- ==== Sys2Proof/Machine/Copy.lean ====
section
/-! DEFINITION. The copy engines (R280 to R302): the transfer record and its stream, begin, landing a line, completion,
failure; CPUSH, CSTAT, CWAIT, CKILL and XROW. -/

namespace Sys2Proof.Machine

open Sys2Proof

/-! ## The transfer record (R282, R283) -/

namespace Rec

/-- Doubleword n of a fetched record. -/
def dw (r : List W64) (n : Nat) : Nat := (r.getD n 0).toNat
/-- OWN. -/
def own (r : List W64) : Bool := (dw r 0).testBit 63
/-- NEXT. -/
def next (r : List W64) : Nat := bits (dw r 0) 51 6
/-- CVAL. -/
def cval (r : List W64) : Nat := bits (dw r 1) 63 32
/-- PNC, PIN, SWAIT, CWEN. -/
def pnc (r : List W64) : Bool := (dw r 1).testBit 11
def pin (r : List W64) : Bool := (dw r 1).testBit 10
def swait (r : List W64) : Bool := (dw r 1).testBit 9
def cwen (r : List W64) : Bool := (dw r 1).testBit 8
/-- CH, DKIND, SKIND. -/
def ch (r : List W64) : Nat := bits (dw r 1) 6 4
def dkind (r : List W64) : Nat := bits (dw r 1) 3 2
def skind (r : List W64) : Nat := bits (dw r 1) 1 0
/-- SRC and DST. -/
def src (r : List W64) : Nat := dw r 2
def dst (r : List W64) : Nat := dw r 3
/-- N2, N1, N0. -/
def n2 (r : List W64) : Nat := bits (dw r 4) 63 48
def n1 (r : List W64) : Nat := bits (dw r 4) 47 32
def n0 (r : List W64) : Nat := bits (dw r 4) 20 0
/-- SS2, SS1, DS2, DS1. -/
def ss2 (r : List W64) : Int := sextNat 32 (bits (dw r 5) 63 32)
def ss1 (r : List W64) : Int := sextNat 32 (dw r 5)
def ds2 (r : List W64) : Int := sextNat 32 (bits (dw r 6) 63 32)
def ds1 (r : List W64) : Int := sextNat 32 (dw r 6)
/-- CADDR. -/
def caddr (r : List W64) : W64 := addrBits (r.getD 7 0)

/-- Whether source words are waited for (R287). -/
def waitsFull (r : List W64) : Bool := swait r && skind r != 0

/-- LCID, W and w0 of a descriptor. -/
def lcid (d : Nat) : Nat := bits d 40 32
def fw (d : Nat) : Nat := bits d 21 19 + 1
def fw0 (d : Nat) : Nat := bits d 18 15

/-- Whether a descriptor's unlisted bits are zero (R283). -/
def descOk (kind d : Nat) : Bool :=
  match kind with
  | 0 => bits d 63 52 == 0
  | 1 => bits d 31 22 == 0 && bits d 63 41 == 0
  | 2 => bits d 31 22 == 0 && bits d 63 41 == 0
  | _ => true

/-- Whether every reserved bit is zero (reason 1). -/
def reservedOk (r : List W64) : Bool :=
  bits (dw r 0) 62 52 == 0 && bits (dw r 0) 5 0 == 0 && bits (dw r 1) 31 12 == 0 && !(dw r 1).testBit 7 &&
  descOk (skind r) (src r) && descOk (dkind r) (dst r) && bits (dw r 4) 31 21 == 0 &&
  (if cwen r then bits (dw r 7) 63 52 == 0 && bits (dw r 7) 1 0 == 0 else dw r 7 == 0)

/-- The number of bytes of the stream. -/
def len (r : List W64) : Nat := n0 r * n1 r * n2 r

/-- The offsets os and od of stream byte k (R284). -/
def os (r : List W64) (k : Nat) : Int :=
  (k / (n0 r * n1 r) : Nat) * ss2 r + (k / n0 r % n1 r : Nat) * ss1 r + (k % n0 r : Nat)
def od (r : List W64) (k : Nat) : Int :=
  (k / (n0 r * n1 r) : Nat) * ds2 r + (k / n0 r % n1 r : Nat) * ds1 r + (k % n0 r : Nat)

/-- The local-store byte offset of byte o of a LOCAL or FIELD space. -/
def localOff (kind d : Nat) (o : Int) : Int :=
  if kind = 1 then (bits d 21 0 : Nat) + o
  else
    let b : Int := 4 * fw d
    ((bits d 14 0 : Nat) + o / b) * 64 + 4 * fw0 d + o % b

end Rec

/-- A byte of a space: a virtual address, or a byte of the core that bears an LCID. -/
inductive Spot where
  | va (a : W64)
  | ls (lcid : Nat) (off : Int)
  deriving DecidableEq, Repr

/-- Byte o of the space of a descriptor (R283). -/
def spotOf (kind d : Nat) (o : Int) : Spot :=
  if kind = 0 then .va (word64 ((bits d 51 0 : Nat) + o)) else .ls (Rec.lcid d) (Rec.localOff kind d o)

/-- Source and destination of stream byte k. -/
def Rec.source (r : List W64) (k : Nat) : Spot := spotOf (Rec.skind r) (Rec.src r) (Rec.os r k)
def Rec.dest (r : List W64) (k : Nat) : Spot := spotOf (Rec.dkind r) (Rec.dst r) (Rec.od r k)

/-- The line of a destination byte (R286). -/
def Spot.line : Spot → Nat × Int
  | .va a => (0, (a.toNat / 64 : Nat))
  | .ls c off => (c + 1, off / 64)

/-- Whether byte k is the first of the stream in its line. -/
def Rec.firstOfLine (r : List W64) (k : Nat) : Bool :=
  !((List.range k).any fun j => (Rec.dest r j).line == (Rec.dest r k).line)

/-- The next offset at or above k at which a line begins; the length when there is none. -/
def Rec.nextLine (r : List W64) (k : Nat) : Nat :=
  ((List.range (Rec.len r)).find? fun j => k ≤ j && Rec.firstOfLine r j).getD (Rec.len r)

/-- The stream bytes that fall in the line of byte k, in stream order. -/
def Rec.inLine (r : List W64) (k : Nat) : List Nat :=
  (List.range (Rec.len r)).filter fun j => (Rec.dest r j).line == (Rec.dest r k).line

/-! ## Physical addresses of a record's bytes -/

/-- Who a record's addresses are translated for. -/
def CRec.agent (c : CRec) : Agent := ⟨c.queue, c.first, false, c.first⟩

/-- The failure reason of an address fault (R292). -/
def copyReason (c : Cause) : Nat := if c = .dataXlate then 8 else 9

/-- The physical address of a byte, or the failure reason. A LCID is resolved when the byte is accessed (R302). -/
def State.spotPa (s : State) (a : Agent) (k : Access) : Spot → Except Nat Nat
  | .va v => match s.access a v k 0 with
    | .ok pa => .ok pa
    | .error c => .error (copyReason c)
  | .ls j off => .ok (s.lsPa j off.toNat)

/-- The requests of a copy engine to another device are kept under this name. -/
def engineId (p ch : Nat) : Nat := 2 ^ 32 + 16 * p + ch

/-- Forget an engine's answers, and its place among held accesses. -/
def State.dropEngine (s : State) (p ch : Nat) : State :=
  { s with
    remotes := s.remotes.filter fun r => r.hart != engineId p ch
    heldAt := s.heldAt.filter fun e => e.1 != engineId p ch }

/-- The same for every channel of core p's engine. -/
def State.dropEngines (s : State) (p : Nat) : State := (List.range 8).foldl (fun s ch => s.dropEngine p ch) s

/-- A source byte's value: `none` is poison. -/
def State.copyByte (s : State) (p ch pa : Nat) : Option Byte :=
  match s.home pa with
  | .remote => ((s.answerOf (engineId p ch) (pa / 8 * 8) (.read 8)).getD none).map fun v => v.extractLsb' (8 * (pa % 8)) 8
  | _ => if s.physPoison pa 1 then none else some (BitVec.ofNat 8 (s.physVal pa 1))

/-! ## Failure and abandonment (R292, R297) -/

/-- Drop the parameter-cache entries that satisfy f. -/
def State.dropPinned (s : State) (p : Nat) (f : PCache → Bool) : State :=
  let k := s.coreAt p
  s.putCore p { k with pcache := k.pcache.filter fun x => !f x }

/-- The name of a request of core p's engine that clears OWN for a launch of queue q, and whose queue a name is. -/
def ownId (p q : Nat) : Nat := 2 ^ 33 + 512 * q + p
def ownOfQueue (q id : Nat) : Bool := 2 ^ 33 ≤ id && (id - 2 ^ 33) / 512 == q

/-- The atomic AND that clears OWN (R288). -/
def ownRequest (p q pa serial : Nat) : AtomReq := ⟨ownId p q, 6, pa, 8, 0x7FFFFFFFFFFFFFFF, 0, serial, false, 0, .posted⟩

/-- Whether the home of a record of this device can take that request at this moment. -/
def State.ownFree (s : State) (p q pa : Nat) : Bool := s.home pa == .remote || s.homeFree (ownRequest p q pa 0)

/-- The home of a record, where OWN is cleared. -/
def State.ownPa (s : State) (c : CRec) : Option Nat := (s.access c.agent (BitVec.ofNat 64 c.addr) .atomic 0).toOption

/-- Clear OWN of the record at an address by an atomic AND at its home (R288, R292); that of a record abandoned or failed
is on its way there while the home cannot take it. The parameter cache keeps the record no longer (R291). -/
def State.clearOwn (s : State) (c : CRec) (p : Nat) : State :=
  let s := s.dropPinned p fun x => x.addr == c.addr
  match s.ownPa c with
  | some pa =>
    let a := ownRequest p c.queue pa s.serial
    if s.home pa != .remote && s.homeFree a then (s.atomAt pa 8 a.fn a.v.toNat 0).1 else (s.sendAtom a 0).bump
  | none => s

/-- Fill CPUSH's status register (R294): 0, or 2^63 + reason. -/
def State.fillStatus (s : State) (c : CRec) (v : Nat) : State :=
  match c.status with
  | some r => s.onHart c.hart fun h => { h with fills := h.fills ++ [⟨r, BitVec.ofNat 64 v, false⟩] }
  | none => s

/-- The status of a record abandoned before its begin (R294). -/
def State.abandonStatus (s : State) (c : CRec) (reason : Nat) : State :=
  if c.words.isNone && !c.chained then s.fillStatus c (2 ^ 63 + reason) else s

/-- Abandon records of core p: OWN is cleared, status 12 for one not begun. -/
def State.abandon (s : State) (p : Nat) (cs : List CRec) : State :=
  cs.foldl (fun s c => (s.abandonStatus c 12).clearOwn c p) s

/-- Fail a record of core p: the channel is in error and its other records are abandoned (R292). When the pusher's gang
has left the core, its launch remembers the error too. -/
def State.failRecord (s : State) (p : Nat) (c : CRec) (reason : Nat) : State :=
  let k := s.coreAt p
  let others := k.copies.filter fun x => x.ch == c.ch && x.serial != c.serial
  let here := match s.gangOn p with | some (_, g) => g.queue == c.queue | none => false
  let s := s.putCore p { k with
    copies := k.copies.filter fun x => x.ch != c.ch
    errs := SMap.put k.errs c.ch ⟨c.addr, reason⟩ }
  let s := if here then s else s.putLaunch c.queue ((s.launchAt c.queue).map fun l => { l with copyErr := true })
  awake ((((s.abandonStatus c reason).clearOwn c p).abandon p others).dropEngine p c.ch)

/-! ## Begin (R285) -/

/-- Replace the record with c's serial number. -/
def State.putRec (s : State) (p : Nat) (c : CRec) : State :=
  let k := s.coreAt p
  s.putCore p { k with copies := k.copies.map fun x => if x.serial = c.serial then c else x }

/-- Append a record to those of core p's engine. -/
def State.addRec (s : State) (p : Nat) (c : CRec) : State :=
  let k := s.coreAt p
  s.putCore p { k with copies := k.copies ++ [c] }

/-- Take a record off. -/
def State.dropRec (s : State) (p : Nat) (c : CRec) : State :=
  let k := s.coreAt p
  s.putCore p { k with copies := k.copies.filter fun x => x.serial != c.serial }

/-- Whether every LOCAL or FIELD byte of a stream lies in its core's local store (reason 11). -/
def State.spotsInside (s : State) (len : Nat) (f : Nat → Spot) : Bool :=
  (List.range len).all fun k =>
    match f k with
    | .va _ => true
    | .ls j off => 0 ≤ off && off < (s.lsSize (s.coreOfLcid j) : Nat)

/-- The lowest failing check of a fetched record (R285) (DEDUCED, log 29). -/
def State.recordReason (s : State) (c : CRec) (r : List W64) : Option Nat :=
  if !Rec.reservedOk r then some 1
  else if !Rec.own r then some 2
  else if Rec.ch r ≠ c.ch then some 3
  else if Rec.skind r = 3 || Rec.dkind r = 3 || Rec.n0 r = 0 || 2 ^ 20 < Rec.n0 r || Rec.n1 r = 0 || Rec.n2 r = 0 ||
    (Rec.skind r = 2 && 16 < Rec.fw0 (Rec.src r) + Rec.fw (Rec.src r)) ||
    (Rec.dkind r = 2 && 16 < Rec.fw0 (Rec.dst r) + Rec.fw (Rec.dst r)) then some 4
  else if !c.chain && (Rec.next r ≠ 0 || Rec.pin r || Rec.pnc r) then some 5
  else if (Rec.skind r ≠ 0 && 383 < Rec.lcid (Rec.src r)) || (Rec.dkind r ≠ 0 && 383 < Rec.lcid (Rec.dst r)) then some 6
  else if !s.spotsInside (Rec.len r) (Rec.source r) || !s.spotsInside (Rec.len r) (Rec.dest r) then some 11
  else none

/-- Mark the words of LOCAL and FIELD destinations empty (R285). -/
def State.markDest (s : State) (r : List W64) : State :=
  if Rec.dkind r = 0 then s
  else
    (List.range (Rec.len r)).foldl (fun s k =>
      match Rec.dest r k with
      | .ls j off => s.lsMark (s.coreOfLcid j) (off.toNat / 4 * 4) 1 false
      | .va _ => s) s

/-- Whether the marking of a LOCAL or FIELD destination is held behind a migration (R302, R380, R412). -/
def State.markHeld (s : State) (p : Nat) (c : CRec) (r : List W64) : Bool :=
  Rec.dkind r != 0 && s.coreHeld (engineId p c.ch) (s.lsPa (Rec.lcid (Rec.dst r)) 0)

/-- Whether a word of the destination that the record will mark is full and still read by a matrix engine (R205). -/
def State.markReserved (s : State) (r : List W64) : Bool :=
  Rec.dkind r != 0 && (s.cores.any fun e => !e.2.mqueue.isEmpty) &&
  (List.range (Rec.len r)).any fun k =>
    match Rec.dest r k with
    | .ls j off => s.storeReserved (s.lsPa j (off.toNat / 4 * 4)) 4
    | .va _ => false

/-- Source and destination of a record share a byte (R287). -/
def State.overlaps (s : State) (a : Agent) (r : List W64) : Bool :=
  let at1 (k : Access) (x : Spot) : Option Nat := match s.spotPa a k x with | .ok pa => some pa | .error _ => none
  let ds := (List.range (Rec.len r)).filterMap fun k => at1 .copyWrite (Rec.dest r k)
  (List.range (Rec.len r)).any fun k =>
    match at1 .copyRead (Rec.source r k) with
    | some pa => ds.contains pa
    | none => false

/-- Stream byte k of the source as it is now; a failing address gives none. -/
def State.sourceByte (s : State) (p : Nat) (c : CRec) (r : List W64) (k : Nat) : Option (Nat × Option Byte) :=
  match s.spotPa c.agent .copyRead (Rec.source r k) with
  | .ok pa => some (k, s.copyByte p c.ch pa)
  | .error _ => none

/-- Whether a record takes its source bytes at its begin: it overlaps its destination, and no source word is waited for
(R287). -/
def State.takesSource (s : State) (c : CRec) (r : List W64) : Bool := !Rec.waitsFull r && s.overlaps c.agent r

/-- Those source bytes. -/
def State.snapshot (s : State) (p : Nat) (c : CRec) (r : List W64) : SMap (Option Byte) :=
  if s.takesSource c r then (List.range (Rec.len r)).filterMap (s.sourceByte p c r) else []

/-- The reads at another device that those source bytes need. -/
def State.snapshotReads (s : State) (c : CRec) (r : List W64) : List (Nat × PeerOp × Nat) :=
  if s.takesSource c r then
    let far := (List.range (Rec.len r)).filterMap fun k =>
      match s.spotPa c.agent .copyRead (Rec.source r k) with
      | .ok pa => if s.home pa = .remote then some (pa / 8 * 8) else none
      | .error _ => none
    far.eraseDups.map fun pa => (pa, PeerOp.read 8, 0)
  else []

/-- Keep a pinned record in the parameter cache of 16, the oldest entry leaving it (R291) (DESIGN CHOICE, log 30). -/
def keepPinned (c : CRec) (r : List W64) (l : List PCache) : List PCache :=
  if Rec.pin r && !Rec.pnc r then
    let l := l.filter fun x => x.addr != c.addr
    (if 16 ≤ l.length then l.drop 1 else l) ++ [⟨c.queue, c.addr, c.ch, r⟩]
  else l

/-- Begin a record with the values fetched (R285, R290, R294); it waits to mark a destination that is migrating or that a
matrix engine reads, and for source bytes of another device that it takes at its begin. -/
def State.beginWith (s : State) (p : Nat) (c : CRec) (r : List W64) : State :=
  if c.chained && !Rec.own r then awake (s.dropRec p c)
  else
    match s.recordReason c r with
    | some n => s.failRecord p c n
    | none =>
      if s.markHeld p c r then s.takePlace (engineId p c.ch) (s.lsPa (Rec.lcid (Rec.dst r)) 0)
      else if s.markReserved r then s.endPlace (engineId p c.ch)
      else
      match s.askRemote (engineId p c.ch) (s.snapshotReads c r) with
      | some s' => s'
      | none =>
      let snap := s.snapshot p c r
      let s := (s.markDest r).dropEngine p c.ch
      let k := s.coreAt p
      let s := s.putCore p { k with pcache := keepPinned c r k.pcache }
      awake ((if c.chained then s else s.fillStatus c 0).putRec p
        { c with words := some r, off := Rec.nextLine r 0, snap := snap })

/-- Fetch a record: its words, a failure reason, or a wait, for another device or behind a migration (R380). -/
def State.fetchRecord (s : State) (p : Nat) (c : CRec) : Except (Sum Nat State) (List W64) :=
  match if c.chained then (s.coreAt p).pcache.find? fun x => x.queue == c.queue && x.addr == c.addr else none with
  | some x => .ok x.words
  | none =>
    match s.access c.agent (BitVec.ofNat 64 c.addr) .copyRead 0 with
    | .error e => .error (.inl (copyReason e))
    | .ok pa =>
      let pas := (List.range 8).map fun i => pa + 8 * i
      if s.coreHeld (engineId p c.ch) pa then .error (.inr (s.takePlace (engineId p c.ch) pa))
      else
      match (if s.home pa = .remote then s.askRemote (engineId p c.ch) (pas.map fun a => (a, .read 8, 0)) else none) with
      | some s' => .error (.inr s')
      | none =>
        let ws := pas.map fun a => s.loadAny (engineId p c.ch) Hart.fresh a 8
        if ws.any Option.isNone then .error (.inl 10) else .ok (ws.map fun x => BitVec.ofNat 64 (x.getD 0))

/-- Whether a request of core p's engine to clear OWN is still on its way: a chain goes on after it (R288, R292). -/
def State.ownOut (s : State) (p q : Nat) : Bool :=
  (s.atoms.any fun a => a.hart == ownId p q) || s.remotes.any fun r => r.hart == ownId p q

/-- Begin the next record of core p's engine, in push order (R281, R285) (DEDUCED, log 31). -/
def State.beginRecord (s : State) (p : Nat) : State :=
  let k := s.coreAt p
  match k.copies.find? fun c => c.words.isNone with
  | none => s
  | some c =>
    if s.coreMoving p || (c.chained && s.ownOut p c.queue) then s
    else if (SMap.find k.errs c.ch).isSome then awake (((s.abandonStatus c 12).clearOwn c p).dropRec p c)
    else
      match s.fetchRecord p c with
      | .ok r => s.beginWith p c r
      | .error (.inl n) => s.failRecord p c n
      | .error (.inr s') => s'

/-! ## Landing a line (R286, R287) -/

/-- The source bytes of a line: a failure reason, an open request or a wait, or the bytes in stream order. -/
inductive LineRead where
  | bytes (bs : List Byte)
  | fails (reason : Nat)
  | waits (s : State)

/-- Whether a source byte's word must still become full; a GLOBAL source ignores SWAIT (R287). -/
def State.sourceWaits (s : State) (swait : Bool) (pa : Nat) : Bool :=
  match s.home pa with
  | .ls p off => s.coreMoving p || (swait && (s.lsFull p (off / 4 * 4) 1).any not)
  | _ => false

/-- Read the source bytes of the listed stream positions. -/
def State.readLine' (s : State) (p : Nat) (c : CRec) (r : List W64) (ks : List Nat) : LineRead :=
  let pas := ks.map fun k => s.spotPa c.agent .copyRead (Rec.source r k)
  match pas.findSome? fun x => match x with | .error n => some n | .ok _ => none with
  | some n => .fails n
  | none =>
    let as := pas.map fun x => match x with | .ok pa => pa | .error _ => 0
    let far := (as.filter fun pa => s.home pa == .remote).map fun pa => (pa / 8 * 8, PeerOp.read 8, 0)
    match s.askRemote (engineId p c.ch) far with
    | some s' => .waits s'
    | none =>
      if as.any (s.coreHeld (engineId p c.ch)) then .waits ((as.take 1).foldl (fun s pa => s.takePlace (engineId p c.ch) pa) s)
      else if as.any fun pa => s.sourceWaits (Rec.waitsFull r) pa then .waits (s.endPlace (engineId p c.ch))
      else
        let bs := (ks.zip as).map fun x => (SMap.find c.snap x.1).getD (s.copyByte p c.ch x.2)
        if bs.any Option.isNone then .fails 10 else .bytes (bs.map fun b => b.getD 0)

/-- Source bytes after a line's that share an aligned 8-byte word with one of its own: they are read with it (R287). -/
def State.readAhead (s : State) (p : Nat) (c : CRec) (r : List W64) (ks : List Nat) : SMap (Option Byte) :=
  let word (k : Nat) : Option Nat := match s.spotPa c.agent .copyRead (Rec.source r k) with
    | .ok pa => if s.sourceWaits (Rec.waitsFull r) pa then none else some (pa / 8)
    | .error _ => none
  let near := ks.flatMap fun k => ((List.range 7).map fun i => k + 1 + i).filter fun j =>
    j < Rec.len r && !ks.contains j && (word j).isSome && word j == word k
  near.foldl (fun m j => match SMap.find m j, s.sourceByte p c r j with
    | none, some x => SMap.put m j x.2
    | _, _ => m) c.snap

/-- Consecutive bytes gathered into writes. -/
def gather : List (Nat × Byte) → List (Nat × List Byte)
  | [] => []
  | (a, b) :: t =>
    match gather t with
    | (a', bs) :: rest => if a' = a + 1 then (a, b :: bs) :: rest else (a, [b]) :: (a', bs) :: rest
    | [] => [(a, [b])]

/-- The bytes of a line as address and value, the later in stream order remaining (R284), in address order. -/
def lastBytes (l : List (Nat × Byte)) : List (Nat × Byte) := l.foldl (fun m x => SMap.put m x.1 x.2) ([] : SMap Byte)

/-- Write bytes of one line and mark full the local-store words they touch (R286). -/
def State.landBytes (s : State) (l : List (Nat × Byte)) : State :=
  let s := (gather (lastBytes l)).foldl (fun s x => s.physWrite x.1 x.2) s
  l.foldl (fun s x =>
    match s.home x.1 with
    | .ls p off => s.lsMark p (off / 4 * 4) 1 true
    | _ => s) s

/-- Physical address of stream byte k of the source. -/
def State.sourcePa (s : State) (c : CRec) (r : List W64) (k : Nat) : Option Nat :=
  (s.spotPa c.agent .copyRead (Rec.source r k)).toOption

/-- Bytes by address as the runs of consecutive ones of one line. -/
def lineRuns (b : SMap Byte) : List (Nat × List Byte) :=
  (gather b).flatMap fun x =>
    (List.range ((x.1 % 64 + x.2.length + 63) / 64)).map fun j =>
      let lo := if j = 0 then 0 else 64 * j - x.1 % 64
      (x.1 + lo, (x.2.drop lo).take (64 - (x.1 + lo) % 64))

/-- The reads of a line's source bytes: the requests for its lines are touches, and what rows give is logged (R393,
R376). -/
def State.noteSources (s : State) (c : CRec) (r : List W64) (ks : List Nat) (t : State) : State :=
  (lineRuns (lastBytes ((ks.filterMap (s.sourcePa c r)).map fun pa => (pa, (0 : Byte))))).foldl
    (fun t x => t.readTouch x.1 x.2.length) t

/-- Land the next line of a begun record; the requests for its source and destination lines count as touches (R286, R287,
R393) (DEDUCED, log 31). -/
def State.landLine (s : State) (p : Nat) (c : CRec) (r : List W64) : State :=
  let ks := Rec.inLine r c.off
  match s.readLine' p c r ks with
  | .fails n => s.failRecord p c n
  | .waits s' => s'
  | .bytes bs =>
    let pas := ks.map fun k => s.spotPa c.agent .copyWrite (Rec.dest r k)
    match pas.findSome? fun x => match x with | .error n => some n | .ok _ => none with
    | some n => s.failRecord p c n
    | none =>
      let as := pas.map fun x => match x with | .ok pa => pa | .error _ => 0
      if as.any fun pa => s.coreHeld (engineId p c.ch) pa then (as.take 1).foldl (fun s pa => s.takePlace (engineId p c.ch) pa) s
      else if as.any fun pa => s.storeReserved pa 1 || s.pageMoving pa then s.endPlace (engineId p c.ch)
      else
        let ahead := s.readAhead p c r ks
        let s1 := (s.landBytes (as.zip bs)).dropEngine p c.ch
        let s2 := s.noteSources c r ks ((as.take 1).foldl State.touch s1)
        awake (s2.putRec p { c with off := Rec.nextLine r (c.off + 1), snap := ahead })

/-- The record of a channel whose lines land: the earliest of the channel, when begun (R281). -/
def State.activeRec (s : State) (p ch : Nat) : Option (CRec × List W64) :=
  match (s.coreAt p).copies.find? fun c => c.ch == ch with
  | some c => c.words.map fun r => (c, r)
  | none => none

/-- Land a line of channel ch of core p. -/
def State.copyLand (s : State) (p ch : Nat) : State :=
  if s.coreMoving p then s
  else
    match s.activeRec p ch with
    | some (c, r) => if c.off < Rec.len r then s.landLine p c r else s
    | none => s

/-! ## Completion (R288, R290) -/

/-- Write the completion word; a failure reason if its address fails. -/
def State.completionWord (s : State) (c : CRec) (r : List W64) : Except Nat State :=
  if !Rec.cwen r then .ok s
  else
    match s.access c.agent (Rec.caddr r) .copyWrite 0 with
    | .error e => .error (copyReason e)
    | .ok pa =>
      let s := s.physStore pa 4 (Rec.cval r)
      .ok (match s.home pa with | .ls p off => s.lsMark p off 1 true | _ => s)

/-- Whether the completion word of a record cannot be written now. -/
def State.wordHeld (s : State) (p : Nat) (c : CRec) (r : List W64) : Bool :=
  Rec.cwen r && match s.access c.agent (Rec.caddr r) .copyWrite 0 with
    | .ok pa => s.pageMoving pa || s.storeReserved pa 4 || s.coreHeld (engineId p c.ch) pa
    | .error _ => false

/-- Take a complete record off; the record that NEXT names follows as though pushed now (R290). -/
def State.afterRecord (s : State) (p : Nat) (c : CRec) (r : List W64) : State :=
  let next : CRec := { c with addr := 64 * Rec.next r, words := none, off := 0, snap := [], chained := true }
  let t := (s.dropEngine p c.ch).dropRec p c
  awake (if Rec.next r = 0 then t else t.addRec p next)

/-- Complete a record of this device, or one that stays pinned: the completion word, OWN, the chain (R288). -/
def State.completeHere (s : State) (p : Nat) (c : CRec) (r : List W64) : State :=
  match s.completionWord c r with
  | .error n => s.failRecord p c n
  | .ok s => (if Rec.pin r then s else s.clearOwn c p).afterRecord p c r

/-- Whether the engine of core p has asked another device to clear OWN and the record is not yet taken off: one of channel
ch, or of any. -/
def State.ownAsked (s : State) (p : Nat) (ch : Option Nat) : Bool :=
  s.remotes.any fun x =>
    (match ch with | some n => x.hart == engineId p n | none => (List.range 8).any fun n => x.hart == engineId p n) &&
    match x.op with
    | .atomic _ _ _ _ => true
    | _ => false

/-- Complete a record that lies at another device: the completion word, the request that clears OWN, and with its answer
the chain (R288, R389). -/
def State.completeFar (s : State) (p : Nat) (c : CRec) (r : List W64) (pa : Nat) : State :=
  let id := engineId p c.ch
  let op := (ownRequest p c.queue pa 0).peerOp
  if (s.answerOf id pa op).isSome then s.afterRecord p c r
  else if s.ownAsked p (some c.ch) then s
  else
    match s.completionWord c r with
    | .error n => s.failRecord p c n
    | .ok s => awake ((s.dropPinned p fun x => x.addr == c.addr).askRemote id [(pa, op, 0)] |>.getD s)

/-- Complete the record of channel ch whose lines have all landed (R288, R290). -/
def State.copyComplete (s : State) (p ch : Nat) : State :=
  if s.coreMoving p && !s.ownAsked p (some ch) then s
  else
    match s.activeRec p ch with
    | some (c, r) =>
      if c.off < Rec.len r || (!s.ownAsked p (some ch) && s.wordHeld p c r) then s
      else
        match if Rec.pin r then none else s.ownPa c with
        | none => s.completeHere p c r
        | some pa =>
          if s.home pa = .remote then s.completeFar p c r pa
          else if s.ownFree p c.queue pa then s.completeHere p c r else s
    | none => s

/-! ## The instructions (R293 to R298) -/

/-- CPUSH (R294): Pushes a transfer record into a copy channel. -/
def execCpush (o : SForm) (s : State) : Host.Outcome State Fault Refusal :=
  run (.cpush o) (fun s id h g _ => 
    let va := h.reg o.a
    let p := g.first + o.cE
    if va.toNat % 64 ≠ 0 then .stop s .align va none
    else
      match s.access (s.agentOf h) va .atomic 0 with
      | .error c => .stop s c va none
      | .ok _ =>
        if 64 ≤ (s.coreAt p).copies.length then .wait s
        else if !s.settledFor id h 3 then .busy s
        else
          let s := s.dropPinned p fun x => x.addr == va.toNat
          let c : CRec := ⟨s.serial, id, h.queue, g.first, va.toNat, o.cCh, h.gate 4, if o.d = 0 then none else some o.d, none, 0, [], false⟩
          .hart (s.addRec p c).bump id (h.empty o.d)) s

/-- CSTAT's snapshot (R295). -/
def State.copyStatus (s : State) (p ch : Nat) : W64 :=
  let k := s.coreAt p
  let n := (k.copies.filter fun c => c.ch == ch).length
  let e := match SMap.find k.errs ch with
    | some e => 2 ^ 63 + e.addr / 64 * 64 + e.reason
    | none => 0
  BitVec.ofNat 64 (e + n * 2 ^ 52)

/-- CSTAT (R295): Snapshot of a copy channel's state. -/
def execCstat (o : SForm) (s : State) : Host.Outcome State Fault Refusal :=
  run (.cstat o) (fun s id h g _ => .hart s id (h.setReg o.d (s.copyStatus (g.first + o.cE) o.cCh))) s

/-- Channels a CWAIT covers (R296). -/
def waitChannels (o : SForm) : List Nat := if o.eb 5 then List.range 8 else [o.cCh]

/-- The error of the lowest listed channel in error, as TVAL. -/
def State.copyError (s : State) (p : Nat) (chs : List Nat) : Option W64 :=
  chs.findSome? fun ch => (SMap.find (s.coreAt p).errs ch).map fun e => BitVec.ofNat 64 (e.addr + e.reason)

/-- CWAIT (R296): the records are those pushed before its issue; `expired` ends the wait. -/
def State.cwait (s : State) (id : Nat) (h : Hart) (g : Gang) (o : SForm) (expired : Bool) : Res :=
  let p := g.first + o.cE
  let chs := waitChannels o
  let now := (s.coreAt p).copies
  let mine := h.cwait.getD ((now.filter fun c => chs.contains c.ch).map fun c => c.serial)
  if now.any fun c => mine.contains c.serial then
    if (expired || (o.eb 6 && h.reg o.b == 0)) && !h.det then .stop s .waitTimeout (BitVec.ofNat 64 o.cCh) none
    else .wait (s.putHart id { h with cwait := some mine })
  else
    match s.copyError p chs with
    | some tv => .stop s .copyRec tv none
    | none => .done s

/-- CWAIT (R296): Waits until earlier records of the channel are done, or traps on error. -/
def execCwait (o : SForm) (s : State) : Host.Outcome State Fault Refusal :=
  run (.cwait o) (fun s id h g _ => s.cwait id h g o false) s

/-- CKILL (R297): Abandons a channel's records and clears its error. -/
def execCkill (o : SForm) (s : State) : Host.Outcome State Fault Refusal :=
  run (.ckill o) (fun s id h g _ => 
    let p := g.first + o.cE
    let k := s.coreAt p
    let mine := k.copies.filter fun c => c.ch == o.cCh
    let s := s.putCore p { k with
      copies := k.copies.filter fun c => c.ch != o.cCh
      errs := SMap.del k.errs o.cCh
      pcache := k.pcache.filter fun x => x.ch != o.cCh }
    let s := (s.abandon p mine).dropEngine p o.cCh
    .hart s id (((s.hartAt id).getD h).setReg o.d (BitVec.ofNat 64 mine.length))) s

/-- CKILL_REL (R297): Releases a pinned record back to software. -/
def execCkillRel (o : SForm) (s : State) : Host.Outcome State Fault Refusal :=
  run (.ckillRel o) (fun s id h g _ => 
    let va := h.reg o.a
    let p := g.first + o.cE
    if va.toNat % 64 ≠ 0 then .stop s .align va none
    else
      match s.access (s.agentOf h) va .atomic 0 with
      | .error c => .stop s c va none
      | .ok pa =>
        let free (s : State) : State := s.dropPinned p fun x => x.addr == va.toNat
        if s.accessHeld id pa 8 then s.holdHere id pa
        else if !s.settledFor id h 3 then .busy s
        else if s.home pa = .remote then
          match s.askRemote id [(pa, (ownRequest p h.queue pa 0).peerOp, 0)] with
          | some s' => .busy s'
          | none => .done (free s)
        else if !s.ownFree p h.queue pa then .busy s
        else
          let c : CRec := ⟨0, id, h.queue, g.first, va.toNat, 0, false, none, none, 0, [], false⟩
          .done ((free s).clearOwn c p)) s

/-- Move one row and mark it full (R298). -/
def State.moveRow (s : State) (src dst : Nat) : State :=
  ((s.noteRow src (List.range 16)).writeRow dst 0 512 (s.rowAt src).data.toNat).markRow dst 0xFFFF true

/-- XROW's last r of n rows in ascending order (R298): the state, and the row at which it waits or meets poison. `late`
are the rows that an earlier load of the hart has still to fill. -/
def State.xrow (s : State) (key : Nat → Nat) (late : List Nat) (qd qs n : Nat) : Nat → State × Nat × Bool
  | 0 => (s, n, false)
  | r + 1 =>
    let j := n - (r + 1)
    let all := List.range 16
    if !(s.rowAt (key (qs + j))).fullAt all || late.contains (key (qd + j)) || s.reserved (key (qd + j)) all then
      (s, j, false)
    else if all.any fun x => s.wordBad (key (qs + j)) x then (s.noteRow (key (qs + j)) all, j, true)
    else (s.moveRow (key (qs + j)) (key (qd + j))).xrow key late qd qs n r

/-- XROW (R298): Synchronous copy of whole rows within the grant. -/
def execXrow (o : SForm) (s : State) : Host.Outcome State Fault Refusal :=
  run (.xrow o) (fun s id h g _ =>
    let qs := (h.reg o.a).toNat
    let n := (h.reg o.b).toNat
    let r := s.xrow (s.indexKey g h.slot o.cE) (h.vfills.map VFill.row) (h.reg o.d).toNat qs n (n - h.done)
    if r.2.2 then .stop r.1 .poison (BitVec.ofNat 64 (qs + r.2.1)) none
    else if r.2.1 = n then .done r.1
    else .wait (r.1.putHart id { h with done := r.2.1 })) s

/-! ## The engine's own steps, and the expiry of a wait -/

/-- COPY_RECORD_BEGIN (R285): The copy engine fetches a pushed record, checks it and marks its destination words empty. -/
def execCopyRecordBegin (s : State) : Host.Outcome State Fault Refusal :=
  .next (s.beginRecord s.who)

/-- COPY_LINE_LAND (R286): One destination line of a copy record is written atomically and its words are marked full. -/
def execCopyLineLand (core : Nat) (ch : Nat) (s : State) : Host.Outcome State Fault Refusal :=
  .next (s.copyLand core ch)

/-- COPY_RECORD_COMPLETE (R288): After its last line lands, the record writes its completion word and clears OWN. -/
def execCopyRecordComplete (core : Nat) (ch : Nat) (s : State) : Host.Outcome State Fault Refusal :=
  .next (s.copyComplete core ch)

/-- A wait expires (R267): the request is withdrawn and nothing changes. -/
def State.feExpire (s : State) (id : Nat) (h : Hart) (f : Fe) : Res :=
  match s.fe id h f with
  | .wait s' => if f.timeout.isSome && !h.det then .stop (s.unpark id) .waitTimeout f.va none else .wait s'
  | .busy s' => if f.timeout.isSome && !h.det then .stop (s.unpark id) .waitTimeout f.va none else .busy s'
  | r => r

/-- WAIT_TIMEOUT_EXPIRE (R267): A wait's timeout runs out; the request is withdrawn and WAIT_TIMEOUT is raised, or a
WAITA returns the current value (DESIGN CHOICE, log 6). -/
def execWaitTimeoutExpire (s : State) : Host.Outcome State Fault Refusal :=
  match s.waitingAt s.who with
  | some (.ldf o) => run (.ldf o) (fun s id h _ _ => s.feExpire id h (feOf h 0 o)) (s.as s.who)
  | some (.ldfe o) => run (.ldfe o) (fun s id h _ _ => s.feExpire id h (feOf h 1 o)) (s.as s.who)
  | some (.ste o) => run (.ste o) (fun s id h _ _ => s.feExpire id h (feOf h 2 o)) (s.as s.who)
  | some (.waita o) => run (.waita o) (fun s id h _ _ => s.waita id h o (waitaTimeout h o).isSome) (s.as s.who)
  | some (.cwait o) => run (.cwait o) (fun s id h g _ => s.cwait id h g o (o.eb 6)) (s.as s.who)
  | _ => .next s

end Sys2Proof.Machine
end

