-- ==== Sys2Proof/Machine/Pantry.lean ====
section
/-! DEFINITION. The Pantry (R303 to R323): tuples, patterns and matching, service at the home slice, PDEP, PCOPY, PTAKE,
PCNL and PCNT, replies, retries and timeouts, and the settling of a hart's requests. -/

namespace Sys2Proof.Machine

open Sys2Proof

/-! ## Requests and patterns (R307, R308) -/

/-- The fields of a Pantry instruction. -/
def pform : Instr → SForm
  | .pdep o => o
  | .pcopy o => o
  | .ptake o => o
  | .pcnl o => o
  | .pcnt o => o
  | _ => ⟨0, 0, 0, false, false, 0, 0⟩

/-- Whether a request is a PCOPY or a PTAKE. -/
def isGet : Instr → Bool
  | .pcopy _ => true
  | .ptake _ => true
  | _ => false

/-- Whether fields match the codes of a pattern, whose values come in field order (R308). -/
def patMatch (sr : Bool) : List Nat → List W64 → List W64 → Bool
  | [], _, [] => true
  | 1 :: cs, v :: vs, f :: fs => f == v && patMatch sr cs vs fs
  | 2 :: cs, lo :: hi :: vs, f :: fs =>
    (if sr then lo.sle f && f.sle hi else lo.ule f && f.ule hi) && patMatch sr cs vs fs
  | 0 :: cs, vs, _ :: fs => patMatch sr cs vs fs
  | 3 :: cs, vs, _ :: fs => patMatch sr cs vs fs
  | _, _, _ => false

/-- Whether a tuple of the region matches a request. -/
def PMsg.fits (m : PMsg) (fields : List W64) : Bool :=
  let o := pform m.instr
  patMatch (o.eb 19) ((List.range o.pK).map o.pCode) m.vals fields

/-- The bound fields of a pattern, by number (R308). -/
def boundFields (o : SForm) : List Nat := (List.range o.pK).filter fun j => o.pCode j == 3

/-- Bytes a tuple takes (R307). -/
def tupleBytes (fields : List W64) : Nat := 8 * (fields.length + 1)

/-! ## Service at the home slice (R315) -/

/-- The bytes of a region stored at a slice. -/
def State.stored (s : State) (sl n : Nat) : Nat :=
  ((s.tuples.filter fun t => t.1 == sl && t.2.region == n).map fun t => tupleBytes t.2.fields).sum

/-- Whether a region's storage at a slice has room for a tuple (R303, R307). -/
def State.hasRoom (s : State) (sl n : Nat) (fields : List W64) : Bool :=
  s.stored sl n + tupleBytes fields ≤ 4096 * Region.cap (s.region n)

/-- Send a reply (R312). -/
def State.preply (s : State) (m : PMsg) (status : W64) (fields : List W64) : State :=
  { s with preplies := s.preplies ++ [⟨m.serial, m.hart, status, fields⟩] }

/-- Drop a request of a hart: its reply or acceptance has come (R311). -/
def State.dropReq (s : State) (id serial : Nat) : State :=
  s.onHart id fun h => { h with preqs := h.preqs.filter fun p => p.serial != serial }

/-- A deposit is accepted: stored or handed over (R318), or, with .nb, answered with status 0 (R313). -/
def State.accept (s : State) (m : PMsg) : State :=
  if (pform m.instr).eb 20 then s.preply m 0 [] else s.dropReq m.hart m.serial

/-- The parked requests of slice sl that satisfy p. -/
def State.parkedAt (s : State) (sl : Nat) (p : PMsg → Bool) : List PMsg := s.pparks.filter fun m => m.slice == sl && p m

/-- Take an entry out of the park table. -/
def State.pUnpark (s : State) (serial : Nat) : State :=
  { s with pparks := s.pparks.filter fun m => m.serial != serial }

/-- Whether an entry is a parked deposit of region n. -/
def PMsg.depositOf (n : Nat) (m : PMsg) : Bool :=
  m.region == n && match m.instr with | .pdep _ => true | _ => false

/-- Enter a tuple into storage, in age order among equals of its slice. -/
def State.storeTuple (s : State) (m : PMsg) : State :=
  { s with tuples := s.tuples ++ [(m.slice, ⟨m.region, m.age, m.vals⟩)] }

/-- Store parked deposits in park order while the oldest fits. -/
def State.storeParked (s : State) (sl n : Nat) : Nat → State
  | 0 => s
  | k + 1 =>
    match (s.parkedAt sl (PMsg.depositOf n)).head? with
    | some m =>
      if s.hasRoom sl n m.vals then ((((s.pUnpark m.serial).storeTuple m).accept m)).storeParked sl n k else s
    | none => s

/-- The tuples of a region at a slice, stored and parked, as age, fields and the parked message (R307). -/
def State.candidates (s : State) (sl n : Nat) : List (Nat × List W64 × Option PMsg) :=
  ((s.tuples.filter fun t => t.1 == sl && t.2.region == n).map fun t => (t.2.age, t.2.fields, none)) ++
  (s.parkedAt sl (PMsg.depositOf n)).map fun m => (m.age, m.vals, some m)

/-- The listed candidate of least age. -/
def oldest : List (Nat × List W64 × Option PMsg) → Option (Nat × List W64 × Option PMsg)
  | [] => none
  | c :: t =>
    match oldest t with
    | some d => if d.1 < c.1 then some d else some c
    | none => some c

/-- Park a message, or refuse it when the slice's table of 256 is full (R315, R316). -/
def State.pPark (s : State) (m : PMsg) : State :=
  if 256 ≤ (s.parkedAt m.slice fun _ => true).length then { s with pmsgs := s.pmsgs ++ [{ m with refused := true }] }
  else { s with pparks := s.pparks ++ [m] }

/-- Serve a PCOPY or PTAKE (R315, R317). -/
def State.serveGet (s : State) (m : PMsg) (take : Bool) : State :=
  match oldest ((s.candidates m.slice m.region).filter fun c => m.fits c.2.1) with
  | some (age, fields, from?) =>
    let s := s.preply m 0 fields
    if take then
      let s :=
        match from? with
        | some d => (s.pUnpark d.serial).accept d
        | none => { s with tuples := s.tuples.filter fun t => !(t.1 == m.slice && t.2.region == m.region && t.2.age == age) }
      s.storeParked m.slice m.region s.pparks.length
    else s
  | none =>
    if (pform m.instr).eb 20 then s.preply m 1 []
    else if m.timeout = some 0 && !s.detHart m.hart then s.preply m 3 []
    else s.pPark m

/-- Offer a deposit to the parked requests in park order: whether a PTAKE took it (R315). -/
def State.offer (s : State) (d : PMsg) : List PMsg → State × Bool
  | [] => (s, false)
  | p :: t =>
    if p.fits d.vals then
      let s := (s.pUnpark p.serial).preply p 0 d.vals
      match p.instr with
      | .ptake _ => (s.accept d, true)
      | _ => s.offer d t
    else s.offer d t

/-- Serve a deposit (R315); its age is its place in the order of arrivals (R307). -/
def State.serveDep (s : State) (m : PMsg) : State :=
  let d := { m with age := s.pages }
  let s := { s with pages := s.pages + 1 }
  let r := s.offer d (s.parkedAt d.slice fun p => p.region == d.region && isGet p.instr)
  if r.2 then r.1
  else if r.1.hasRoom d.slice d.region d.vals then (r.1.storeTuple d).accept d
  else if (pform d.instr).eb 20 then r.1.preply d 1 []
  else r.1.pPark d

/-- Answer a message that finds its region disabled, or disabled since its issue (R305). -/
def State.serveStale (s : State) (m : PMsg) : State :=
  match m.instr with
  | .pcnt _ => s.preply m 0 []
  | .pdep o => if o.eb 20 then s.preply m 4 [] else s.dropReq m.hart m.serial
  | _ => s.preply m 4 []

/-- Serve PCNL: its target is the serial number it carries (R313) (DEDUCED, log 34). -/
def State.serveCancel (s : State) (m : PMsg) : State :=
  let t := (m.vals.getD 0 0).toNat
  match (s.pparks ++ s.pmsgs.filter PMsg.refused).find? fun x => x.serial == t with
  | some x =>
    let s := { s.pUnpark t with pmsgs := s.pmsgs.filter fun y => y.serial != t }
    (s.preply x 2 []).preply m 0 []
  | none => s.preply m 1 []

/-- Serve a message at its home slice (R305, R315). -/
def State.serveMsg (s : State) (m : PMsg) : State :=
  match m.instr with
  | .pcnl _ => s.serveCancel m
  | i =>
    if m.stale || !Region.en (s.region m.region) then s.serveStale m
    else
      match i with
      | .pdep _ => s.serveDep m
      | .ptake _ => s.serveGet m true
      | .pcopy _ => s.serveGet m false
      | _ =>
        let n := ((s.candidates m.slice m.region).filter fun c => m.fits c.2.1).length
        s.preply m (BitVec.ofNat 64 n) []

/-- Serve the message at index n of those in flight, once earlier messages of its hart to the slice have arrived
(R311). -/
def State.serveNth (s : State) (n : Nat) : State :=
  match s.pmsgs[n]? with
  | none => s
  | some m =>
    if m.refused || ((s.pmsgs.take n).any fun e => e.hart == m.hart && e.slice == m.slice && !e.refused) then s
    else awake ({ s with pmsgs := s.pmsgs.eraseIdx n }.serveMsg m)

/-! ## Delivering a reply (R312) -/

/-- Whether the row a reply to hart `id` writes cannot be written now: reserved by an engine, or its core is migrating; a
row of the hart's own gang is written before the gang moves (R319). -/
def State.rowHeld (s : State) (id : Nat) (pa : Option Nat) : Bool :=
  match pa with
  | none => false
  | some a =>
    s.storeReserved a 64 ||
    match s.home a with
    | .ls p _ => s.coreMoving p && (s.gangOn p).map Prod.fst != (s.hartAt id).map Hart.gang
    | _ => false

/-- Write the bound fields of the scalar form to consecutive registers. -/
def Hart.putBound (h : Hart) (res : Nat) : List W64 → Hart
  | [] => h
  | v :: t => (h.setReg (rg res) v).putBound (res + 1) t

/-- Write the bound fields of the row form, and mark their words full. -/
def State.putRowFields (s : State) (pa : Nat) (ok : Bool) (fields : List W64) (js : List Nat) : State :=
  js.foldl (fun s j =>
    let s := if ok then s.physStore (pa + 8 * j) 8 (fields.getD j 0).toNat else s
    match s.home pa with
    | .ls p off => s.lsMark p (off + 8 * j) 2 true
    | _ => s) s

/-- Deliver a reply to the hart's request. -/
def State.deliverReply (s : State) (p : PReq) (r : PReply) : State :=
  let o := pform p.instr
  let js := if isGet p.instr then boundFields o else []
  let ok := r.status == 0
  let s := match p.rowPa with
    | some pa => s.putRowFields pa ok r.fields js
    | none => s
  let s := { s with preplies := s.preplies.filter fun x => x.serial != r.serial, asleep := [] }
  s.onHart r.hart fun h =>
    let h := { h with preqs := h.preqs.filter fun x => x.serial != r.serial }
    let h := if p.rowPa.isSome then h
      else h.putBound o.pRes (js.map fun j => if ok then r.fields.getD j 0 else 0)
    match p.status with
    | some d => h.setReg d r.status
    | none => h

/-- The request a reply answers. -/
def State.reqOf (s : State) (r : PReply) : Option PReq :=
  (s.hartAt r.hart).bind fun h => h.preqs.find? fun p => p.serial == r.serial

/-- Deliver the reply at index n; one to a blocked hart under MODE.DET is taken at its commit (R322), and one whose
request is gone is dropped. -/
def State.deliverNth (s : State) (n : Nat) : State :=
  match s.preplies[n]? with
  | none => s
  | some r =>
    match s.reqOf r with
    | none => awake { s with preplies := s.preplies.eraseIdx n }
    | some p => if s.rowHeld r.hart p.rowPa || (s.detHart r.hart && p.status.isSome) then s else s.deliverReply p r

/-! ## Issue (R310, R311, R322) -/

/-- The message of a request. -/
def State.pmsgOf (s : State) (id : Nat) (p : PReq) : PMsg :=
  ⟨p.serial, id, Region.home p.region (s.region p.region) (p.vals.getD 0 0), p.region, p.instr, p.vals, 0, false, false,
    p.timeout⟩

/-- Mark the destinations of a request empty (R309, R312); a hart under MODE.DET is blocked meanwhile. -/
def State.emptyDests (s : State) (id : Nat) (p : PReq) : State :=
  let o := pform p.instr
  let js := if isGet p.instr then boundFields o else []
  match p.rowPa with
  | some pa =>
    let s := js.foldl (fun s j => match s.home pa with | .ls c off => s.lsMark c (off + 8 * j) 2 false | _ => s) s
    if s.detHart id then s else s.onHart id fun h => (p.status.map h.empty).getD h
  | none =>
    if s.detHart id then s
    else s.onHart id fun h =>
      js.zipIdx.foldl (fun h x => h.empty (rg (o.pRes + x.2))) ((p.status.map h.empty).getD h)

/-- Send a request: outside MODE.DET a message leaves; under it the home serves it at once, and a refused one is sent
again at a later commit (R322). -/
def State.sendReq (s : State) (id : Nat) (p : PReq) : Res :=
  let s0 := s
  let s := { s with serial := s.serial + 1 }
  let s := (s.onHart id fun h => { h with preqs := h.preqs ++ [p] }).emptyDests id p
  let m := s.pmsgOf id p
  if !s.detHart id then .done { s with pmsgs := s.pmsgs ++ [m] }
  else
    let s := s.serveMsg m
    if s.pmsgs.any fun x => x.serial == m.serial then .wait s0
    else
      match s.preplies.find? fun r => r.serial == m.serial with
      | some r => .done (s.deliverReply p r)
      | none => if p.status.isSome then .wait s else .done s

/-- A request of a blocked hart under MODE.DET, tried at a commit: delivered when its reply has come, sent again after
a migration or pre-emption withdrew it, else still parked (R319, R322, R250). -/
def State.retryReq (s : State) (id : Nat) (p : PReq) : Res :=
  match s.preplies.find? fun r => r.serial == p.serial with
  | some r => .done (s.deliverReply p r)
  | none =>
    if s.pparks.any fun m => m.serial == p.serial then .wait s
    else
      let s1 := s.serveMsg (s.pmsgOf id p)
      if s1.pmsgs.any fun x => x.serial == p.serial then .wait s
      else
        match s1.preplies.find? fun r => r.serial == p.serial with
        | some r => .done (s1.deliverReply p r)
        | none => .wait s1

/-- What every Pantry instruction does around its own request: the blocked request of a hart under MODE.DET, and at
most four outstanding (R311, R322). -/
def State.pantry (s : State) (id : Nat) (h : Hart) (issue : Unit → Res) : Res :=
  match if h.det then h.preqs.find? fun p => p.status.isSome else none with
  | some p => s.retryReq id p
  | none => if 4 ≤ h.preqs.length then .wait s else issue ()

/-- The timeout of a PCOPY or PTAKE (R317). -/
def Hart.parkTimeout (h : Hart) (o : SForm) : Option Nat :=
  if o.eb 28 then some (min (h.reg (rg (o.b.toNat + o.pV))).toNat (2 ^ 32)) else none

/-- The values of a pattern (R308). -/
def Hart.patVals (h : Hart) (o : SForm) : List W64 := (List.range o.pV).map fun i => h.reg (rg (o.b.toNat + i))

/-- Whether a Pantry message must wait for its hart's earlier accesses: sending it is a release (R243, R318), but it waits
for no earlier deposit, which R311 lets stand beside it (DEDUCED, log 34). -/
def State.pantryWaits (s : State) (id : Nat) (h : Hart) : Bool :=
  !(h.drain.all fun d => d.bytes.isEmpty) || s.postedAtoms id || s.remoteOut id true

/-- The region and row of the Pantry instruction that a hart is at: as checked when its convoy issued, or checked now when
an earlier instruction of the convoy decides them (R55, R310). -/
def State.pantryPlace (s : State) (h : Hart) (o : SForm) (row : Option (W64 × Access)) :
    Except (Cause × W64) (Nat × Option Nat) :=
  match h.conv.bind fun c => c.pages.getD c.idx none with
  | some x => .ok x
  | none => s.pantryCheck h o row

/-- Whether a word of the row that a request empties is full and still read by a matrix engine (R205). -/
def State.boundReserved (s : State) (o : SForm) (pa : Nat) : Bool :=
  (boundFields o).any fun j => s.storeReserved (pa + 8 * j) 8

/-- Issue a PCOPY, PTAKE or PCNT; `row` is the row address register's value in the row form (DEDUCED, log 34). -/
def State.issueGet (s : State) (id : Nat) (h : Hart) (i : Instr) (o : SForm) (row : Option (W64 × Access)) : Res :=
  match s.pantryPlace h o row with
  | .error e => .stop s e.1 e.2 none
  | .ok x =>
    match x.2.filter (s.coreHeld id) with
    | some pa => s.holdHere id pa
    | none =>
    if s.pantryWaits id h || (x.2.any fun pa => isGet i && s.boundReserved o pa) then .busy s
    else s.sendReq id ⟨s.serial, i, x.1, h.patVals o, some o.d, x.2, h.parkTimeout o⟩

/-- Issue a PDEP: a release (R318) of the tuple in registers or in a row (R313) (DEDUCED, log 34). -/
def State.issueDep (s : State) (id : Nat) (h : Hart) (o : SForm) : Res :=
  match s.pantryPlace h o (if o.eb 21 then some (h.reg o.b, .load) else none) with
  | .error e => .stop s e.1 e.2 none
  | .ok (n, row) =>
    if s.pantryWaits id h then .busy s
    else
      let send (s : State) (vals : List W64) : Res :=
        s.sendReq id ⟨s.serial, .pdep o, n, vals, if o.eb 20 then some o.d else none, none, none⟩
      match row with
      | none => send s ((List.range o.pK).map fun i => h.reg (rg (o.b.toNat + i)))
      | some pa =>
        if s.accessHeld id pa 64 then s.holdHere id pa
        else if s.physPoison pa (8 * o.pK) then .stop (s.readTouch pa (8 * o.pK)) .poison (h.reg o.b) none
        else send (s.readTouch pa (8 * o.pK)) ((List.range o.pK).map fun j => BitVec.ofNat 64 (s.loadVal h (pa + 8 * j) 8))

/-- Issue a PCNL, a message like the others (R243, R313) (DEDUCED, log 34). -/
def State.issueCancel (s : State) (id : Nat) (h : Hart) (o : SForm) : Res :=
  match h.preqs.find? fun p => isGet p.instr && p.status == some (rg (o.e 5 0)) with
  | none => .hart s id (h.setReg o.d 3)
  | some p =>
    if s.pantryWaits id h then .busy s
    else
    let q : PReq := ⟨s.serial, .pcnl o, p.region, [BitVec.ofNat 64 p.serial], some o.d, none, none⟩
    let s1 := (({ s with serial := s.serial + 1 }).onHart id fun h => { h with preqs := h.preqs ++ [q] }).emptyDests id q
    .done { s1 with pmsgs := s1.pmsgs ++ [{ s1.pmsgOf id p with serial := q.serial, instr := .pcnl o, vals := q.vals }] }

/-- PDEP (R313): Deposits a tuple into a Pantry region. -/
def execPdep (o : SForm) (s : State) : Host.Outcome State Fault Refusal :=
  run (.pdep o) (fun s id h _ _ => s.pantry id h fun _ => s.issueDep id h o) s

/-- PCOPY (R313): Copies the oldest matching tuple. -/
def execPcopy (o : SForm) (s : State) : Host.Outcome State Fault Refusal :=
  run (.pcopy o) (fun s id h _ _ => s.pantry id h fun _ => s.issueGet id h (.pcopy o) o (h.resultRow o)) s

/-- PTAKE (R313): Takes the oldest matching tuple. -/
def execPtake (o : SForm) (s : State) : Host.Outcome State Fault Refusal :=
  run (.ptake o) (fun s id h _ _ => s.pantry id h fun _ => s.issueGet id h (.ptake o) o (h.resultRow o)) s

/-- PCNL (R313): Cancels an outstanding PCOPY or PTAKE. -/
def execPcnl (o : SForm) (s : State) : Host.Outcome State Fault Refusal :=
  run (.pcnl o) (fun s id h _ _ => s.pantry id h fun _ => s.issueCancel id h o) s

/-- PCNT (R313): Counts the matching tuples at the home. -/
def execPcnt (o : SForm) (s : State) : Host.Outcome State Fault Refusal :=
  run (.pcnt o) (fun s id h _ _ => s.pantry id h fun _ => s.issueGet id h (.pcnt o) o none) s

/-! ## The slices' own steps -/

/-- PANTRY_MESSAGE_SERVE (R315): The home slice serves one Pantry message per cycle: it matches, stores, parks or refuses. -/
def execPantryMessageServe (s : State) : Host.Outcome State Fault Refusal :=
  .next (s.serveNth s.who)

/-- Send a refused message again, as a new arrival (R316). -/
def State.retryMsg (s : State) (n : Nat) : State :=
  match s.pmsgs[n]? with
  | some m => if m.refused then awake { s with pmsgs := s.pmsgs.eraseIdx n ++ [{ m with refused := false }] } else s
  | none => s

/-- PANTRY_REFUSE_RETRY (R316): A refused Pantry message is retried after an interval that doubles, and arrives as a new message. -/
def execPantryRefuseRetry (s : State) : Host.Outcome State Fault Refusal :=
  .next (s.retryMsg s.who)

/-- The park timeout of a request runs out (R317): withdrawn with status 3 when it is parked or refused; a served
request stands. None expires under MODE.DET (R322). -/
def State.pantryExpire (s : State) (id status : Nat) : State :=
  match s.hartAt id with
  | none => s
  | some h =>
    match h.preqs.find? fun p => isGet p.instr && p.timeout.isSome && p.status == some (rg status) with
    | none => s
    | some p =>
      match (s.pparks ++ s.pmsgs.filter PMsg.refused).find? fun m => m.serial == p.serial with
      | none => s
      | some m =>
        if h.det then s
        else awake ({ s.pUnpark p.serial with pmsgs := s.pmsgs.filter fun y => y.serial != p.serial }.preply m 3 [])

/-- PANTRY_TIMEOUT (R317): A park timeout expires and the request is withdrawn with status 3 (DESIGN CHOICE, log 6). -/
def execPantryTimeout (hart : Nat) (status : Nat) (s : State) : Host.Outcome State Fault Refusal :=
  .next (s.pantryExpire hart status)

/-! ## Settling a hart's requests (R319, R320) -/

/-- Whether EXIT still waits for a request: a posted deposit not accepted, or an answer that is sure to come (R320). -/
def Hart.pantryBusy (h : Hart) : Bool := h.preqs.any fun p => !isGet p.instr

/-- The sender of a deposit that gives a tuple back: no hart has this key. -/
def returnKey : Nat := 2 * peerKey

/-- Withdraw a request at EXIT: a PTAKE found served gives its tuple back as a new deposit (R320). -/
def State.withdrawReq (s : State) (p : PReq) : State :=
  let back := match s.preplies.find? fun r => r.serial == p.serial, p.instr with
    | some r, .ptake _ => if r.status = 0 then some r.fields else none
    | _, _ => none
  let s := { s with
    pparks := s.pparks.filter fun m => m.serial != p.serial
    pmsgs := s.pmsgs.filter fun m => m.serial != p.serial
    preplies := s.preplies.filter fun r => r.serial != p.serial }
  match back with
  | some fields =>
    let d : PReq := ⟨s.serial, .pdep ⟨0, 0, 0, false, false, 0, 0⟩, p.region, fields, none, none, none⟩
    { s with serial := s.serial + 1, pmsgs := s.pmsgs ++ [s.pmsgOf returnKey d] }
  | none => s

/-- Withdraw every request of a hart (R320). -/
def State.withdrawReqs (s : State) (id : Nat) : State :=
  match s.hartAt id with
  | some h => (h.preqs.foldl (fun s p => s.withdrawReq p) s).onHart id fun h => { h with preqs := [] }
  | none => s

/-- Whether a context can be saved as far as the Pantry goes: nothing in flight and no reply under way (R319). -/
def State.pantrySettled (s : State) (id : Nat) (h : Hart) : Bool :=
  !(s.pmsgs.any fun m => m.hart == id && !m.refused) && !(h.preqs.any fun p => !isGet p.instr && p.status.isSome) &&
  (h.det || !(s.preplies.any fun r => r.hart == id))

/-- Withdraw a hart's requests for a save: they stay in the hart, to be sent again (R319); a served one of a blocked
hart under MODE.DET is delivered with the context. -/
def State.suspendReqs (s : State) (id : Nat) : State :=
  { s with
    pparks := s.pparks.filter fun m => m.hart != id
    pmsgs := s.pmsgs.filter fun m => m.hart != id }

/-- Send a resumed hart's requests again as new arrivals (R319). -/
def State.reissueReqs (s : State) (id : Nat) : State :=
  match s.hartAt id with
  | some h =>
    (h.preqs.filter fun p => !(h.det && p.status.isSome)).foldl
      (fun s p => { s with pmsgs := s.pmsgs ++ [s.pmsgOf id p] }) s
  | none => s

end Sys2Proof.Machine
end

