-- ==== Sys2Proof/Machine/Cellar.lean ====
section
/-! DEFINITION. The Cellar (R324 to R349): the walk of a radix tree, CWALK and VCWALK, VCBOUND, canvases and the dirty
map with UNMK, VCDIRTY and CDIRTY, and the page walker (R225). -/

namespace Sys2Proof.Machine

open Sys2Proof

/-! ## The walk (R326 to R330) -/

/-- TVAL of a CELLAR fault (R328, R329). -/
def cellarTval (r : Nat) (a : W64) : W64 := BitVec.ofNat 64 (a.toNat / 16 * 16 + r)

namespace Radix

/-- START, LEN, PARENT, NLH and PLBASE of a node's first four doublewords. -/
def start (ws : List W64) : Nat := bits (ws.getD 0 0).toNat 47 0
def len (ws : List W64) : Nat := bits (ws.getD 1 0).toNat 63 32
def parent (ws : List W64) : Nat := bits (ws.getD 2 0).toNat 51 7 * 128
def nlh (ws : List W64) : Nat := bits (ws.getD 3 0).toNat 63 52
def plbase (ws : List W64) : Nat := bits (ws.getD 3 0).toNat 51 4 * 16
/-- FLAGS.SEALED and FLAGS.ROOT. -/
def isSealed (ws : List W64) : Bool := (ws.getD 0 0).getLsbD 57
def root (ws : List W64) : Bool := (ws.getD 0 0).getLsbD 56

/-- A malformed node (R328). -/
def malformed (ws : List W64) : Bool :=
  let d0 := (ws.getD 0 0).toNat
  let d2 := (ws.getD 2 0).toNat
  bits d0 63 58 != 0 || bits d0 55 48 != 0 || bits d2 63 52 != 0 || bits d2 6 0 != 0 ||
  bits (ws.getD 3 0).toNat 3 0 != 0 || len ws == 0 || (root ws != (parent ws == 0)) || 2 ^ 48 < start ws + len ws

end Radix

/-- Read doublewords from their homes for the walker. -/
def State.walkFresh (s : State) (id : Nat) (h : Hart) (va : W64) (n : Nat) : WordsRead :=
  s.readWords id { h with drain := [], buf := [] } ((List.range n).map fun i => va + BitVec.ofNat 64 (8 * i))

/-- Read doublewords of a node, or of its page list, for the walker: what is kept of the sealed node, or the homes; the
hart's own stores that are not yet performed are not seen (R330, R348) (DEDUCED, log 35). -/
def State.walkRead (s : State) (id : Nat) (h : Hart) (g : Gang) (node va : W64) (n : Nat) : WordsRead :=
  match s.nodes.find? fun x => x.cluster == g.first / 24 && x.queue == h.queue && x.node == node.toNat && x.va == va.toNat &&
      x.words.length == n with
  | some x => .words x.words
  | none => s.walkFresh id h va n

/-- How a walk ends: the result with the sealed words it read, a fault, or a request still open. -/
inductive Walked where
  | result (v : W64) (kept : List Node)
  | fault (c : Cause) (tval : W64)
  | pending (s : State)

/-- The end of a walk, in the node that holds the position (R328). -/
def State.walkPage (s : State) (id : Nat) (h : Hart) (g : Gang) (bnd : Bool) (pos lh : Nat) (n : W64) (ws : List W64)
    (kept : List Node) : Walked :=
  let off := pos - Radix.start ws
  if Radix.len ws ≤ off then .fault .cellar (cellarTval 4 n)
  else if Radix.nlh ws < lh then .fault .cellar (cellarTval 5 n)
  else
    let e : W64 := BitVec.ofNat 64 (Radix.plbase ws + 16 * (lh * ((Radix.len ws + 63) / 64) + off / 64))
    match if Radix.isSealed ws then s.walkRead id h g n e 2 else s.walkFresh id h e 2 with
    | .fault c a => .fault c a
    | .pending s' => .pending s'
    | .words es =>
      let kept := if Radix.isSealed ws then kept ++ [⟨g.first / 24, h.queue, n.toNat, e.toNat, es⟩] else kept
      let d := (es.getD (if bnd then 1 else 0) 0).toNat
      if !d.testBit 0 then .fault .cellar (cellarTval 6 e)
      else if bnd then .result (BitVec.ofNat 64 (bits d 51 9 * 512)) kept
      else .result (BitVec.ofNat 64 (bits d 51 15 * 32768 + 256 * (off % 64))) kept

/-- The walk from node n with `k` further nodes allowed (R328). -/
def State.walkFrom (s : State) (id : Nat) (h : Hart) (g : Gang) (bnd : Bool) (pos lh : Nat) :
    Nat → W64 → List Node → Walked
  | k, n, kept =>
    match s.walkRead id h g n n 4 with
    | .fault c a => .fault c a
    | .pending s' => .pending s'
    | .words ws =>
      if Radix.malformed ws then .fault .cellar (cellarTval 1 n)
      else
        let kept := if Radix.isSealed ws then kept ++ [⟨g.first / 24, h.queue, n.toNat, n.toNat, ws⟩] else kept
        if Radix.start ws ≤ pos then s.walkPage id h g bnd pos lh n ws kept
        else if Radix.root ws then .fault .cellar (cellarTval 3 n)
        else
          match k with
          | 0 => .fault .cellar (cellarTval 2 n)
          | k + 1 => s.walkFrom id h g bnd pos lh k (BitVec.ofNat 64 (Radix.parent ws)) kept

/-- The walk of (leaf, position, pair); a leaf address that is not a multiple of 128 raises ALIGN (R331). -/
def State.walkTree (s : State) (id : Nat) (h : Hart) (g : Gang) (bnd : Bool) (leaf pos lh : W64) : Walked :=
  if leaf.toNat % 128 ≠ 0 then .fault .align leaf
  else s.walkFrom id h g bnd pos.toNat lh.toNat 31 leaf []

/-- Whether two entries are of one node in one cluster's cache. -/
def Node.same (a b : Node) : Bool := a.cluster == b.cluster && a.queue == b.queue && a.node == b.node

/-- Enter what was read of a sealed node: the cache holds 1024 nodes, and the one entered first makes room (R324)
(DESIGN CHOICE, log 7). -/
def State.keepNode (s : State) (n : Node) : State :=
  if s.nodes.contains n then s
  else
    let here := s.nodes.filter fun x => x.cluster == n.cluster && x.va == x.node
    let l := match here with
      | x :: _ => if n.va == n.node && 1024 ≤ here.length then s.nodes.filter fun y => !y.same x else s.nodes
      | [] => s.nodes
    { s with nodes := l ++ [n] }

/-- Keep the sealed nodes a walk read, when the machine keeps what it reads (R324, R330). -/
def State.keepNodes (s : State) (kept : List Node) : State := if s.keep then kept.foldl State.keepNode s else s

/-- CWALK (R331). -/
def State.cwalk (s : State) (id : Nat) (h : Hart) (g : Gang) (o : SForm) : Res :=
  match s.walkTree id h g (o.eb 6) (h.reg o.a) (h.reg o.b) (h.reg (rg (o.e 5 0))) with
  | .fault c tv => .stop s c tv none
  | .pending s' => .busy s'
  | .result x kept => .hart (s.keepNodes kept) id (h.later o.d x)

/-- CWALK (R331): Scalar Cellar walk to a page or bounds address. -/
def execCwalk (o : SForm) (s : State) : Host.Outcome State Fault Refusal :=
  run (.cwalk o) (fun s id h g _ => s.cwalk id h g o) s

/-- The walks of a vector's elements, ascending: the results so far, and the first fault, or a request still open. -/
def walkAll (f : Nat → Walked) : List Nat → List (Nat × W64) × List Node × Option (Sum (Nat × Cause × W64) State)
  | [] => ([], [], none)
  | i :: t =>
    match f i with
    | .fault c tv => ([], [], some (.inl (i, c, tv)))
    | .pending s' => ([], [], some (.inr s'))
    | .result x kept =>
      let r := walkAll f t
      ((i, x) :: r.1, kept ++ r.2.1, r.2.2)

/-- The leaf of element i (R332). -/
def State.walkLeaf (s : State) (h : Hart) (g : Gang) (v : VForm) (i : Nat) : W64 :=
  if v.bm = 1 then h.reg v.bReg else BitVec.ofNat 64 ((s.rowAt (s.elemKey g h.slot i)).fld v.B)

/-- VCWALK (R332): D's words are empty in every acted element until its result is written (DEDUCED, log 35). -/
def State.vcwalk (s : State) (id : Nat) (h : Hart) (g : Gang) (lim : Nat) (v : VForm) : Res :=
  let els := s.activeEls h g v.m
  let act := actOf h lim els
  let ws := Fld.words v.A ++ if v.bm = 1 then [] else Fld.words v.B
  if !s.elsFull h g els ws || s.elsReserved h g act (Fld.words v.D) then .wait s
  else
    let walk1 (i : Nat) : Walked :=
      if (s.poisonEl h g [i] ws).isSome then .fault .poison (BitVec.ofNat 64 i)
      else s.walkTree id h g (v.fnb 2) (s.walkLeaf h g v i)
        (BitVec.ofNat 64 ((s.rowAt (s.elemKey g h.slot i)).fld v.A)) (h.reg (v.xReg 0))
    match walkAll walk1 act with
    | (_, _, some (.inr s')) => .busy s'
    | (rs, kept, stop) =>
      let mark (t : State) (i : Nat) : State :=
        t.markRow (s.elemKey g h.slot i) (wordMask (Fld.start v.D) (Fld.width v.D)) false
      let fills := rs.map fun r => (⟨s.elemKey g h.slot r.1, Fld.start v.D, Fld.width v.D, r.2.toNat⟩ : VFill)
      let s0 := (s.keepNodes kept).noteEls h g act ws
      let s1 := (act.foldl mark s0).putHart id { h with vfills := h.vfills ++ fills }
      match stop with
      | some (.inl (e, c, tv)) => .stop s1 c tv (some e)
      | _ => .done s1

/-- VCWALK (R332): Cellar walk for each element. -/
def execVcwalk (v : VForm) (s : State) : Host.Outcome State Fault Refusal :=
  run (.vcwalk v) (fun s id h g lim => s.vcwalk id h g lim v) s

/-! ## Score bounds (R334) -/

/-- Doublewords of a span as loads of the hart; `none` is poison. -/
def State.loadSpan (s : State) (id : Nat) (h : Hart) (pa n : Nat) : Option (List Nat) :=
  let ws := (List.range (n / 8)).map fun j => s.loadAny id h (pa + 8 * j) 8
  if ws.any Option.isNone then none else some (ws.map fun x => x.getD 0)

/-- BF16 value d of doublewords. -/
def bf16At (ws : List Nat) (d : Nat) : Nat := ws.getD (d / 4) 0 / 2 ^ (16 * (d % 4)) % 65536

/-- RNE32 of a product of BF16 patterns, and of a sum of FP32 patterns (R334). -/
def boundMul (fz : Bool) (a b : Nat) : Nat × BitVec 6 :=
  (fmtOf 2).result 0 fz (((fmtOf 3).input fz a).mul ((fmtOf 3).input fz b))
def boundAdd (fz : Bool) (a b : Nat) : Nat × BitVec 6 :=
  (fmtOf 2).result 0 fz (((fmtOf 2).input fz a).add 0 ((fmtOf 2).input fz b))

/-- One step of the bound. -/
def boundStep (fz : Bool) (acc : Nat × BitVec 6) (q mn mx : Nat) : Nat × BitVec 6 :=
  let x := boundMul fz q mn
  let y := boundMul fz q mx
  let r := boundAdd fz acc.1 (pickType 2 32 true x.1 y.1)
  (r.1, acc.2 ||| x.2 ||| y.2 ||| r.2)

/-- The bound of an entry: a NaN anywhere gives the canonical NaN with no flag. -/
def boundOf (fz : Bool) (q e : List Nat) : Nat × BitVec 6 :=
  let r := (List.range 128).foldl (fun acc d => boundStep fz acc (bf16At q d) (bf16At e d) (bf16At e (128 + d))) (0, 0)
  if (fmtOf 2).isNan r.1 then ((fmtOf 2).nan, 0) else (r.1, r.2 &&& (fOF ||| fUF ||| fNX))

/-- The addresses of n bytes as 8-byte requests to another device. -/
def State.farWords (s : State) (pa n : Nat) : List (Nat × PeerOp × Nat) :=
  if s.home pa = .remote then (List.range (n / 8)).map fun j => (pa + 8 * j, .read 8, 0) else []

/-- VCBOUND (R334). -/
def State.vcbound (s : State) (id : Nat) (h : Hart) (g : Gang) (lim : Nat) (v : VForm) : Res :=
  let els := s.activeEls h g v.m
  let act := actOf h lim els
  let sq := h.reg v.bReg
  match s.locate h sq 256 .load 0 with
  | .error c => .stop s c sq none
  | .ok qpa =>
    if !s.elsFull h g els (Fld.words v.A) || s.elsReserved h g act (Fld.words v.D) then .wait s
    else if s.accessHeld id qpa 256 then s.holdHere id qpa
    else
      match s.askRemote id (s.farWords qpa 256) with
      | some s' => .busy s'
      | none =>
        match s.loadSpan id h qpa 256 with
        | none => .stop s .poison sq none
        | some q =>
          let addr (i : Nat) : W64 := BitVec.ofNat 64 ((s.rowAt (s.elemKey g h.slot i)).fld v.A)
          let rowBad (i : Nat) : Bool := (s.poisonEl h g [i] (Fld.words v.A)).isSome
          let near := s.firstFault h g .load 512 addr rowBad (fun _ _ => none) act
          let ok := match near with | some e => act.filter fun i => i < e.1 | none => act
          let pa (i : Nat) : Nat := s.elemPa h g .load 512 addr i
          match ok.find? fun i => s.accessHeld id (pa i) 512 with
          | some i => s.holdHere id (pa i)
          | none =>
            match s.askRemote id (ok.flatMap fun i => s.farWords (pa i) 512) with
            | some s' => .busy s'
            | none =>
              let bad := match ok.find? fun i => (s.loadSpan id h (pa i) 512).isNone with
                | some i => some (i, Cause.poison)
                | none => near
              let todo := match bad with | some e => ok.filter fun i => i < e.1 | none => ok
              let r := s.applyAll h g (fun i _ =>
                let b := boundOf h.fz q ((s.loadSpan id h (pa i) 512).getD [])
                Eff.field v.D b.1 b.2) false todo
              let s1 := ((todo.foldl (fun t i => t.touch (pa i)) (r.1.touch qpa)).noteEls h g act (Fld.words v.A)).putHart id (h.raise r.2)
              match bad with
              | some (e, c) => .stop s1 c (addr e) (some e)
              | none => .done s1

/-- VCBOUND (R334): Score upper bound of each page from its bounds entry. -/
def execVcbound (v : VForm) (s : State) : Host.Outcome State Fault Refusal :=
  run (.vcbound v) (fun s id h g lim => s.vcbound id h g lim v) s

/-! ## Canvases (R335 to R337) -/

/-- A canvas descriptor. -/
structure Canvas where
  nlg : Nat
  len : Nat
  base : Nat
  round : Nat
  deriving DecidableEq, Repr

/-- The fields of a descriptor; `none` when it is malformed (R337). -/
def canvasOf (ws : List W64) : Option Canvas :=
  let d (i : Nat) : Nat := (ws.getD i 0).toNat
  if bits (d 0) 63 38 ≠ 0 || bits (d 1) 63 52 ≠ 0 || bits (d 1) 2 0 ≠ 0 || bits (d 2) 63 32 ≠ 0 ||
    ((ws.drop 3).any fun x => x != 0) || bits (d 0) 31 0 < 1 || 2 ^ 24 < bits (d 0) 31 0 then none
  else some ⟨bits (d 0) 37 32, bits (d 0) 31 0, d 1, bits (d 2) 31 0⟩

/-- What reading a descriptor gives. -/
inductive CanvasRead where
  | canvas (c : Canvas)
  | fault (c : Cause) (tval : W64)
  | pending (s : State)

/-- Read a descriptor (R337, R341 orders 3 and 4). -/
def State.readCanvas (s : State) (id : Nat) (h : Hart) (va : W64) (k : Access) : CanvasRead :=
  if va.toNat % 64 ≠ 0 then .fault .align va
  else
    match s.access (s.agentOf h) va k 0 with
    | .error c => .fault c va
    | .ok _ =>
      match s.readWords id h ((List.range 8).map fun i => va + BitVec.ofNat 64 (8 * i)) with
      | .fault c a => .fault c a
      | .pending s' => .pending s'
      | .words ws =>
        match canvasOf ws with
        | some c => .canvas c
        | none => .fault .cellar (cellarTval 7 va)

/-- Doublewords of 64 positions that hold listed positions, with their bits. -/
def posWords (ps : List Nat) : List (Nat × Nat) :=
  ps.foldl (fun m p => SMap.put m (p / 64) (Nat.lor (SMap.getD m (p / 64) 0) (2 ^ (p % 64)))) ([] : SMap Nat)

/-- The map doublewords of positions in layer groups lo to hi: address and bits (R336). -/
def Canvas.marks (c : Canvas) (ps : List Nat) (lo hi : Nat) : List (W64 × W64) :=
  let ws := posWords ps
  (List.range (hi + 1 - lo)).flatMap fun j =>
    ws.map fun x => (BitVec.ofNat 64 (c.base + 8 * ((lo + j) * ((c.len + 63) / 64) + x.1)), BitVec.ofNat 64 x.2)

/-- The map doubleword and bit of one position and group. -/
def Canvas.place (c : Canvas) (lg p : Nat) : W64 × Nat :=
  (BitVec.ofNat 64 (c.base + 8 * ((lg * ((c.len + 63) / 64 * 64) + p) / 64)), p % 64)

/-- The first map address whose store would fail (R341 order 7). -/
def State.markFault (s : State) (h : Hart) (l : List (W64 × W64)) : Option (Cause × W64) :=
  l.findSome? fun x => match s.access (s.agentOf h) x.1 .store 0 with | .error c => some (c, x.1) | .ok _ => none

/-- The posted atomic of a map doubleword at a checked address (R254, R342). -/
def mapRequest (id fn serial : Nat) (x : Nat × W64 × W64) : AtomReq := ⟨id, fn, x.1, 8, x.2.2, 0, serial, false, 0, .posted⟩

/-- The physical addresses of map doublewords, as they were checked (R341 order 7). -/
def State.placed (s : State) (h : Hart) (l : List (W64 × W64)) : List (Nat × W64 × W64) :=
  l.filterMap fun x => match s.access (s.agentOf h) x.1 .store 0 with | .ok pa => some (pa, x) | .error _ => none

/-- Whether the atomics of map doublewords can be sent: under MODE.DET they are performed now, each at a free home (R249,
R348). -/
def State.canPost (s : State) (id : Nat) (h : Hart) (fn : Nat) (l : List (Nat × W64 × W64)) : Bool :=
  !h.det || l.all fun x => s.home x.1 == .remote || s.homeFree (mapRequest id fn 0 x)

/-- Send an atomic on each of them, or under MODE.DET perform it now (R249, R342, R348). -/
def State.postAll (s : State) (id : Nat) (h : Hart) (fn : Nat) (l : List (Nat × W64 × W64)) : State :=
  (l.foldl (fun (t : State) x =>
    let a := mapRequest id fn s.serial x
    if h.det && s.home x.1 != .remote then (t.atomAt x.1 8 fn x.2.2.toNat 0).1 else t.sendAtom a x.2.1) s).bump

/-! ## UNMK (R338 to R343) -/

/-- The policy (R339). -/
structure Policy where
  period : Nat
  radius : Nat
  lg0 : Nat
  fe : Bool
  re : Bool
  th : Bool
  share : Nat
  nmax : Nat
  nmin : Nat
  tau : Nat
  desc : W64
  p0 : Nat
  /-- No unlisted bit is set. -/
  clean : Bool

/-- The policy in five registers. -/
def Hart.policy (h : Hart) (sp : Nat) : Policy :=
  let r (i : Nat) : Nat := (h.reg (rg (sp + i))).toNat
  { period := bits (r 0) 47 32, radius := bits (r 0) 31 24, lg0 := bits (r 0) 21 16, fe := (r 0).testBit 11
    re := (r 0).testBit 10, th := (r 0).testBit 9, share := min (bits (r 0) 8 0) 256
    nmax := bits (r 1) 63 32, nmin := bits (r 1) 31 0, tau := bits (r 2) 15 0
    desc := BitVec.ofNat 64 (bits (r 3) 51 0), p0 := r 4
    clean := bits (r 0) 63 48 == 0 && bits (r 0) 23 22 == 0 && bits (r 0) 15 12 == 0 && bits (r 2) 63 16 == 0 &&
      bits (r 3) 63 52 == 0 }

/-- Whether a confidence reaches the threshold (R340). -/
def reachesTau (t w x tau : Nat) : Bool := if t = 0 then tau ≤ x else condType t w 5 x tau

/-- The number of positions committed (R340). -/
def Policy.count (p : Policy) (t w : Nat) (keys : List Nat) : Nat :=
  let m := keys.length
  let n := if p.th then (keys.filter fun x => reachesTau t w x p.tau).length else (p.share * m + 255) / 256
  min (min (max n p.nmin) p.nmax) m

/-- The marked positions (R342). -/
def Policy.marked (p : Policy) (len : Nat) (cset : List Nat) (refresh : Bool) : List Nat :=
  if refresh then List.range len
  else
    cset.flatMap fun i =>
      let c := p.p0 + i
      if p.re then (List.range (2 * p.radius + 1)).filterMap fun d =>
        if p.radius ≤ c + d && c + d - p.radius < len then some (c + d - p.radius) else none
      else [c]

/-- Whether ROUND r makes a full refresh (R342). -/
def Policy.refreshes (p : Policy) (r : Nat) : Bool := p.fe && (r + 1) % p.period == 0

/-- The atomic add on ROUND at its home (R342): the value read, or a state in which the instruction still waits. -/
def State.addRound (s : State) (id : Nat) (h : Hart) (p : Policy) (round : Nat) : Sum State (State × Nat) :=
  if !p.fe then .inr (s, round)
  else
    match s.access (s.agentOf h) (p.desc + 16) .atomic 0 with
    | .error _ => .inr (s, round)
    | .ok pa =>
      match s.home pa with
      | .remote =>
        match s.askRemote id [(pa, .atomic 0 4 1 0, 1)] with
        | some s' => .inl s'
        | none => .inr (s, (((s.answerOf id pa (.atomic 0 4 1 0) 1).getD none).map BitVec.toNat).getD round)
      | _ =>
        if s.accessHeld id pa 4 then .inl (s.takePlace id pa)
        else if s.pageMoving pa || s.storeReserved pa 4 then .inl s
        else
          let r := s.atomAt pa 4 0 1 0
          .inr (r.1, r.2.getD round)

/-- The rows of an UNMK (R340): tokens and tags. -/
def State.unmkRows (s : State) (h : Hart) (g : Gang) (v : VForm) (cset : List Nat) : State :=
  let s1 := cset.foldl (fun t i =>
    let k := s.elemKey g h.slot i
    (t.writeRow k (Fld.start v.D) (Fld.width v.D) ((s.rawRow k).fld v.B)).tagRow k v.m.tag false) s
  s1.setTags h g (allEls h g) (v.x.extractLsb' 0 3) fun i => cset.contains i

/-- The map doublewords an UNMK may mark, placed: the whole canvas when it may make a full refresh. -/
def State.unmkPlaced (s : State) (h : Hart) (p : Policy) (c : Canvas) (cset : List Nat) (refresh : Bool) :
    List (Nat × W64 × W64) := s.placed h (c.marks (p.marked c.len cset refresh) p.lg0 c.nlg)

/-- UNMK once its checks have passed (R340, R342). -/
def State.unmkDo (s : State) (id : Nat) (h : Hart) (g : Gang) (v : VForm) (p : Policy) (c : Canvas)
    (els cset : List Nat) : Res :=
  match (s.unmkPlaced h p c cset p.fe).find? fun x => s.coreHeld id x.1 with
  | some x => s.holdHere id x.1
  | none =>
    if !s.canPost id h 7 (s.unmkPlaced h p c cset p.fe) then .busy s
    else
    match s.addRound id h p c.round with
    | .inl s' => .busy s'
    | .inr (s1, r) =>
      let s2 := (s1.unmkRows h g v cset).postAll id h 7 (s.unmkPlaced h p c cset (p.refreshes r))
      s2.reduced id h (v.xReg 9) els.isEmpty cset.length 0

/-- UNMK (R340, R341) (DEDUCED, log 35). -/
def State.unmk (s : State) (id : Nat) (h : Hart) (g : Gang) (v : VForm) : Res :=
  s.reduceOn h g v true fun els =>
    if !s.elsFullRaw h g els (Fld.words v.B) then .wait s
    else
      let p := h.policy (v.xb 8 3)
      match s.readCanvas id h p.desc (if p.fe then .atomic else .load) with
      | .fault c tv => .stop s c tv none
      | .pending s' => .busy s'
      | .canvas c =>
        let w := Fld.width v.A
        let cset := (rankSort (fun i => rankKey v.ty w false (s.rawA h g v i)) els).take (p.count v.ty w (els.map (s.rawA h g v)))
        if c.nlg < p.lg0 || (p.re && p.radius = 0) || (p.fe && p.period = 0) || !p.clean then
          .stop s .cellar (cellarTval 9 p.desc) none
        else if els.any fun i => c.len ≤ p.p0 + i then .stop s .cellar (cellarTval 8 p.desc) none
        else
          match s.markFault h (c.marks (p.marked c.len cset (p.refreshes c.round)) p.lg0 c.nlg) with
          | some (ca, a) => .stop s ca a none
          | none =>
            if s.elsReserved h g cset (Fld.words v.D) then .wait s
            else if !s.settledFor id h 3 then .busy s
            else s.unmkDo id h g v p c els cset

/-- UNMK (R340): Commits one unmasking round and posts the dirty-map update. -/
def execUnmk (v : VForm) (s : State) : Host.Outcome State Fault Refusal :=
  run (.unmk v) (fun s id h g _ => s.unmk id h g v) s

/-! ## VCDIRTY and CDIRTY (R345, R346) -/

/-- The first acted element of a VCDIRTY that faults: in its row, beyond LEN, in its map access, or with its map
doubleword poisoned in this device. -/
def State.dirtyFault (s : State) (h : Hart) (g : Gang) (v : VForm) (c : Canvas) (lg : Nat) (k : Access) (act : List Nat) :
    Option (Nat × Cause × W64) :=
  act.findSome? fun i =>
    let p := (s.rowAt (s.elemKey g h.slot i)).fld v.A
    let a := (c.place lg p).1
    if (s.poisonEl h g [i] (Fld.words v.A)).isSome then some (i, .poison, BitVec.ofNat 64 i)
    else if c.len ≤ p then some (i, .cellar, cellarTval 8 (h.reg v.bReg))
    else
      match s.access (s.agentOf h) a k 0 with
      | .error e => some (i, e, a)
      | .ok pa => if s.home pa != .remote && s.physPoison pa 8 then some (i, .poison, a) else none

/-- The map doubleword of element i, physical, and its bit. -/
def State.dirtyPa (s : State) (h : Hart) (g : Gang) (v : VForm) (c : Canvas) (lg : Nat) (k : Access) (i : Nat) :
    Nat × Nat :=
  let x := c.place lg ((s.rowAt (s.elemKey g h.slot i)).fld v.A)
  match s.access (s.agentOf h) x.1 k 0 with
  | .ok pa => (pa, x.2)
  | .error _ => (0, x.2)

/-- The values of the map doublewords of elements, once every one is there: reads (R345). -/
def State.dirtyRead (s : State) (id : Nat) (h : Hart) (pas : List (Nat × Nat × Nat)) : State × Option (List (Nat × Option Bool)) :=
  let far := (pas.filter fun x => s.home x.2.1 == .remote).map fun x => (x.2.1, PeerOp.read 8, 0)
  match pas.find? fun x => s.accessHeld id x.2.1 8 with
  | some x => (s.takePlace id x.2.1, none)
  | none =>
    match s.askRemote id far with
    | some s' => (s', none)
    | none => (s, some (pas.map fun x => (x.1, (s.loadAny id h x.2.1 8).map fun y => y.testBit x.2.2)))

/-- The same with .clr: one atomic AND per element, in order, up to the first that another device answers with poison. -/
def State.dirtyClear (s : State) (id : Nat) (pas : List (Nat × Nat × Nat)) : State × Option (List (Nat × Option Bool)) :=
  let req (x : Nat × Nat × Nat) : AtomReq := ⟨id, 6, x.2.1, 8, ~~~(1#64 <<< x.2.2), 0, s.serial, true, x.1, .reg 0 0⟩
  let lost := pas.find? fun x => s.answerOf id x.2.1 (req x).peerOp (x.1 + 1) == some none
  let upTo : List (Nat × Nat × Nat) :=
    match lost with | some (e : Nat × Nat × Nat) => pas.filter fun (x : Nat × Nat × Nat) => x.1 ≤ e.1 | none => pas
  let r := s.vamoInOrder id (upTo.map fun x => (x.1, req x))
  if r.2 then
    (r.1, some (upTo.map fun x =>
      (x.1, ((r.1.answerOf id x.2.1 (req x).peerOp (x.1 + 1)).getD none).map fun y => y.getLsbD x.2.2)))
  else (r.1, none)

/-- VCDIRTY (R345). -/
def State.vcdirty (s : State) (id : Nat) (h : Hart) (g : Gang) (lim : Nat) (v : VForm) : Res :=
  let els := s.activeEls h g v.m
  let act := actOf h lim els
  let clr := v.fnb 2
  let k : Access := if clr then .atomic else .load
  if !s.elsFull h g els (Fld.words v.A) then .wait s
  else if s.postedAtoms id || (clr && !s.settledFor id h 3) then .busy s
  else
    match s.readCanvas id h (h.reg v.bReg) .load with
    | .fault c tv => .stop s c tv none
    | .pending s' => .busy s'
    | .canvas c =>
      let lg := (h.reg (v.xReg 0)).toNat
      if c.nlg < lg then .stop s .cellar (cellarTval 9 (h.reg v.bReg)) none
      else
        let near := s.dirtyFault h g v c lg k act
        let ok := match near with | some e => act.filter fun i => i < e.1 | none => act
        let pas := ok.map fun i => (i, s.dirtyPa h g v c lg k i)
        match pas.find? fun x => clr && s.coreHeld id x.2.1 with
        | some x => s.holdHere id x.2.1
        | none =>
        match if clr then s.dirtyClear id pas else s.dirtyRead id h pas with
        | (s1, none) => .busy s1
        | (s1, some bs) =>
          let lost := bs.find? fun b => b.2.isNone
          let got := match lost with | some e => bs.filter (fun (b : Nat × Option Bool) => b.1 < e.1) | none => bs
          let s2 := (s1.noteEls h g act (Fld.words v.A)).setTags h g (got.map Prod.fst) v.dTag fun i => got.contains (i, some true)
          match lost, near with
          | some e, _ => .stop s2 .poison (c.place lg ((s.rowAt (s.elemKey g h.slot e.1)).fld v.A)).1 (some e.1)
          | none, some (e, ca, tv) => .stop s2 ca tv (some e)
          | none, none => .done s2

/-- VCDIRTY (R345): Reads, and optionally clears, dirty-map bits into a tag. -/
def execVcdirty (v : VForm) (s : State) : Host.Outcome State Fault Refusal :=
  run (.vcdirty v) (fun s id h g lim => s.vcdirty id h g lim v) s

/-- CDIRTY (R346) (DEDUCED, log 35). -/
def State.cdirty (s : State) (id : Nat) (h : Hart) (o : SForm) : Res :=
  let sa := h.reg o.a
  match s.readCanvas id h sa .load with
  | .fault c tv => .stop s c tv none
  | .pending s' => .busy s'
  | .canvas c =>
    let p := (h.reg o.b).toNat
    let n := o.e 15 0 + 1
    let lo := o.e 21 16
    let hi := o.e 27 22
    if hi < lo || c.nlg < hi then .stop s .cellar (cellarTval 9 sa) none
    else if c.len < p + n then .stop s .cellar (cellarTval 8 sa) none
    else
      let marks := c.marks ((List.range n).map (p + ·)) lo hi
      match s.markFault h marks with
      | some (ca, a) => .stop s ca a none
      | none =>
        let fn := if o.sz = 0 then 7 else 6
        let ops := s.placed h (if o.sz = 0 then marks else marks.map fun x => (x.1, ~~~x.2))
        match ops.find? fun x => s.coreHeld id x.1 with
        | some x => s.holdHere id x.1
        | none =>
          if !s.settledFor id h 3 || !s.canPost id h fn ops then .busy s
          else .done (s.postAll id h fn ops)

/-- CDIRTY (R346): Sets or clears a block of dirty-map bits. -/
def execCdirty (o : SForm) (s : State) : Host.Outcome State Fault Refusal :=
  run (.cdirty o) (fun s id h _ _ => s.cdirty id h o) s

/-! ## The walkers' own steps -/

/-- CELLAR_WALK_SERVE (R328): The radix walker follows parents from the leaf and reads the page-list entry to give an address or a CELLAR fault. -/
def execCellarWalkServe (s : State) : Host.Outcome State Fault Refusal :=
  match s.waitingAt s.who with
  | some (.cwalk o) => run (.cwalk o) (fun s id h g _ => s.cwalk id h g o) (s.as s.who)
  | some (.vcwalk v) => run (.vcwalk v) (fun s id h g lim => s.vcwalk id h g lim v) (s.as s.who)
  | _ => .next s

/-- Resolve a translation for a hart and enter it into its cluster's TLB (R225). -/
def State.pageWalk (s : State) (id : Nat) (va : W64) : State :=
  match s.hartAt id with
  | some h => awake (s.fillTlb (s.agentOf h) va)
  | none => s

/-- PAGE_WALK (R225): The cluster walker resolves a translation that missed both TLBs, reading the table levels. -/
def execPageWalk (hart : Nat) (va : W64) (s : State) : Host.Outcome State Fault Refusal :=
  .next (s.pageWalk hart va)

end Sys2Proof.Machine
end

