-- ==== Sys2Proof/Machine/Launch.lean ====
section
/-! DEFINITION. Launches (R352 to R360, R371): the record and its checks, gang positions, the grid walker, and a hart's
end. -/

namespace Sys2Proof.Machine

open Sys2Proof

/-! ## The launch record (R352 to R354) -/

namespace Lr

/-- Doubleword n of a record. -/
def dw (r : List W64) (n : Nat) : Nat := (r.getD n 0).toNat
/-- ENTRY, WATCH, UHPC, ARG, CTX. -/
def entry (r : List W64) : W64 := addrBits (r.getD 0 0)
def watch (r : List W64) : BitVec 6 := (r.getD 1 0).extractLsb' 52 6
def uhpc (r : List W64) : W64 := addrBits (r.getD 1 0)
def arg (r : List W64) : W64 := r.getD 2 0
def ctx (r : List W64) : Nat := dw r 3
/-- Trip count of loop k. -/
def trip (r : List W64) (k : Nat) : Nat := bits (dw r (4 + k / 2)) (32 * (k % 2) + 31) (32 * (k % 2))
/-- DETQ, PHSEL, NL, PV, NARROW, DET, LA, PRIO, h, g. -/
def detq (r : List W64) : Nat := bits (dw r 6) 48 32
def phsel (r : List W64) : Nat := bits (dw r 6) 25 24
def nl (r : List W64) : Nat := bits (dw r 6) 13 12
def pv (r : List W64) : Bool := (dw r 6).testBit 10
def narrow (r : List W64) : Bool := (dw r 6).testBit 9
def det (r : List W64) : Bool := (dw r 6).testBit 8
def la (r : List W64) : Bool := (dw r 6).testBit 7
def prio (r : List W64) : Nat := bits (dw r 6) 6 4
def hlog (r : List W64) : Nat := bits (dw r 6) 3 2
def glog (r : List W64) : Nat := bits (dw r 6) 1 0
def h (r : List W64) : Nat := 2 ^ hlog r
def g (r : List W64) : Nat := 2 ^ glog r
/-- The loop at nesting position j. -/
def order (r : List W64) (j : Nat) : Nat := bits (dw r 6) (17 + 2 * j) (16 + 2 * j)
/-- VLREQ, HBMGB, LANES, PLACE. -/
def vlreq (r : List W64) : Nat := bits (dw r 7) 17 0
def hbm (r : List W64) : Nat := bits (dw r 8) 47 32
def lanes (r : List W64) : Nat := bits (dw r 8) 19 16
def place (r : List W64) : Nat := bits (dw r 8) 15 0

/-- Whether every reserved bit is zero (R352). -/
def reservedOk (r : List W64) : Bool :=
  bits (dw r 0) 63 52 == 0 && bits (dw r 0) 1 0 == 0 &&
  bits (dw r 1) 63 58 == 0 && bits (dw r 1) 1 0 == 0 &&
  bits (dw r 3) 63 56 == 0 && bits (dw r 3) 21 0 == 0 &&
  bits (dw r 6) 63 49 == 0 && bits (dw r 6) 31 26 == 0 && bits (dw r 6) 15 14 == 0 && !(dw r 6).testBit 11 &&
  bits (dw r 7) 63 18 == 0 && bits (dw r 8) 63 48 == 0 && bits (dw r 8) 31 20 == 0 &&
  (r.drop 9).all fun x => x == 0

/-- Whether a record is well formed, with the gate and privilege permission it became visible with (R353). -/
def formatOk (r : List W64) (gate privok : Bool) : Bool :=
  let used := (List.range (nl r + 1)).map (order r)
  reservedOk r && glog r != 3 && hlog r != 3 && lanes r ≤ 8 &&
  (List.range (nl r + 1)).all (fun k => used.contains k) &&
  (List.range 4).all (fun j => j ≤ nl r || order r j == 0) &&
  (detq r == 0 || (256 ≤ detq r && detq r ≤ 65536)) && (!pv r || privok) &&
  ((detq r == 0 && phsel r == 0) || gate)

/-- The number of iterations: the product of the used trip counts (R353, R355). -/
def total (r : List W64) : Nat := (List.range (nl r + 1)).foldl (fun n k => n * trip r k) 1

/-- The indices of iteration L, by loop number (R355). -/
def indices (r : List W64) (l : Nat) : SMap Nat :=
  ((List.range (nl r + 1)).reverse.foldl (fun (acc : Nat × SMap Nat) j =>
    let k := order r j
    (acc.1 / trip r k, SMap.put acc.2 k (acc.1 % trip r k))) (l, [])).2

end Lr

/-! ## Gang positions (R354, R357) -/

/-- NA of the position of g cores from c (R20). -/
def State.posNa (s : State) (c g : Nat) : Nat :=
  4 * ((List.range g).map fun e => (s.lanesOf (c + e)).length).foldl min 8

/-- Whether every core of a position is held by no gang and reserved by no migration (R354, R413). -/
def State.posFree (s : State) (c g : Nat) : Bool :=
  (List.range g).all fun e => (s.gangOn (c + e)).isNone && !(s.coreAt (c + e)).reserved

/-- First cores of the positions of shape g in a cluster. -/
def clusterPositions (n g : Nat) : List Nat := (List.range (24 / g)).map fun j => 24 * n + g * j

/-- The clusters a record allows (R352, R354). -/
def Lr.clusters (r : List W64) : List Nat :=
  (List.range 16).filter fun n => Lr.narrow r || Lr.place r == 0 || (Lr.place r).testBit n

/-- The positions a launch may use, held ones included (R354). -/
def State.usable (s : State) (r : List W64) : List Nat :=
  ((Lr.clusters r).flatMap fun n => clusterPositions n (Lr.g r)).filter fun c =>
    4 ≤ s.posNa c (Lr.g r) && (Lr.narrow r || 4 * Lr.lanes r ≤ s.posNa c (Lr.g r))

/-- Whether the record is refused with LAUNCH_LAYOUT (R354). -/
def State.badLayout (s : State) (r : List W64) : Bool :=
  s.dev.hbmHalf < 2 * Lr.hbm r ||
  if Lr.narrow r then !(List.range 384).any fun p => !(s.lanesOf p).isEmpty else (s.usable r).isEmpty

/-- The better of two positions: the larger NA, then the lower first core (R357). -/
def State.better (s : State) (g : Nat) (a b : Nat) : Nat :=
  if s.posNa b g < s.posNa a g then a else if s.posNa a g < s.posNa b g then b else min a b

/-- The free usable positions in order of choice (R357). -/
def State.choices (s : State) (r : List W64) : List Nat :=
  let l := (s.usable r).filter fun c => s.posFree c (Lr.g r)
  ((List.range 8).reverse.map fun n => l.filter fun c => s.posNa c (Lr.g r) == 4 * (n + 1)).flatten

/-! ## Starting harts and forming gangs (R355, R356) -/

/-- Ordinals of queue q in use, saved gangs included. -/
def State.ordinals (s : State) (q : Nat) (la : Launch) : List Nat :=
  ((s.gangs.filter fun e => e.2.queue == q).map fun e => e.2.ordinal) ++ la.saved.map fun x => x.gang.ordinal

/-- The lowest unused ordinal (R356). -/
def State.newOrdinal (s : State) (q : Nat) (la : Launch) : Nat :=
  ((List.range 65536).find? fun p => !(s.ordinals q la).contains p).getD 0

/-- Form a gang on the position at c (R19, R20, R183): its rows are clear (R360), and user microcode of another launch is
not loaded (R119). -/
def State.formGang (s : State) (q : Nat) (r : List W64) (ordinal c : Nat) : State :=
  let g := Lr.g r
  let gang : Gang := ⟨q, ordinal, g, Lr.h r, s.posNa c g, c, s.lcidOf c, 0, 0, 0, false⟩
  let fresh (s : State) (e : Nat) : State :=
    let p := c + e
    if (s.coreAt p).ucodeOwner = some q then s
    else
      { s.putCore p { s.coreAt p with ucodeOwner := some q } with
        ucode := SMap.restrict s.ucode fun k => k / 1024 != p }
  ((List.range g).foldl fresh s).putGang (gangKey q ordinal) gang

/-- A hart that starts iteration L in a slot (R355). -/
def startingHart (q : Nat) (la : Launch) (tvec : W64) (g : Gang) (slot l : Nat) : Hart :=
  let r := la.record
  let ix := Lr.indices r l
  let w (n : Nat) : W64 := BitVec.ofNat 64 n
  let rows := 1024 / g.h
  let vlmax := g.g * g.na * rows
  let h : Hart := { Hart.fresh with
    queue := q, hartid := g.ordinal * g.h + slot, gang := gangKey q g.ordinal, slot := slot, iter := l
    pc := Lr.entry r, view := Lr.pv r, rows := rows
    vl := if Lr.vlreq r = 0 then vlmax else min (Lr.vlreq r) vlmax
    la := Lr.la r, det := Lr.det r, detq := BitVec.ofNat 17 (if Lr.detq r = 0 then 4096 else Lr.detq r)
    qlim := if Lr.detq r = 0 then 4096 else Lr.detq r
    uhpc := Lr.uhpc r, uwatch := Lr.watch r, tvec := tvec, ctxbase := w (Lr.ctx r), gangid := g.gangid }
  (((((h.setReg 1 (Lr.arg r)).setReg 2 (w (SMap.getD ix 0 0))).setReg 3 (w (SMap.getD ix 1 0))).setReg 4
    (w (SMap.getD ix 2 0))).setReg 5 (w (SMap.getD ix 3 0))).setReg 6 (w l)

/-- Start the next iteration of queue q in a slot of a gang. -/
def State.startHart (s : State) (q : Nat) (g : Gang) (slot l : Nat) : State :=
  match s.launchAt q with
  | none => s
  | some la =>
    let h := startingHart q la (s.lqAt q).runTvec g slot l
    let k := gangKey q g.ordinal
    let s := s.putHart (hartKey q h.hartid) { h with age := s.serial }
    let g := (s.gangAt k).getD g
    let s := s.putGang k { g with live := g.live ||| (1#4 <<< slot) }
    { s.putLaunch q (some { la with next := max la.next (l + 1) }) with serial := s.serial + 1, asleep := [] }

/-- Start iterations in every slot of a new gang, as far as there are any (R183, R357). -/
def State.startGang (s : State) (q : Nat) (la : Launch) (ordinal l : Nat) : State :=
  match s.gangAt (gangKey q ordinal) with
  | none => s
  | some g => (List.range g.h).foldl (fun s k => if l + k < la.total then s.startHart q g k (l + k) else s) s

/-! ## The grid walker (R357, R358) -/

/-- The phase delay of a cluster for a record (R358, R377). -/
def State.phaseDelay (s : State) (r : List W64) (n : Nat) : Nat :=
  bits (SMap.getD s.phase n 0).toNat (8 * Lr.phsel r + 7) (8 * Lr.phsel r)

/-- Whether a cluster's phase delay for the launch is over. -/
def State.phaseDone (s : State) (la : Launch) (n : Nat) : Bool := la.phased.contains n || s.phaseDelay la.record n == 0

/-- Wait for the phase delay of clusters (R358). -/
def State.delayPhases (s : State) (q : Nat) (la : Launch) (ns : List Nat) : State :=
  s.putLaunch q (some { la with delayed := la.delayed ++ ns.filter fun n => !la.delayed.contains n && !s.phaseDone la n })

/-- The free slot with the lowest HARTID in positions the launch holds. -/
def State.freeSlot (s : State) (q : Nat) : Option (Gang × Nat) :=
  (s.gangs.filter fun e => e.2.queue == q).findSome? fun e =>
    ((List.range e.2.h).find? fun k => (s.hartAt (hartKey q (e.2.ordinal * e.2.h + k))).isNone).map fun k => (e.2, k)

/-- A free position of a saved gang's shape in the clusters the record allows. -/
def State.resumePos (s : State) (r : List W64) (g : Gang) : Option Nat :=
  ((Lr.clusters r).flatMap fun n => clusterPositions n g.g).find? fun c => s.posNa c g.g == g.na && s.posFree c g.g

/-- Whether a saved gang of a launch that resumes could be placed now: it goes before any further iteration (R363,
R381). -/
def State.placesSaved (s : State) (la : Launch) : Bool :=
  la.saved.any fun x => !x.byCtxsv && (s.resumePos la.record x.gang).isSome

/-- Whether the grid walker hands out iterations of a launch: while it runs, or resumes with no saved gang that could be
placed (R381). -/
def State.walks (s : State) (l : LQ) (la : Launch) : Bool := l.state == 1 || (l.state == 4 && !s.placesSaved la)

/-- Whether a launch that resumes waits for a position of its own: for a saved gang of it one is free (R357, R363). -/
def State.awaitsPlace (s : State) (l : LQ) (la : Launch) : Bool := l.state == 4 && s.placesSaved la

/-- Whether no launch of higher priority, or of equal priority and lower queue, waits for a position (R357). -/
def State.firstInLine (s : State) (q : Nat) : Bool :=
  match s.launchAt q with
  | none => false
  | some la =>
    !s.lqs.any fun e =>
      match e.2.launch with
      | some lb => e.1 != q && (s.awaitsPlace e.2 lb ||
          (s.walks e.2 lb && lb.next < lb.total && (s.choices lb.record).head?.isSome &&
            (s.freeSlot e.1).isNone && (!Lr.det lb.record || lb.detHarts == 0))) &&
          (Lr.prio la.record < Lr.prio lb.record || (Lr.prio la.record == Lr.prio lb.record && e.1 < q))
      | none => false

/-- Dispatch without MODE.DET: the next iteration to a free slot, or a new gang. -/
def State.dispatchPlain (s : State) (q : Nat) (la : Launch) : State :=
  match s.freeSlot q with
  | some (g, k) => s.startHart q g k la.next
  | none =>
    match (s.choices la.record).head? with
    | none => s
    | some c =>
      if !s.firstInLine q then s
      else if !s.phaseDone la (c / 24) then s.delayPhases q la [c / 24]
      else
        let p := s.newOrdinal q la
        let la := { la with phased := (c / 24) :: la.phased }
        ((s.putLaunch q (some la)).formGang q la.record p c).startGang q la p la.next

/-- The first dispatch under MODE.DET: all the positions it will ever have, ordinals by first core (R356, R357). -/
def State.dispatchFirst (s : State) (q : Nat) (la : Launch) : State :=
  let r := la.record
  let cs := (s.choices r).take ((la.total + Lr.h r - 1) / Lr.h r)
  if cs.isEmpty || !s.firstInLine q then s
  else if cs.any fun c => !s.phaseDone la (c / 24) then s.delayPhases q la (cs.map fun c => c / 24)
  else
    let sorted := (List.range 384).filter fun c => cs.contains c
    let la := { la with detHarts := sorted.length * Lr.h r, phased := cs.map fun c => c / 24 }
    let s := s.putLaunch q (some la)
    sorted.zipIdx.foldl (fun s x => (s.formGang q r x.2 x.1).startGang q la x.2 (x.2 * Lr.h r)) s

/-- Whether the slot of the next iteration of a MODE.DET launch is free (R357). -/
def State.detSlotFree (s : State) (q : Nat) (la : Launch) : Bool :=
  la.detHarts != 0 && la.next < la.total && la.commit.isNone && (s.hartAt (hartKey q (la.next % la.detHarts))).isNone

/-- Dispatch a later iteration under MODE.DET: iteration L to slot L mod H (R357). -/
def State.dispatchDet (s : State) (q : Nat) (la : Launch) : State :=
  if !s.detSlotFree q la then s
  else
    let id := la.next % la.detHarts
    let n := Lr.h la.record
    match s.gangAt (gangKey q (id / n)) with
    | some g => s.startHart q g (id % n) la.next
    | none => s

/-! ## Leaving a position (R357, R360) -/

/-- Clear a core that its gang leaves: rows, tiles, deque; lanes retired meanwhile go (R360, R400). -/
def State.clearCore (s : State) (p : Nat) : State :=
  let c := s.coreAt p
  ((s.clearRows p).clearTiles p).putCore p { c with
    deque := [], errs := [], mqueue := [], request := false
    lanes := c.lanes &&& ~~~c.pendingLanes, pendingLanes := 0 }

/-- A gang leaves its position; a channel it leaves in error is remembered by the launch (R292, R360). -/
def State.leave (s : State) (k : Nat) : State :=
  match s.gangAt k with
  | none => s
  | some g =>
    let ps := (List.range g.g).map (g.first + ·)
    let err := ps.any fun p => !(s.coreAt p).errs.isEmpty
    let s := { s with gangs := SMap.del s.gangs k, asleep := [] }
    let s := ps.foldl State.clearCore s
    s.putLaunch g.queue ((s.launchAt g.queue).map fun l => { l with copyErr := l.copyErr || err })

/-- Whether a position of a launch is still needed: an iteration remains, or under MODE.DET, which holds its positions
until its last iteration exits, a hart still runs (R357). -/
def State.needsPlace (s : State) (q : Nat) (la : Launch) : Bool :=
  la.next < la.total || (la.detHarts != 0 && s.harts.any fun e => e.2.queue == q)

/-- Leave the position of a gang whose last slot is free when it is no longer needed. -/
def State.leaveIfDone (s : State) (k : Nat) : State :=
  match s.gangAt k with
  | none => s
  | some g =>
    if s.harts.any fun e => e.2.gang == k then s
    else
      match s.launchAt g.queue with
      | some la => if s.needsPlace g.queue la then s else s.leave k
      | none => s.leave k

/-- Leave the positions of queue q whose slots are all free when no iteration remains for them (R357). -/
def State.leaveIdle (s : State) (q : Nat) : State :=
  (s.gangs.filter fun e => e.2.queue == q).foldl (fun s e => s.leaveIfDone e.1) s

/-- ITERATION_DISPATCH of queue q (R357, R381) (DEDUCED, log 36). -/
def State.dispatch (s : State) (q : Nat) : State :=
  match s.launchAt q with
  | none => s
  | some la =>
    if !s.walks (s.lqAt q) la || la.total ≤ la.next then s
    else if !Lr.det la.record then awake ((s.dispatchPlain q la).leaveIdle q)
    else if la.detHarts = 0 then awake (s.dispatchFirst q la)
    else awake (s.dispatchDet q la)

/-! ## A hart's end (R371) -/

/-- Whether a hart's work outside its convoy is over, Pantry aside (R68, R218, R278, R371). -/
def State.quiet (s : State) (id : Nat) (h : Hart) : Bool :=
  h.fills.isEmpty && h.vfills.isEmpty && h.drain.isEmpty && !(s.atoms.any fun a => a.hart == id) &&
  !(s.remotes.any fun r => r.hart == id) && !s.flagsPending id

/-- End a hart: its Pantry requests are withdrawn, a status register of a copy push is forgotten, its slot is free
(R320, R356, R371). -/
def State.endHart (s : State) (id : Nat) (h : Hart) : State :=
  let s := (s.withdrawReqs id).unpark id
  let forget (c : Core) : Core := { c with copies := c.copies.map fun x => if x.hart = id then { x with status := none } else x }
  let s := { s with
    cores := s.cores.map fun (e : Nat × Core) => (e.1, forget e.2)
    harts := SMap.del s.harts id
    asleep := [] }
  let s := match s.gangAt h.gang with
    | some g => (s.putGang h.gang { g with live := g.live &&& ~~~(1#4 <<< h.slot) }).gangBarrier h.gang
    | none => s
  s.leaveIdle h.queue

/-- EXIT (R371) (DEDUCED, log 47). -/
def State.exit (s : State) (id : Nat) (h : Hart) : Res :=
  if !s.quiet id h then .busy s
  else if h.pantryBusy then .wait s
  else .done (s.endHart id h)

end Sys2Proof.Machine
end

