-- ==== Sys2Proof/Machine/Context.lean ====
section
/-! DEFINITION. Stopping and settling harts (R167, R218, R278, R363, R364), and the context area (R365): saving a gang and
loading it. -/

namespace Sys2Proof.Machine

open Sys2Proof

/-! ## Stopping and settling (R363, R364) -/

/-- Stop a hart at its waiting instruction, or withdraw its convoy; its wait is issued again on resumption. One that has
acted on elements stops at the lowest it has not acted on: its convoy goes on as after a stop without a trap (R363). -/
def Hart.halt (h : Hart) : Hart :=
  match h.conv with
  | some c =>
    if h.done != 0 && writesElements (c.instrs.getD c.idx .nop) then h.stopHere none 0 (some h.done)
    else
      { h.dropConv with
        ci := c.idx, entry := if c.idx = h.ci then h.entry else .trapReturn, qend := false, cwait := none, go := false }
  | none => h

/-- A CTXSV or MIGR that has begun to stop another gang completes before its own hart stops (R363). -/
def Hart.stopping (h : Hart) : Bool :=
  h.cwait.isSome && match h.current with
    | some (.ctxsv _) => true
    | some (.migr _) => true
    | _ => false

/-- Whether a request of a hart to another device is a wait there, still unanswered: it is withdrawn and made again on
resumption (R278). -/
def Remote.waits (r : Remote) : Bool :=
  r.answer.isNone && match r.op with
    | .fullEmpty _ _ _ => true
    | _ => false

/-- Whether nothing that a hart's convoy itself produces is on its way, and no freeze holds it: what it waits for then is
produced by no earlier instruction of the convoy (R167, R278, R348, R363). -/
def State.waitsOutside (s : State) (id : Nat) (h : Hart) (g : Gang) : Bool :=
  h.fills.isEmpty && h.vfills.isEmpty && h.drain.isEmpty && h.sent.isNone && !(s.atoms.any fun a => a.hart == id) &&
  !((s.parkOf id).bind Park.got).isSome && (s.remotes.all fun r => r.hart != id || r.waits) && !s.flagsPending id &&
  !(s.frozenGang g && match h.current with | some i => usesPasses i | none => false)

/-- The number of cycles the wait of a hart's instruction may still take, as its register gives it: the model counts no
cycles (R278) (DESIGN CHOICE, log 6). -/
def Hart.waitCount (h : Hart) : W64 :=
  let count (on : Bool) (r : Reg) : W64 := if on then BitVec.ofNat 64 (min (h.reg r).toNat (2 ^ 32)) else 0
  if h.waitLeft ≠ 0 then h.waitLeft
  else
    match h.current with
    | some (.ldf o) => count (o.eb 16) o.b
    | some (.ldfe o) => count (o.eb 16) o.b
    | some (.ste o) => count (o.eb 16) o.b
    | some (.waita o) => count (o.eb 3) (rg (o.e 9 4))
    | some (.barGang o) => count (o.eb 0) o.b
    | some (.barClus o) => count (o.eb 0) o.b
    | some (.cwait o) => count (o.eb 6) o.b
    | _ => 0

/-- Withdraw what a stopping hart waits for: it was looked at since the state last changed and could not go on, and what
it waits for is none of its own convoy's results (R363). -/
def State.withdraw (s : State) (id : Nat) (h : Hart) : State :=
  let stopped := match h.conv with | some c => c.stop.isSome | none => true
  match s.gangAt h.gang with
  | none => s
  | some g =>
    if h.waiting && s.asleep.contains id && !stopped && !h.stopping && s.waitsOutside id h g then
      awake (((s.unpark id).dropAnswers id).putHart id { h.halt with waitLeft := h.waitCount })
    else s

/-- The harts of a gang, with their keys. -/
def State.hartsOf (s : State) (k : Nat) : List (Nat × Hart) := s.harts.filter fun e => e.2.gang == k

/-- Withdraw the waits of every hart of a gang. -/
def State.withdrawGang (s : State) (k : Nat) : State := (s.hartsOf k).foldl (fun s e => s.withdraw e.1 e.2) s

/-- Whether a hart stands at a convoy boundary with its operations settled (R363). -/
def State.hartSettled (s : State) (id : Nat) (h : Hart) : Bool :=
  h.conv.isNone && s.quiet id h && s.pantrySettled id h

/-- Whether every hart of a gang is settled, and no record of its engines has its end half done (R302). -/
def State.gangSettled (s : State) (k : Nat) : Bool :=
  ((s.hartsOf k).all fun e => s.hartSettled e.1 e.2) &&
  match s.gangAt k with
  | some g => !(List.range g.g).any fun e => s.ownAsked (g.first + e) none
  | none => true

/-- What a settled gang's harts are left with: Pantry requests withdrawn from their homes, no place in any order. -/
def State.suspend (s : State) (k : Nat) : State :=
  (s.hartsOf k).foldl (fun s e => ((s.suspendReqs e.1).unpark e.1).onHart e.1 Hart.takeFlags) s

/-! ## The context area (R365) -/

/-- Control registers of the context: every number of R70. -/
def ctlNumbers : List Nat :=
  (List.range 0xA0).filter fun r => Legal.crNumber (BitVec.ofNat 12 r)

/-- The rows of a core inside the grants of a gang, `rows` of each slot, as local-store rows (R21, R365). -/
def Gang.grantRows (g : Gang) (rows : Nat → Nat) : List Nat :=
  (List.range g.h).flatMap fun k =>
    (List.range (rows k * g.na)).map fun i => g.vbase k * g.na + i

/-- VGRANT.ROWS of a slot: its hart's, or the launch value where there is none (R100, R189). -/
def State.slotRows (s : State) (g : Gang) (n : Nat) : Nat :=
  ((s.hartAt (hartKey g.queue (g.ordinal * g.h + n))).map Hart.rows).getD (1024 / g.h)

/-- Offset of the hart area of a slot. -/
def hartBase (slot : Nat) : Nat := 0x260000 + 0x8000 * slot

/-- The reserved bytes of core e's region, as offsets and lengths: they read zero (R6, R365). -/
def Gang.reservedSpans (g : Gang) (e : Nat) : List (Nat × Nat) :=
  [(0x25A100, 0xF00), (0x25B208, 0xDF8), (0x25E000, 0x2000)] ++
  if e = 0 then
    ((List.range g.h).flatMap fun k =>
      [(hartBase k + 0x218, 8), (hartBase k + 0x270, 0x90), (hartBase k + 0x900, 0x3700)] ++
      ((List.range 0xA0).filter fun r => !ctlNumbers.contains r).map fun r => (hartBase k + 0x400 + 8 * r, 8)) ++
    [(hartBase g.h, 0x3FF000 - hartBase g.h), (0x3FF008, 0xFF8)]
  else [(0x260000, 0x1A0000)]

/-- A span cut at 64 KiB pages. -/
def pieces (off n : Nat) : List (Nat × Nat) :=
  (List.range ((off % 65536 + n + 65535) / 65536)).map fun j =>
    let lo := if j = 0 then off else (off / 65536 + j) * 65536
    (lo, min (off + n) ((off / 65536 + j + 1) * 65536) - lo)

/-- The offsets below n of bytes from a physical address, inside one page, that may be nonzero. -/
def State.listedFrom (s : State) (pa n : Nat) : List Nat :=
  match s.home pa with
  | .mem a => s.listedBytes (s.redirect a) n
  | .ls _ _ => List.range n
  | _ => []

/-- Write zero to the reserved bytes of core e's region. -/
def State.zeroReserved (s : State) (at' : Nat → Nat → Nat) (g : Gang) (e : Nat) : State :=
  (g.reservedSpans e).foldl (fun s x =>
    (pieces x.1 x.2).foldl (fun s y =>
      (s.listedFrom (at' e y.1) y.2).foldl (fun s i => s.physStore (at' e y.1 + i) 1 0) s) s) s

/-- Whether the reserved bytes of core e's region read zero. -/
def State.reservedZero (s : State) (at' : Nat → Nat → Nat) (g : Gang) (e : Nat) : Bool :=
  (g.reservedSpans e).all fun x => (pieces x.1 x.2).all fun y =>
    (s.listedFrom (at' e y.1) y.2).all fun i => s.physVal (at' e y.1 + i) 1 == 0

/-- Write a value of n bytes at an offset of core e's region. -/
def State.ctxPut (s : State) (at' : Nat → Nat → Nat) (e off n v : Nat) : State := s.physStore (at' e off) n v

/-- Write one row: data, full/empty bits and tags; poisoned data leaves its memory line poisoned (R398). -/
def State.saveRow (s : State) (at' : Nat → Nat → Nat) (p e l : Nat) : State :=
  let k := s.lsRow p l
  let r := s.rowAt k
  let s1 := (List.range 8).foldl (fun s d => s.ctxPut at' e (64 * l + 8 * d) 8 (takeBits r.data (64 * d) 64)) s
  let s2 := (s1.ctxPut at' e (0x200000 + 2 * l) 2 r.full.toNat).ctxPut at' e (0x210000 + l) 1 r.tags.toNat
  if (List.range 16).any fun x => s.wordBad k x then
    match s.home (at' e (64 * l)) with
    | .mem a => { s2 with poison := SMap.put s2.poison (s.redirect a / 64) true }
    | _ => s2
  else s2

/-- The marks of a tile as a doubleword: the counts as far as MCHK can tell them apart (R215) (log 25). -/
def Tile.pack (t : Tile) : Nat :=
  bitAt 0 t.inUse + bitAt 1 t.failed + bitAt 2 t.poisoned + fieldAt 15 8 (min t.discarded 255) +
    fieldAt 63 32 (min t.reruns (2 ^ 32 - 1))

/-- A tile's marks from a doubleword. -/
def Tile.unpack (x : Nat) : Tile := ⟨x.testBit 0, x.testBit 1, x.testBit 2, bits x 15 8, bits x 63 32⟩

/-- The channel of a copy record, with the rest of what a suspended record keeps, as a doubleword (log 25). -/
def CRec.pack (c : CRec) : Nat :=
  fieldAt 2 0 c.ch + bitAt 3 c.chain + bitAt 4 c.chained + bitAt 5 c.words.isSome + bitAt 6 c.status.isSome +
    fieldAt 12 7 ((c.status.getD 0).toNat) + fieldAt 14 13 (c.hart % 4) + bitAt 15 true + fieldAt 63 18 (c.addr / 64)

/-- A suspended copy record from its place in the area; `old` is the record saved there, which gives what the area has no
form for: its serial number and the source bytes read at its begin (log 25). -/
def CRec.unpack (g : Gang) (old : Option CRec) (serial x off : Nat) (ws : List W64) : CRec :=
  { serial := (old.map CRec.serial).getD serial
    hart := hartKey g.queue (g.ordinal * g.h + bits x 14 13 % g.h), queue := g.queue, first := g.first
    addr := bits x 63 18 * 64, ch := bits x 2 0, chain := x.testBit 3
    status := if x.testBit 6 then some (BitVec.ofNat 6 (bits x 12 7)) else none
    words := if x.testBit 5 then some ws else none
    off := off, snap := ((old.filter fun c => c.words == some ws).map CRec.snap).getD [], chained := x.testBit 4 }

/-- The records of a gang on a core, oldest first. -/
def Core.recordsOf (c : Core) (g : Gang) : List CRec := c.copies.filter fun x => x.queue == g.queue && x.first == g.first

/-- Write core e's region, hart areas and header aside. -/
def State.saveCore (s : State) (at' : Nat → Nat → Nat) (g : Gang) (e : Nat) : State :=
  let p := g.first + e
  let c := s.coreAt p
  let put (s : State) (x : Nat × Nat) : State := s.ctxPut at' e x.1 8 x.2
  let s1 := (g.grantRows (s.slotRows g)).foldl (fun s l => s.saveRow at' p e l) (s.zeroReserved at' g e)
  let tiles := (List.range 16).flatMap fun t =>
    if (s.tileAt (tileKey p t)).inUse then
      (List.range 2048).map fun j =>
        (0x218000 + 0x4000 * t + 8 * j,
          (s.tileWord (tileKey p t) (2 * j)).toNat + 2 ^ 32 * (s.tileWord (tileKey p t) (2 * j + 1)).toNat)
    else []
  let loaded (j : Nat) : Bool := (SMap.find s.ucode (p * 1024 + j)).isSome
  let code := (List.range 1024).map fun j => (0x258000 + 8 * j, (SMap.getD s.ucode (p * 1024 + j) 0).toNat)
  let marks := (List.range 16).map fun d => (0x25A000 + 8 * d, ((List.range 64).map fun i => bitAt i (loaded (64 * d + i))).sum)
  let use := (List.range 16).map fun t => (0x25A080 + 8 * t, (s.tileAt (tileKey p t)).pack)
  let dq := (List.range 64).map fun i => (0x25B000 + 8 * i, ((c.deque.getD i 0).setWidth 64 : W64).toNat)
  let ends := [(0x25B200, 2 ^ 32 * c.deque.length)]
  let recs := (List.range 64).flatMap fun n =>
    let x := (c.recordsOf g)[n]?
    let ws := (x.bind CRec.words).getD []
    ((List.range 8).map fun i => (0x25C000 + 128 * n + 8 * i, (ws.getD i 0).toNat)) ++
    [(0x25C040 + 128 * n, (x.map CRec.pack).getD 0), (0x25C048 + 128 * n, (x.map CRec.off).getD 0)] ++
    (List.range 6).map fun i => (0x25C050 + 128 * n + 8 * i, 0)
  (tiles ++ code ++ marks ++ use ++ dq ++ ends ++ recs).foldl put s1

/-- A Pantry request as eight doublewords (log 25). -/
def PReq.pack (p : PReq) : List Nat :=
  let ps := (encode p.instr).map BitVec.toNat
  [ps.getD 0 0 + 2 ^ 32 * ps.getD 1 0, p.region + fieldAt 63 8 ((p.timeout.map (· + 1)).getD 0)] ++
    (List.range 6).map fun i => (p.vals.getD i 0).toNat

/-- A saved Pantry request with the region, timeout and first values as the area gives them. -/
def PReq.loaded (p : PReq) (f : Nat → Nat) : PReq :=
  { p with
    region := bits (f 8) 7 0
    timeout := if bits (f 8) 63 8 = 0 then none else some (bits (f 8) 63 8 - 1)
    vals := p.vals.zipIdx.map fun x => if x.2 < 6 then BitVec.ofNat 64 (f (16 + 8 * x.2)) else x.1 }

/-- A saved Pantry request of a hart as its area alone gives it: values beyond the six that have a place there, and the
row of a row form, come from the registers it names (log 25). -/
def State.areaReq (s : State) (h : Hart) (serial : Nat) (f : Nat → Nat) : Option PReq :=
  match decode [BitVec.ofNat 32 (f 0), BitVec.ofNat 32 (f 0 / 2 ^ 32)] with
  | .error _ => none
  | .ok i =>
    let o := pform i
    if !isPantry i then none
    else
      let row := match if isGet i then h.resultRow o else none with
        | some (q, k) => (s.access (s.agentOf h) q k 0).toOption
        | none => none
      some
        { serial := serial, instr := i, region := bits (f 8) 7 0
          vals := (List.range (if isGet i then o.pV else o.pK)).map fun n =>
            if n < 6 then BitVec.ofNat 64 (f (16 + 8 * n)) else h.reg (rg (o.b.toNat + n))
          status := if isGet i then some o.d else none, rowPa := row
          timeout := if bits (f 8) 63 8 = 0 then none else some (bits (f 8) 63 8 - 1) }

/-- How a hart reached its pc, as two bits. -/
def Entry.code : Entry → Nat
  | .sequential => 0
  | .landing => 1
  | .misaligned => 2
  | .trapReturn => 3

/-- The same from the bits. -/
def Entry.ofCode (n : Nat) : Entry :=
  match n with
  | 0 => .sequential
  | 1 => .landing
  | 2 => .misaligned
  | _ => .trapReturn

/-- The barrier state of a hart, with how it reached its pc, as a doubleword (log 25). -/
def Hart.packBarrier (h : Hart) : Nat :=
  fieldAt 25 24 h.entry.code +
  match h.barrier with
  | some (k, n) => 1 + bitAt 1 k.isSome + bitAt 2 h.released.isSome + fieldAt 15 8 n + fieldAt 23 16 (h.released.getD 0) +
      fieldAt 63 32 (k.getD 0)
  | none => 0

/-- A hart's barrier state and entry from the doubleword; a release that came while it was saved stands (R278). -/
def Hart.withBarrier (h : Hart) (x : Nat) : Hart :=
  { h with
    entry := Entry.ofCode (bits x 25 24)
    barrier := if x.testBit 0 then some (if x.testBit 1 then some (bits x 63 32) else none, bits x 15 8) else none
    released := if h.released.isSome then h.released else if x.testBit 2 then some (bits x 23 16) else none }

/-- The doublewords of a hart area (R365), less the commit buffer. -/
def State.hartArea (s : State) (h : Hart) (g : Gang) : List (Nat × Nat) :=
  let reg (i : Nat) : Nat :=
    if h.isPoisoned (rg i) then (h.poisonValue (rg i)).toNat else (h.reg (rg i)).toNat
  ((List.range 64).map fun i => (8 * i, reg i)) ++
  [(0x200, h.full.toNat), (0x208, h.poison.toNat), (0x210, h.pc.toNat + bitAt 0 h.view)] ++
  ((List.range 4).map fun i => (0x220 + 8 * i, ((h.adesc.toList.getD i 0)).toNat)) ++
  [(0x240, h.packBarrier), (0x248, h.buf.length), (0x250, h.qcount), (0x258, h.waitLeft.toNat), (0x260, h.pwatch.toNat),
    (0x268, h.pwatchPc.toNat)] ++
  ((List.range 4).flatMap fun n =>
    ((h.preqs[n]?).map PReq.pack |>.getD (List.replicate 8 0)).zipIdx.map fun y => (0x300 + 64 * n + 8 * y.2, y.1)) ++
  ctlNumbers.map fun r => (0x400 + 8 * r, (s.ctlRead h g r).toNat)

/-- Write a hart's area. -/
def State.saveHart (s : State) (at' : Nat → Nat → Nat) (h : Hart) (g : Gang) : State :=
  let base := hartBase h.slot
  let s1 := (s.hartArea h g).foldl (fun t x => t.ctxPut at' 0 (base + x.1) 8 x.2) s
  (h.buf.zipIdx).foldl (fun t x => t.ctxPut at' 0 (base + 0x4000 + x.2) 1 x.1.2.toNat) s1

/-- Mark the areas of the slots without a hart: their full/empty mask is zero, which no hart's is (log 25). -/
def State.saveEmptySlots (s : State) (at' : Nat → Nat → Nat) (k : Nat) (g : Gang) : State :=
  ((List.range g.h).filter fun n => !(s.hartsOf k).any fun e => e.2.slot == n).foldl
    (fun t n => t.ctxPut at' 0 (hartBase n + 0x200) 8 0) s

/-- The gang header's doubleword 0 (R365). -/
def Gang.header (g : Gang) : Nat :=
  fieldAt 47 32 g.ordinal + bitAt 16 true + fieldAt 13 8 g.na + fieldAt 7 6 g.h.log2 + fieldAt 5 4 g.g.log2 + fieldAt 3 0 g.queue

/-- Save a settled gang at an area, keep what the area has no form for, and free its position (R363, R365) (DESIGN
CHOICE, log 25). -/
def State.saveGang (s : State) (at' : Nat → Nat → Nat) (k : Nat) (byCtxsv : Bool) : State :=
  match s.gangAt k with
  | none => s
  | some g =>
    let s := s.suspend k
    let lcids := (List.range g.g).map fun e => s.lcidOf (g.first + e)
    let cores := (List.range g.g).map fun e => { s.coreAt (g.first + e) with copies := (s.coreAt (g.first + e)).recordsOf g }
    let s := (List.range g.g).foldl (fun t e => t.saveCore at' g e) s
    let s := (s.hartsOf k).foldl (fun (t : State) (e : Nat × Hart) => t.saveHart at' e.2 g) s
    let s := (s.saveEmptySlots at' k g).ctxPut at' 0 0x3FF000 8 g.header
    let drop (c : Core) : Core := { c with copies := c.copies.filter fun x => !(x.queue == g.queue && x.first == g.first), errs := [], pcache := [] }
    let s := (List.range g.g).foldl (fun t e =>
      (t.putCore (g.first + e) (drop (t.coreAt (g.first + e)))).dropEngines (g.first + e)) s
    let s := s.leave k
    s.putLaunch g.queue ((s.launchAt g.queue).map fun l => { l with saved := l.saved ++ [⟨{ g with stopping := false }, cores, lcids, byCtxsv⟩] })

/-- Control registers a context load writes back. -/
def loadedCtl : List Nat :=
  [0x001, 0x010, 0x011, 0x012, 0x020, 0x021, 0x022, 0x023, 0x024, 0x025, 0x040, 0x041, 0x042, 0x043, 0x044, 0x050, 0x060,
    0x061, 0x062, 0x071, 0x072, 0x080, 0x081, 0x082, 0x083, 0x084]

/-- A hart as its area gives it; what the area has no form for keeps its value. -/
def Hart.loaded (h : Hart) (f : Nat → Nat) : Hart :=
  let w (off : Nat) : W64 := BitVec.ofNat 64 (f off)
  let poison := (w 0x208)
  let h1 : Hart := { h with
    regs := Vector.ofFn fun i => w (8 * i.val)
    full := w 0x200
    poison := poison
    poisonVal := (List.range 64).filterMap fun i => if poison.getLsbD i then some (i, w (8 * i)) else none
    pc := addrBits (w 0x210)
    adesc := Vector.ofFn fun i => w (0x220 + 8 * i.val)
    buf := (h.buf.take (f 0x248)).zipIdx.map fun x => (x.1.1, BitVec.ofNat 8 (f (0x4000 + x.2)))
    qcount := f 0x250
    waitLeft := w 0x258
    pwatch := BitVec.ofNat 6 (f 0x260)
    pwatchPc := w 0x268
    preqs := h.preqs.zipIdx.map fun x => x.1.loaded fun off => f (0x300 + 64 * x.2 + off)
    vl := bits (f 0x400) 17 0
    det := (w 0x680).getLsbD 1
    hartid := bits (f 0x580) 15 0
    gangid := bits (f 0x5A0) 8 0
    view := true }
  let h2 := loadedCtl.foldl (fun (h : Hart) r => h.ctlWrite r (w (0x400 + 8 * r))) (h1.withBarrier (f 0x240))
  { h2 with view := (w 0x210).getLsbD 0 }

/-- A value of n bytes of a context area: what the memory of another device holds is a free value (DESIGN CHOICE, log 56).
-/
def State.areaVal (s : State) (pa n : Nat) : Nat :=
  match s.home pa with
  | .remote => (Config.farEntry s.serial (pa / 8 * 8)).toNat / 2 ^ (8 * (pa % 8)) % 2 ^ (8 * n)
  | _ => s.physVal pa n

/-- Read a value of n bytes at an offset of core e's region. -/
def State.ctxGet (s : State) (at' : Nat → Nat → Nat) (e off n : Nat) : Nat := s.areaVal (at' e off) n

/-- Load one row. -/
def State.loadRow (s : State) (at' : Nat → Nat → Nat) (p e l : Nat) : State :=
  let data := ((List.range 8).map fun d => s.ctxGet at' e (64 * l + 8 * d) 8 * 2 ^ (64 * d)).sum
  let r : Row := ⟨BitVec.ofNat 512 data, BitVec.ofNat 16 (s.ctxGet at' e (0x200000 + 2 * l) 2),
    BitVec.ofNat 8 (s.ctxGet at' e (0x210000 + l) 1)⟩
  let k := s.lsRow p l
  let s1 := s.putRow k r
  if s.physPoison (at' e (64 * l)) 64 then { s1 with badRows := SMap.put s1.badRows k true } else s1

/-- The copy records in core e's region. -/
def State.loadRecords (s : State) (at' : Nat → Nat → Nat) (g : Gang) (e : Nat) (old : List CRec) : List CRec :=
  (List.range 64).filterMap fun n =>
    let x := s.ctxGet at' e (0x25C040 + 128 * n) 8
    if x.testBit 15 then
      some (CRec.unpack g old[n]? (s.serial + 64 * e + n) x (s.ctxGet at' e (0x25C048 + 128 * n) 8)
        ((List.range 8).map fun i => BitVec.ofNat 64 (s.ctxGet at' e (0x25C000 + 128 * n + 8 * i) 8)))
    else none

/-- The slots of an area that hold a hart. -/
def State.savedSlots (s : State) (at' : Nat → Nat → Nat) (g : Gang) : List Nat :=
  (List.range g.h).filter fun n => (s.ctxGet at' 0 (hartBase n + 0x200) 8).testBit 0

/-- VGRANT.ROWS of a slot as an area gives it. -/
def State.areaRows (s : State) (at' : Nat → Nat → Nat) (g : Gang) (n : Nat) : Nat :=
  if (s.savedSlots at' g).contains n then
    min (max (bits (s.ctxGet at' 0 (hartBase n + 0x410) 8) 10 0) 1) (1024 / g.h)
  else 1024 / g.h

/-- Load core e's region; the channel errors come from the saved gang. -/
def State.loadCore (s : State) (at' : Nat → Nat → Nat) (g : Gang) (e : Nat) (old : Core) : State :=
  let p := g.first + e
  let s1 := (g.grantRows (s.areaRows at' g)).foldl (fun t l => t.loadRow at' p e l) s
  let s2 := (List.range 16).foldl (fun t n =>
    let x := Tile.unpack (s.ctxGet at' e (0x25A080 + 8 * n) 8)
    let t := t.putTile (tileKey p n) x
    if x.inUse then
      t.putTileWords (tileKey p n) ((List.range 4096).map fun j => BitVec.ofNat 32 (s.ctxGet at' e (0x218000 + 0x4000 * n + 4 * j) 4))
    else t) s1
  let s3 := (List.range 1024).foldl (fun (t : State) j =>
    if (s.ctxGet at' e (0x25A000 + j / 8) 1).testBit (j % 8) then
      { t with ucode := SMap.put t.ucode (p * 1024 + j) (BitVec.ofNat 64 (s.ctxGet at' e (0x258000 + 8 * j) 8)) }
    else t) { s2 with ucode := SMap.restrict s2.ucode fun k => k / 1024 != p }
  let head := s.ctxGet at' e 0x25B200 4
  let n := (s.ctxGet at' e 0x25B204 4 + 2 ^ 32 - head) % 2 ^ 32
  let dq := (List.range (min n 64)).map fun i => BitVec.ofNat 63 (s.ctxGet at' e (0x25B000 + 8 * ((head + i) % 64)) 8)
  let c := s3.coreAt p
  s3.putCore p { c with
    deque := dq, errs := old.errs, ucodeOwner := some g.queue
    copies := c.copies ++ s.loadRecords at' g e old.copies }

/-- The gang as an area gives it: GBAR and GANGID are registers of its harts. -/
def State.areaGang (s : State) (at' : Nat → Nat → Nat) (g : Gang) : Gang :=
  match (s.savedSlots at' g).head? with
  | none => g
  | some n =>
    let r (k : Nat) : Nat := s.ctxGet at' 0 (hartBase n + 0x400 + 8 * k) 8
    { g with
      gangid := bits (r 0x034) 8 0
      arr := BitVec.ofNat 4 (bits (r 0x035) 3 0), live := BitVec.ofNat 4 (bits (r 0x035) 7 4)
      phase := BitVec.ofNat 8 (bits (r 0x035) 15 8) }

/-- Where an address in a store of a saved gang's own cores lies once the gang is on other cores. -/
def State.follow (s : State) (lcids : List Nat) (c pa : Nat) : Nat :=
  if pa / 2 ^ 46 = s.dev.devid && 0x200000000000 ≤ pa % 2 ^ 46 && pa % 2 ^ 46 < 0x200030000000 then
    match lcids.findIdx? fun j => j == lcidIn pa with
    | some e => s.lsPa (s.lcidOf (c + e)) (pa % 0x200000)
    | none => pa
  else pa

/-- A hart's buffered stores and Pantry row follow its cores (R250, R319). -/
def Hart.moved (h : Hart) (f : Nat → Nat) : Hart :=
  { h with
    buf := h.buf.foldl (fun b x => SMap.put b (f x.1) x.2) []
    bufLines := h.bufLines.map fun l => f (64 * l) / 64
    bufTouch := h.bufTouch.map f
    preqs := h.preqs.map fun p => { p with rowPa := p.rowPa.map f } }

/-- Load a hart from its area; `f` says where its own addresses now lie. -/
def State.loadHart (s : State) (at' : Nat → Nat → Nat) (f : Nat → Nat) (g : Gang) (n : Nat) : State :=
  let id := hartKey g.queue (g.ordinal * g.h + n)
  let h := (s.hartAt id).getD { Hart.fresh with queue := g.queue, gang := gangKey g.queue g.ordinal, slot := n }
  let get (off : Nat) : Nat := s.ctxGet at' 0 (hartBase n + off) (if 0x4000 ≤ off then 1 else 8)
  let h1 := { h.loaded get with rows := s.areaRows at' g n }
  let reqs := if (s.hartAt id).isSome then (h1.moved f).preqs
    else (List.range 4).filterMap fun k => s.areaReq h1 (s.serial + k) fun off => get (0x300 + 64 * k + off)
  State.reissueReqs { s.putHart id { h1.moved f with age := s.serial, preqs := reqs } with serial := s.serial + 4 } id

/-- Load a saved gang onto the position at c; its harts continue there, and their Pantry requests are sent again
(R319, R363, R365). -/
def State.loadGang (s : State) (at' : Nat → Nat → Nat) (x : SavedGang) (c : Nat) : State :=
  let g := { s.areaGang at' x.gang with first := c }
  let k := gangKey g.queue g.ordinal
  let s := s.putGang k g
  let s := (List.range g.g).foldl (fun t e => t.loadCore at' g e (x.cores.getD e Core.fresh)) s
  let s := { s with serial := s.serial + 64 * g.g }
  let s := (s.savedSlots at' g).foldl (fun t n => t.loadHart at' (s.follow x.lcids c) g n) s
  awake (s.putLaunch g.queue ((s.launchAt g.queue).map fun l =>
    { l with saved := l.saved.filter fun y => y.gang.ordinal != g.ordinal }))

/-- Whether an area is well formed for a gang's shape: its header's reserved bits and the reserved bytes of its regions
are zero (R6, R365, R375). -/
def State.areaOk (s : State) (at' : Nat → Nat → Nat) (g : Gang) : Bool := (List.range g.g).all fun e => s.reservedZero at' g e

/-- Whether a gang header is well formed (R365, R375). -/
def headerOk (x : Nat) : Bool :=
  x.testBit 16 && bits x 63 48 == 0 && bits x 31 17 == 0 && bits x 15 14 == 0 && bits x 7 6 != 3 && bits x 5 4 != 3

/-- Where a launch's context area holds a byte of core e of gang P (R365). -/
def ctxAddr (ctx : Nat) (g : Gang) (e off : Nat) : Nat := ctx + (g.ordinal * g.g + e) * 0x400000 + off

end Sys2Proof.Machine
end

