-- ==== Sys2Proof/Machine/Queue.lean ====
section
/-! DEFINITION. The launch queues (R350, R351, R359, R363, R373): a launch's start, completion and ending, pre-emption and
resumption, and the commits of MODE.DET (R248 to R250). -/

namespace Sys2Proof.Machine

open Sys2Proof

/-! ## Completion and ending (R351, R359, R373) -/

/-- Write the completion word and what follows it; unless pre-empted, HEAD advances and the queue is idle (R351). -/
def State.complete (s : State) (q status : Nat) : State :=
  let l := s.lqAt q
  let s := s.physStore l.cpl.toNat 8 (l.head % 65536 * 2 ^ 32 + status)
  let s := if l.msi then s.sendMsi l.vec.toNat else s
  if status = 0x14 then awake (s.putLq q { s.lqAt q with state := 3 })
  else
    awake (s.putLq q { s.lqAt q with
      head := (l.head + 1) % 2 ^ l.size.toNat, state := 0, launch := none, preempt := false, resume := false })

/-- The cleaning at a launch's end (R247, R291, R330, R359). -/
def State.cleanUp (s : State) (q : Nat) : State :=
  let mine (p : Nat) : Bool := (s.coreAt p).ucodeOwner == some q
  let clear (c : Core) : Core :=
    let c := if c.ucodeOwner = some q then { c with ucodeOwner := none } else c
    { c with pcache := c.pcache.filter fun x => x.queue != q }
  { s with
    replicas := s.replicas.filter fun r => r.queue != q
    nodes := s.nodes.filter fun n => n.queue != q
    lbuf := s.lbuf.filter fun b => b.queue != q
    bars := SMap.restrict s.bars fun k => k / 32 % 16 != q
    ucode := SMap.restrict s.ucode fun k => !mine (k / 1024)
    cores := s.cores.filterMap fun e =>
      let c := clear e.2
      if c = Core.fresh then none else some (e.1, c) }

/-- Every key of a hart of queue q. -/
def ofQueue (q id : Nat) : Bool := id / 65536 == q

/-- Whether a request that clears OWN of a record of the launch is still on its way (R359, R373). -/
def State.ownInFlight (s : State) (q : Nat) : Bool :=
  (s.atoms.any fun a => ownOfQueue q a.hart) || s.remotes.any fun r => ownOfQueue q r.hart

/-- Whether a running launch has nothing left to do (R359). -/
def State.launchDone (s : State) (q : Nat) (la : Launch) : Bool :=
  la.next == la.total && la.saved.isEmpty && !(s.harts.any fun e => e.2.queue == q) &&
  !(s.cores.any fun e => e.2.copies.any fun c => c.queue == q) && !(s.atoms.any fun a => ofQueue q a.hart) &&
  !(s.remotes.any fun r => ofQueue q r.hart) && !s.ownInFlight q

/-- Abandon the suspended records of saved gangs (R373). -/
def State.abandonSaved (s : State) (xs : List SavedGang) : State :=
  (xs.flatMap fun x => x.cores.flatMap Core.copies).foldl (fun s c => s.clearOwn c c.first) s

/-- Abandon every copy record of a launch on a core (R373). -/
def State.abandonAll (s : State) (q : Nat) : State :=
  s.cores.foldl (fun t e =>
    let mine := e.2.copies.filter fun c => c.queue == q
    if mine.isEmpty then t
    else
      let c := t.coreAt e.1
      let t := mine.foldl (fun t c => (t.clearOwn c e.1).dropEngine e.1 c.ch) t
      t.putCore e.1 { c with copies := c.copies.filter fun x => x.queue != q }) s

/-- Take every hart and gang of an ending launch away, nothing saved (R373). -/
def State.disband (s : State) (q : Nat) : State :=
  let s := (s.gangs.filter fun e => e.2.queue == q).foldl (fun t e => (t.suspend e.1).leave e.1) s
  let saved := ((s.launchAt q).map Launch.saved).getD []
  let s := ((s.abandonAll q).abandonSaved saved).putLaunch q ((s.launchAt q).map fun l => { l with saved := [] })
  { s with harts := s.harts.filter fun e => e.2.queue != q }

/-- Whether every gang of a queue is settled. -/
def State.queueSettled (s : State) (q : Nat) : Bool :=
  (s.gangs.filter fun e => e.2.queue == q).all fun e => s.gangSettled e.1 && !(s.migs.any fun m => m.gang == e.1)

/-- LAUNCH_COMPLETE of queue q (R359, R373). -/
def State.launchComplete (s : State) (q : Nat) : State :=
  let l := s.lqAt q
  match l.launch with
  | none => s
  | some la =>
    match la.ending with
    | some (status, pc, val, hartid) =>
      let s := s.stopGangs q
      let s := (s.gangs.filter fun e => e.2.queue == q).foldl (fun t e => t.withdrawGang e.1) s
      if !s.queueSettled q || s.pageMoving l.cpl.toNat then s
      else
        let s := s.disband q
        if s.ownInFlight q then s
        else
        let s := s.cleanUp q
        (s.putLq q { s.lqAt q with fpc := addrBits pc, fval := val, fhart := hartid }).complete q status
    | none =>
      if l.state = 1 && s.launchDone q la && !s.pageMoving l.cpl.toNat then (s.cleanUp q).complete q (if la.copyErr then 0x10 else 0) else s

/-- LAUNCH_START of queue q (R351, R353, R354). -/
def State.launchStart (s : State) (q : Nat) : State :=
  let l := s.lqAt q
  if s.pageMoving l.cpl.toNat || !s.dev.bootOk || s.dev.trip || !l.en || l.state ≠ 0 || l.head % l.ring = l.tail % l.ring then s
  else
    let r := (List.range 16).map fun i => BitVec.ofNat 64 (s.physVal (l.base.toNat + 128 * (l.head % l.ring) + 8 * i) 8)
    let gate := l.gates.headD (false, false)
    let s := s.putLq q { l with gates := l.gates.drop 1, runRoot := l.root, runTvec := l.tvec }
    if !Lr.formatOk r gate.1 gate.2 then s.complete q 0x21
    else if Lr.total r = 0 then s.complete q 0
    else if s.badLayout r then s.complete q 0x20
    else
      let la : Launch := ⟨r, 0, Lr.total r, [], [], 0, none, none, [], false⟩
      awake { s.putLq q { s.lqAt q with state := 1, launch := some la } with
        bars := SMap.restrict s.bars fun k => k / 32 % 16 != q }

/-! ## Pre-emption and resumption (R363) -/

/-- PREEMPTION_SAVE of queue q: withdraw waits, save the gangs that are settled, and report when none is left. -/
def State.preemptSave (s : State) (q : Nat) : State :=
  let l := s.lqAt q
  match l.launch with
  | none => s
  | some la =>
    if l.state ≠ 2 || la.commit.isSome || s.mq.moving.isSome then s
    else
      let mine := s.gangs.filter fun e => e.2.queue == q && !s.migs.any fun m => m.gang == e.1
      let s1 := mine.foldl (fun t e => t.withdrawGang e.1) s
      match mine.find? fun e => s1.gangSettled e.1 with
      | some (k, g) =>
        s1.saveGang (ctxAddr (Lr.ctx la.record) g) k false
      | none => if s1.gangs.any fun e => e.2.queue == q then s1 else s1.complete q 0x14

/-- Whether a saved gang's area of the launch's context may be acted on: its header is its own and no reserved bit is set
(R6) (DESIGN CHOICE, log 55). -/
def State.areaFit (s : State) (la : Launch) (x : SavedGang) : Bool :=
  let at' := ctxAddr (Lr.ctx la.record) x.gang
  s.ctxGet at' 0 0x3FF000 8 == x.gang.header && s.areaOk at' x.gang

/-- GANG_RESUME_PLACE of queue q: place a saved gang when no launch of higher priority waits for a position (R357); with
none left the launch runs again. -/
def State.resumePlace (s : State) (q : Nat) : State :=
  let l := s.lqAt q
  match l.launch with
  | none => s
  | some la =>
    if l.state ≠ 4 then s
    else
      match la.saved.filter fun x => !x.byCtxsv with
      | [] => awake (s.putLq q { l with state := 1 })
      | xs =>
        if !s.firstInLine q then s
        else
        match (xs.filter (s.areaFit la)).findSome? fun x => (s.resumePos la.record x.gang).map fun c => (x, c) with
        | some (x, c) => s.loadGang (ctxAddr (Lr.ctx la.record) x.gang) x c
        | none => s

/-! ## Deterministic commit (R248 to R250) -/

/-- Whether a hart of a MODE.DET launch has ended the quantum. -/
def Hart.endedQuantum (h : Hart) : Bool := h.qend

/-- End the quantum of a hart whose convoys have reached its length (R248) (DEDUCED, log 46). -/
def State.quantumEnd (s : State) (id : Nat) : State :=
  match s.hartAt id with
  | some h => if h.det && !h.qend && h.conv.isNone && h.qlim ≤ h.qcount then awake (s.putHart id { h with qend := true }) else s
  | none => s

/-- A commit buffer's bytes as stores: by runs in a line, of which only a line that one store of the quantum wrote whole
goes as one 64-byte store, so that no other clears a poison mark (R398). -/
def Hart.bufStores (h : Hart) : List (Nat × List Byte) :=
  (lineRuns h.buf).flatMap fun x =>
    if x.2.length = 64 && !h.bufLines.contains (x.1 / 64) then [(x.1, x.2.take 32), (x.1 + 32, x.2.drop 32)] else [x]

/-- The harts of queue q in HARTID order. -/
def State.hartsOfQueue (s : State) (q : Nat) : List (Nat × Hart) := s.harts.filter fun e => e.2.queue == q

/-- Whether every hart of the launch has ended the quantum and the commit may begin (R249, R250): none is away, and no
iteration waits for a slot freed at the last commit. -/
def State.commitReady (s : State) (q : Nat) (la : Launch) : Bool :=
  la.detHarts != 0 && !s.detSlotFree q la && !(s.hartsOfQueue q).isEmpty && (s.lqAt q).state == 1 &&
  (s.hartsOfQueue q).all fun e => e.2.endedQuantum &&
    match s.gangAt e.2.gang with
    | some g => !g.stopping
    | none => false

/-- A hart whose part of the commit is still under way: it has the go for its instruction, or its convoy is complete and
has still to retire. -/
def Hart.committing (h : Hart) : Bool := h.go || match h.conv with | some c => c.instrs.length ≤ c.idx | none => false

/-- Whether a store of a hart's buffer must wait: for a page or core that moves, or words a matrix engine reads. -/
def State.bufHeld (s : State) (id : Nat) (h : Hart) : Bool :=
  h.buf.any fun b => s.pageMoving b.1 || s.coreHeld id b.1 || s.storeReserved b.1 1

/-- A hart's turn in the commit: its buffer is written, each of its stores a request of its own (R393), and its waiting
instruction may run (R249); a convoy that retires from now on counts in the next quantum (R248) (DESIGN CHOICE, log 46).
-/
def State.commitHart (s : State) (q : Nat) (la : Launch) (id : Nat) (h : Hart) : State :=
  let s := h.bufTouch.foldl State.touch (s.givePlace id)
  let s := h.bufStores.foldl (fun s x => s.physWrite x.1 x.2) s
  let s := s.onHart id fun h => { h with buf := [], bufLines := [], bufTouch := [], qcount := 0, go := h.waiting }
  awake (s.putLaunch q (some { la with commit := some (h.hartid + 1) }))

/-- A hart begins the next quantum, unless it is blocked (R249, R250) (DEDUCED, log 46). -/
def State.beginQuantum (s : State) (id : Nat) : State :=
  s.onHart id fun h => if h.blocked then h else { h with qend := false, qlim := s.quantum h }

/-- Whether what a blocked hart waits for has come within the commit: its barrier's release (R277), or the reply to its
Pantry request (R322). -/
def State.servedNow (s : State) (h : Hart) : Bool :=
  h.blocked && (h.released.isSome ||
    h.preqs.any fun p => p.status.isSome && s.preplies.any fun r => r.serial == p.serial)

/-- The end of a commit: harts served in it end their waits, then every hart not blocked begins the next quantum. -/
def State.commitEnd (s : State) (q : Nat) (la : Launch) : State :=
  match (s.hartsOfQueue q).find? fun e => s.servedNow e.2 with
  | some e => awake (s.putHart e.1 { e.2 with go := true })
  | none =>
    let s := (s.hartsOfQueue q).foldl (fun t e => t.beginQuantum e.1) s
    awake (s.putLaunch q (some { la with commit := none }))

/-- QUANTUM_COMMIT of queue q, one hart at a time (R249) (DEDUCED, log 46). -/
def State.quantumCommit (s : State) (q : Nat) : State :=
  match s.launchAt q with
  | none => s
  | some la =>
    match la.commit with
    | none => if s.commitReady q la then awake (s.putLaunch q (some { la with commit := some 0 })) else s
    | some n =>
      if (s.hartsOfQueue q).any fun e => e.2.committing then s
      else
        match (s.hartsOfQueue q).find? fun e => n ≤ e.2.hartid with
        | some e =>
          match e.2.buf.find? fun b => s.coreHeld e.1 b.1 with
          | some b => s.takePlace e.1 b.1
          | none => if s.bufHeld e.1 e.2 then s else s.commitHart q la e.1 e.2
        | none => s.commitEnd q la

/-! ## The events -/

/-- LAUNCH_START (R351): An enabled idle queue with pending records fetches record HEAD as an acquire and starts it. -/
def execLaunchStart (s : State) : Host.Outcome State Fault Refusal :=
  .next (s.launchStart s.who)

/-- ITERATION_DISPATCH (R357): The grid walker hands the next iteration to a free slot, or takes a new gang position once one is free. -/
def execIterationDispatch (s : State) : Host.Outcome State Fault Refusal :=
  .next (s.dispatch s.who)

/-- The phase delay of a cluster for queue q's launch ends (R358). -/
def State.phaseExpire (s : State) (q n : Nat) : State :=
  match s.launchAt q with
  | some la =>
    if la.delayed.contains n then
      awake (s.putLaunch q (some { la with delayed := la.delayed.filter fun m => m != n, phased := n :: la.phased }))
    else s
  | none => s

/-- PHASE_DELAY_EXPIRE (R358): A cluster's kernel-start phase delay ends and that cluster's first dispatch proceeds
(DEDUCED, log 36). -/
def execPhaseDelayExpire (q : Nat) (cluster : Nat) (s : State) : Host.Outcome State Fault Refusal :=
  .next (s.phaseExpire q cluster)

/-- HART_END (R371): Once EXIT's drain is complete the hart ends and frees its slot. -/
def execHartEnd (s : State) : Host.Outcome State Fault Refusal :=
  match s.waitingAt s.who with
  | some .exit => run .exit (fun s id h _ _ => s.exit id h) (s.as s.who)
  | _ => .next s

/-- LAUNCH_COMPLETE (R359): With all harts exited and all copies and posted operations settled, the launch is cleaned up and completes. -/
def execLaunchComplete (s : State) : Host.Outcome State Fault Refusal :=
  .next (s.launchComplete s.who)

/-- PREEMPTION_SAVE (R363): Once every hart has stopped, each gang is settled and written to the context area, and status 0x14 is reported. -/
def execPreemptionSave (s : State) : Host.Outcome State Fault Refusal :=
  .next (s.preemptSave s.who)

/-- GANG_RESUME_PLACE (R363): A saved gang is placed on a free position of the same shape and resumes at its saved pc. -/
def execGangResumePlace (s : State) : Host.Outcome State Fault Refusal :=
  .next (s.resumePlace s.who)

/-- QUANTUM_END (R248): A hart's quantum ends after MODE.DETQ convoys have retired. -/
def execQuantumEnd (s : State) : Host.Outcome State Fault Refusal :=
  .next (s.quantumEnd s.who)

/-- QUANTUM_COMMIT (R249): When every running hart has ended the quantum, their buffers and pending synchronising instructions are performed in HARTID order. -/
def execQuantumCommit (s : State) : Host.Outcome State Fault Refusal :=
  .next (s.quantumCommit s.who)

/-- LQ_PREEMPT (R363): Writing 1 to LQ.CTL.PREEMPT requests pre-emption of the running launch; outside STATE 1 or 4 the request is dropped. -/
def execLqPreempt (s : State) : Host.Outcome State Fault Refusal :=
  .next (if s.who < 16 then awake (s.requestPreempt s.who) else s)

/-- LQ_RESUME (R363): Writing 1 to LQ.CTL.RESUME while STATE is 3 starts the resumption of the pre-empted launch. -/
def execLqResume (s : State) : Host.Outcome State Fault Refusal :=
  .next (if s.who < 16 then awake (s.requestResume s.who) else s)

end Sys2Proof.Machine
end

