-- ==== Sys2Proof/Machine/System.lean ====
section
/-! DEFINITION. BRK and SVC, EXIT, YIELD, URET and ERET (R362, R369 to R371), and the privileged instructions (R374,
R375). -/

namespace Sys2Proof.Machine

open Sys2Proof

/-- BRK and SVC: the trap records the convoy's sequential successor, TCI 0 and the immediate (R370). -/
def State.software (s : State) (id : Nat) (h : Hart) (c : Cause) (imm : BitVec 12) : Res :=
  .done (s.takeTrap id h c h.link 0 (imm.setWidth 64))

/-- The completion status of exit.fail (R371). -/
def failStatus (code : Nat) : Nat := if (1 ≤ code && code ≤ 0x13) || code = 0x15 then code else 0x22

/-- exit.fail ends the launch (R371, R373). -/
def State.exitFail (s : State) (id : Nat) (h : Hart) : Res :=
  .done ((s.putHart id { h with conv := none }).endLaunch h.queue (failStatus h.ptcode.toNat) h.ptpc h.ptval h.hartid)

/-- The answer of a privileged instruction: its sd is interlocked, written as the instruction completes (R67, R374). -/
def State.reply (s : State) (id : Nat) (d : Reg) (v : Nat) : Res :=
  .done (awake (s.onHart id fun h => h.setReg d (BitVec.ofNat 64 v)))

/-! ## LAUNCH and PREEMPT -/

/-- LAUNCH of the record at a physical address (R375): a disabled queue is answered before a full ring. -/
def State.launchFrom (s : State) (id : Nat) (h : Hart) (d : Reg) (pa q : Nat) : Res :=
  let l := s.lqAt q
  if !l.en then s.reply id d 2
  else if (l.tail + 1) % l.ring = l.head % l.ring then s.reply id d 1
  else if s.mq.moving.isSome then .busy s
  else
    let slot := l.base.toNat + 128 * (l.tail % l.ring)
    let half (i : Nat) : List Byte := leBytes 64 ((s.loadAny id h (pa + 64 * i) 64 i).getD 0)
    let t := (s.readTouch pa 64).readTouch (pa + 64) 64
    let t := ((t.physWrite slot (half 0)).physWrite (slot + 64) (half 1)).writeTail q (l.tail + 1) (h.gate 2)
    t.reply id d 0

/-- LAUNCH (R375). -/
def State.launchRecord (s : State) (id : Nat) (h : Hart) (o : SForm) : Res :=
  let va := h.reg o.a
  match s.locate h va 128 .load 0 with
  | .error c => .stop s c va none
  | .ok pa =>
    if !s.settledFor id h 3 then .busy s
    else if s.accessHeld id pa 128 then s.holdHere id pa
    else
      match if s.home pa = .remote then s.askRemote id [(pa, .read 64, 0), (pa + 64, .read 64, 1)] else none with
      | some t => .busy t
      | none =>
        if (s.loadAny id h pa 64).isNone || (s.loadAny id h (pa + 64) 64 1).isNone then .stop s .poison va none
        else s.launchFrom id h o.d pa (h.reg o.b).toNat

/-- PREEMPT (R363, R375). -/
def State.preemptQueue (s : State) (id : Nat) (d : Reg) (q : W64) : Res :=
  if 15 < q.toNat then s.reply id d 1
  else
    let n := q.toNat
    match s.launchAt n with
    | none => s.reply id d 1
    | some la =>
      if (s.lqAt n).state ≠ 1 && (s.lqAt n).state ≠ 4 then s.reply id d 1
      else (s.requestPreempt n).reply id d (if la.ctx = 0 then 2 else 0)

/-! ## CTXSV and CTXLD -/

/-- The pages of a virtual context area of g regions, or the first fault with its address. -/
def State.ctxPages (s : State) (h : Hart) (va : W64) (g : Nat) (k : Access) : Except (Cause × W64) (List Nat) :=
  (List.range (64 * g)).foldl (fun acc j =>
    match acc with
    | .error e => .error e
    | .ok l =>
      let a := va + BitVec.ofNat 64 (65536 * j)
      match s.access (s.agentOf h) a k 0 with
      | .error c => .error (c, a)
      | .ok pa => .ok (pa :: l)) (.ok [])

/-- Where a virtual context area with these pages (last first) holds a byte of core e's region. -/
def pagedAddr (pages : List Nat) (e off : Nat) : Nat :=
  pages.getD (pages.length - 1 - (64 * e + off / 65536)) 0 + off % 65536

/-- Stop a gang for a context save. -/
def State.stopGang (s : State) (k : Nat) : State :=
  match s.gangAt k with
  | some g => s.putGang k { g with stopping := true }
  | none => s

/-- Let a gang go on that was stopped for a context save, unless its launch is pre-empted or it migrates. -/
def State.unstop (s : State) (k : Nat) : State :=
  match s.gangAt k with
  | some g => s.putGang k { g with stopping := (s.lqAt g.queue).state = 2 || s.migs.any fun m => m.gang == k }
  | none => s

/-- CTXSV of the gang with key k, once its area's pages are known (R375): stop it, wait until it is settled, save it. -/
def State.ctxsvGang (s : State) (id : Nat) (h : Hart) (d : Reg) (k : Nat) (pages : List Nat) : Res :=
  if !s.settledFor id h 3 then .busy s
  else
    let s := s.stopGang k
    let s := if s.committing (k / 65536) then s else s.withdrawGang k
    if s.committing (k / 65536) || s.mq.moving.isSome || !s.gangSettled k || s.migs.any fun m => m.gang == k then
      .wait (s.onHart id fun h => { h with cwait := some [k] })
    else ((s.saveGang (pagedAddr pages) k true)).reply id d 0

/-- CTXSV (R375) (DEDUCED, log 39). -/
def State.ctxsv (s : State) (id : Nat) (h : Hart) (o : SForm) : Res :=
  let va := h.reg o.a
  let c := (h.reg o.b).toNat
  if va.toNat % 0x400000 ≠ 0 then .stop s .align va none
  else
    match if c < 384 then s.gangOn (s.coreOfLcid c) else none with
    | none => s.reply id o.d 1
    | some (k, g) =>
      if k = h.gang then s.reply id o.d 2
      else if g.queue ≠ h.queue && (s.lqAt g.queue).state ≠ 2 && (s.lqAt g.queue).state ≠ 3 then s.reply id o.d 3
      else
        match s.ctxPages h va g.g .store with
        | .error (e, a) => .stop (if h.cwait.isSome then s.unstop k else s) e a none
        | .ok pages => s.ctxsvGang id h o.d k pages

/-- The gang a context area's header names: the one saved under that ordinal with that header, else one that the area alone
describes (R365, R375); none when no launch runs from the queue, or a gang of it on a core has the ordinal (DESIGN CHOICE,
log 25). -/
def State.savedFor (s : State) (x : Nat) : Option SavedGang :=
  let q := bits x 3 0
  let p := bits x 47 32
  let g := 2 ^ bits x 5 4
  match s.launchAt q with
  | none => none
  | some la =>
    if (s.gangAt (gangKey q p)).isSome then none
    else
      match la.saved.find? fun y => y.gang.ordinal == p && y.gang.header == x with
      | some y => some y
      | none => some ⟨⟨q, p, g, 2 ^ bits x 7 6, bits x 13 8, 0, 0, 0, 0, 0, false⟩, List.replicate g Core.fresh, [], true⟩

/-- CTXLD of a saved gang onto the position at physical core c, once its area's pages are known (R6, R375). -/
def State.ctxldGang (s : State) (id : Nat) (d : Reg) (x : SavedGang) (pages : List Nat) : Option Nat → Res
  | none => s.reply id d 2
  | some c =>
    let g := x.gang
    if !s.areaOk (pagedAddr pages) g then s.reply id d 1
    else if c % g.g ≠ 0 || s.posNa c g.g ≠ g.na then s.reply id d 2
    else if !s.posFree c g.g then s.reply id d 3
    else
      let t := s.loadGang (pagedAddr pages) x c
      let k := gangKey g.queue g.ordinal
      (if (t.lqAt g.queue).state = 2 || (t.lqAt g.queue).state = 5 then t.stopGang k else t).reply id d 0

/-- CTXLD (R375) (DEDUCED, log 39). -/
def State.ctxld (s : State) (id : Nat) (h : Hart) (o : SForm) : Res :=
  let va := h.reg o.a
  let c := (h.reg o.b).toNat
  if va.toNat % 0x400000 ≠ 0 then .stop s .align va none
  else
    match s.access (s.agentOf h) (va + 0x3FF000) .load 0 with
    | .error e => .stop s e (va + 0x3FF000) none
    | .ok pa =>
      if !s.settledFor id h 0 then .busy s
      else if s.accessHeld id pa 8 then s.holdHere id pa
      else if s.physPoison pa 8 then .stop s .poison (va + 0x3FF000) none
      else
        let x := s.areaVal pa 8
        if !headerOk x then s.reply id o.d 1
        else
          match s.savedFor x with
          | none => s.reply id o.d 1
          | some y =>
            match s.ctxPages h va y.gang.g .load with
            | .error (e, a) => .stop s e a none
            | .ok pages => s.ctxldGang id o.d y pages (if c < 384 then some (s.coreOfLcid c) else none)

/-! ## MIGR and LCIDSET -/

/-- The lanes of a core once those retired meanwhile are taken, unless a gang holds it (R12, R400). -/
def State.takeLanes (s : State) (p : Nat) (c : Core) : Core :=
  if (s.gangOn p).isSome then c else { c with lanes := c.lanes &&& ~~~c.pendingLanes, pendingLanes := 0 }

/-- Reserve, or free, the g cores of a migration's destination (R413). -/
def State.reserve (s : State) (c g : Nat) (b : Bool) : State :=
  (List.range g).foldl (fun s e =>
    let k := { s.coreAt (c + e) with reserved := b }
    s.putCore (c + e) (if b then k else s.takeLanes (c + e) k)) s

/-- Begin the migration of a gang to the position at c: the destination is reserved and the gang stops (R380, R413). -/
def State.beginMig (s : State) (k : Nat) (g : Gang) (c : Nat) : State :=
  awake { (s.reserve c g.g true).stopGang k with migs := s.migs ++ [⟨k, g.g, g.first, c, false, []⟩] }

/-- Whether the position at c can take a gang by migration (R375, R379). -/
def State.canTake (s : State) (g : Gang) (c : Nat) : Bool :=
  c / 24 == g.first / 24 && c % g.g == 0 && s.posNa c g.g == g.na && s.posFree c g.g

/-- MIGR (R375): refused, or begun; it is complete when the migration is over (DEDUCED, log 39). -/
def State.migr (s : State) (id : Nat) (h : Hart) (o : SForm) : Res :=
  match h.cwait with
  | some l =>
    if s.migs.any fun m => l.contains m.gang then .wait s
    else s.reply id o.d 0
  | none =>
    let a := (h.reg o.a).toNat
    let b := (h.reg o.b).toNat
    if 384 ≤ a || 384 ≤ b then s.reply id o.d 1
    else
      match s.gangOn (s.coreOfLcid a) with
      | none => s.reply id o.d 1
      | some (k, g) =>
        let c := s.coreOfLcid b
        if k = h.gang || g.stopping || !s.canTake g c then s.reply id o.d 1
        else .wait ((s.beginMig k g c).onHart id fun h => { h with cwait := some [k] })

/-- LCIDSET (R29, R375). -/
def State.lcidset (s : State) (id : Nat) (h : Hart) (o : SForm) : Res :=
  let a := (h.reg o.a).toNat
  let b := (h.reg o.b).toNat
  let p := s.coreOfLcid a
  let q := s.coreOfLcid b
  if 384 ≤ a || 384 ≤ b || a / 24 ≠ b / 24 || !s.posFree p 1 || !s.posFree q 1 then s.reply id o.d 1
  else (s.swapLcids p q).reply id o.d 0

/-! ## TLBINV and TLBINVA -/

/-- Remove translations of the named queues that cover an address, or all of them (R225, R375) (DEDUCED, log 39). -/
def State.dropTlb (s : State) (queues : W64) (va : Option W64) : State :=
  { s with tlb := s.tlb.filter fun t =>
      !((queues.getLsbD 4 || t.queue == bits queues.toNat 3 0) &&
        match va with
        | some v => t.base ≤ v.toNat && v.toNat < t.base + t.size
        | none => true) }

/-- TLBINV and TLBINVA wait for the hart's earlier stores, a release at device scope (R375). -/
def State.invalidate (s : State) (id : Nat) (h : Hart) (queues : W64) (va : Option W64) : Res :=
  if s.settledFor id h 3 then .done (s.dropTlb queues va) else .busy s

/-! ## The instructions -/

/-- BRK (R370): Raises BREAK (user class), with TVAL = imm. -/
def execBrk (imm : BitVec 12) (s : State) : Host.Outcome State Fault Refusal :=
  run (.brk imm) (fun s id h _ _ => s.software id h .brk imm) s

/-- SVC (R370): Raises SVC (privileged class), with TVAL = imm. -/
def execSvc (imm : BitVec 12) (s : State) : Host.Outcome State Fault Refusal :=
  run (.svc imm) (fun s id h _ _ => s.software id h .svc imm) s

/-- EXIT (R371): Waits for the hart's accesses to drain, then ends the hart. -/
def execExit (s : State) : Host.Outcome State Fault Refusal :=
  run .exit (fun s id h _ _ => s.exit id h) s

/-- EXIT_FAIL (R371): Privileged only: ends the launch with a failure status. -/
def execExitFail (s : State) : Host.Outcome State Fault Refusal :=
  run .exitFail (fun s id h _ _ => s.exitFail id h) s

/-- YIELD (R362): The hart becomes the youngest ready hart and lets a ready sibling issue next. -/
def execYield (s : State) : Host.Outcome State Fault Refusal :=
  runHart .yield (fun h => { h with yielded := true }) s

/-- URET (R369): Returns from the user handler to TPC and TCI. -/
def execUret (s : State) : Host.Outcome State Fault Refusal :=
  runHart .uret (fun h => h.uret) s

/-- ERET (R369): Returns from the privileged handler to PTPC and PTCI, restoring the view. -/
def execEret (s : State) : Host.Outcome State Fault Refusal :=
  runHart .eret (fun h => h.eret) s

/-- LAUNCH (R375): Writes a launch record into a queue and advances TAIL (DEDUCED, log 40). -/
def execLaunch (o : SForm) (s : State) : Host.Outcome State Fault Refusal :=
  run (.launch o) (fun s id h _ _ => s.launchRecord id h o) s

/-- PREEMPT (R375): Requests pre-emption of a queue's launch (DEDUCED, log 15). -/
def execPreempt (o : SForm) (s : State) : Host.Outcome State Fault Refusal :=
  run (.preempt o) (fun s id h _ _ => s.preemptQueue id o.d (h.reg o.a)) s

/-- CTXSV (R375): Stops and saves a gang to a context area (DESIGN CHOICE, log 25). -/
def execCtxsv (o : SForm) (s : State) : Host.Outcome State Fault Refusal :=
  run (.ctxsv o) (fun s id h _ _ => s.ctxsv id h o) s

/-- CTXLD (R375): Loads a saved gang onto a position and resumes it (DESIGN CHOICE, log 25). -/
def execCtxld (o : SForm) (s : State) : Host.Outcome State Fault Refusal :=
  run (.ctxld o) (fun s id h _ _ => s.ctxld id h o) s

/-- MIGR (R375): Moves a gang as thermal migration does. -/
def execMigr (o : SForm) (s : State) : Host.Outcome State Fault Refusal :=
  run (.migr o) (fun s id h _ _ => s.migr id h o) s

/-- LCIDSET (R375): Exchanges the LCIDs of two idle cores. -/
def execLcidset (o : SForm) (s : State) : Host.Outcome State Fault Refusal :=
  run (.lcidset o) (fun s id h _ _ => s.lcidset id h o) s

/-- TLBINV (R375): Invalidates one page's translations in every TLB. -/
def execTlbinv (o : SForm) (s : State) : Host.Outcome State Fault Refusal :=
  run (.tlbinv o) (fun s id h _ _ => s.invalidate id h (h.reg o.b) (some (h.reg o.a))) s

/-- TLBINVA (R375): Invalidates every translation of the named queues. -/
def execTlbinva (o : SForm) (s : State) : Host.Outcome State Fault Refusal :=
  run (.tlbinva o) (fun s id h _ _ => s.invalidate id h (h.reg o.b) none) s

end Sys2Proof.Machine
end

