-- ==== Sys2Proof/Machine/Power.lean ====
section
/-! DEFINITION. Droop freezes and the power clamp (R97, R378, R402), soft errors and the scrub (R99), the thermal trip
(R402), and the thermal migration of a gang (R379, R380, R411 to R413). -/

namespace Sys2Proof.Machine

open Sys2Proof

/-! ## Power -/

/-- Freeze passes and matrix work cycles on every core of a cluster (R378) (DEDUCED, log 43). -/
def State.freeze (s : State) (n : Nat) : State :=
  (List.range 24).foldl (fun s c =>
    (s.putCore (24 * n + c) { s.coreAt (24 * n + c) with frozen := true }).logCore (24 * n + c) 5) s

/-- The end of a core's freeze (R97). -/
def State.thaw (s : State) (p : Nat) : State :=
  if (s.coreAt p).frozen then awake (s.putCore p { s.coreAt p with frozen := false }) else s

/-! ## Soft errors and the scrub (R99) -/

/-- The scrub of one row: a single-bit error of a group is corrected and logged; a row with a double-bit error is left
poisoned and logged (DEDUCED, log 43). -/
def State.scrubRow (s : State) (k : Nat) : State :=
  let p := k / 32768
  (List.range 9).foldl (fun s d =>
    match (s.upsetsIn k d).length with
    | 0 => s
    | 1 => (s.dropUpsets k d).logCore p 0
    | _ => { s.logCore p 1 with badRows := SMap.put s.badRows k true }) s

/-- The rows that hold an upset. -/
def State.upsetRows (s : State) : List Nat := (s.upsets.map fun e => e.1 / 1024).eraseDups

/-- A soft error flips a bit of a row: bits 536 to 605 are its check bits (R92). -/
def State.upset (s : State) (core array row bit : Nat) : State :=
  if core < 384 && array < 32 && row < 1024 && bit < 606 then
    let k := 1024 * rowKey core array row + bit
    { s with upsets := if (SMap.find s.upsets k).isSome then SMap.del s.upsets k else SMap.put s.upsets k true }
  else s

/-! ## The thermal trip (R402) -/

/-- Running launches are lost with no completion word; nothing runs until a reset (DEDUCED, log 43). -/
def State.trip (s : State) : State :=
  { s with
    dev := { s.dev with trip := true }
    gangs := [], harts := [], atoms := [], parks := [], migs := [], pmsgs := [], pparks := [], preplies := []
    heldAt := [], peerWaits := [], hostQ := []
    cores := s.cores.map fun e => (e.1, { e.2 with mqueue := [], copies := [], request := false })
    mq := { s.mq with job := none, moving := none }
    remotes := s.remotes.filter fun _ => false
    lqs := s.lqs.map fun e => (e.1, { e.2 with launch := none, state := 0, preempt := false, resume := false }) }

/-! ## Thermal requests (R379, R413) -/

/-- The hottest sensor of the g cores from c. -/
def State.hottest (s : State) (c g : Nat) : Nat := ((List.range g).map fun e => (s.coreAt (c + e)).sensor).foldl max 0

/-- The coolest position of a cluster that can take a gang: the lowest hottest sensor, ties to the lowest first core
(R379). -/
def State.coolest (s : State) (g : Gang) : Option Nat :=
  ((clusterPositions (g.first / 24) g.g).filter fun c => s.canTake g c).foldl (fun best c =>
    match best with
    | none => some c
    | some b => if s.hottest c g.g < s.hottest b g.g then some c else some b) none

/-- Withdraw the requests of a gang's cores. -/
def State.dropRequests (s : State) (c g : Nat) : State :=
  (List.range g).foldl (fun s e => s.putCore (c + e) { s.coreAt (c + e) with request := false }) s

/-- A search of the request raised on core p: withdrawn when the gang's cores have cooled, else the coolest position is
reserved and the migration begins (R379, R413). A gang that is already stopping is not moved. -/
def State.searchFor (s : State) (p : Nat) : State :=
  if !(s.coreAt p).request then s
  else
    match s.gangOn p with
    | none => s.dropRequests p 1
    | some (k, g) =>
      if s.hottest g.first g.g + 5 ≤ s.thermLimit.toNat then s.dropRequests g.first g.g
      else if g.stopping then s
      else
        match s.coolest g with
        | some c => s.beginMig k g c
        | none => s

/-- A sensor reading: at 110 °C the module trips (R402); above THERM_LIMIT on a core that holds a gang it raises a
request, which searches at once; the cores of a migration raise none (R379, R413). -/
def State.sense (s : State) (p deg : Nat) : State :=
  if 384 ≤ p then s
  else if 110 ≤ deg then s.trip
  else
    let c := s.coreAt p
    let s := s.putCore p { c with sensor := deg }
    if s.thermLimit.toNat < deg && (s.gangOn p).isSome && !c.request && !c.reserved then
      (s.putCore p { s.coreAt p with request := true }).searchFor p
    else s

/-! ## The move (R380, R411) -/

/-- Whether a parked request of another hart waits at core p (R411). -/
def State.parkedOn (s : State) (p : Nat) (x : Park) : Bool :=
  if x.kind = 3 then s.coreOfLcid x.pa == p
  else x.kind != 2 && match s.home x.pa with | .ls q _ => q == p | _ => false

/-- Withdraw the requests of other harts parked at the pairs of migration n (R411). -/
def State.withdrawParks (s : State) (n : Nat) (m : Mig) (g : Nat) : State :=
  let here (x : Park) : Bool :=
    (List.range g).any (fun e => s.parkedOn (m.src + e) x || s.parkedOn (m.dst + e) x) &&
    x.got.isNone && match s.hartAt x.hart with | some h => h.gang != m.gang | none => true
  if s.parks.any here then
    { s with
      parks := s.parks.filter fun x => !here x
      migs := s.migs.set n { m with withdrawn := m.withdrawn ++ s.parks.filter here } }
  else s

/-- Move the entries of a table from block a to block b, which they replace, the key within the block changed by `f`;
entries without a place are dropped. -/
def moveBlock {α : Type} (m : SMap α) (size a b : Nat) (f : Nat → Option Nat) : SMap α :=
  (m.filter fun e => e.1 / size == a).foldl (fun acc e =>
    match f (e.1 % size) with
    | some j => SMap.put acc (b * size + j) e.2
    | none => acc) (SMap.restrict m fun k => k / size != a && k / size != b)

/-- Where a row of core p's array goes on core q: the same logical array, if the row lies in a grant (R21, R380). -/
def State.movedRow (s : State) (g : Gang) (p q j : Nat) : Option Nat :=
  if (List.range g.h).any fun k => g.vbase k ≤ j % 1024 && j % 1024 < g.vbase k + s.slotRows g k then
    ((List.range g.na).find? fun a => s.physArray p a == j / 1024).map fun a => s.physArray q a * 1024 + j % 1024
  else none

/-- Move what core p holds of a gang to core q: rows with their errors, tiles, microcode, deque and copy state (R380);
the source is left cleared (R360, R411). -/
def State.moveCore (s : State) (g : Gang) (p q : Nat) : State :=
  let f := s.movedRow g p q
  let a := s.coreAt p
  let b := s.coreAt q
  let t := { s with
    rows := moveBlock s.rows 32768 p q f
    badRows := moveBlock s.badRows 32768 p q f
    upsets := moveBlock s.upsets (32768 * 1024) p q fun j => (f (j / 1024)).map fun r => r * 1024 + j % 1024
    tileWords := moveBlock s.tileWords 65536 p q some
    tiles := moveBlock s.tiles 16 p q some
    ucode := moveBlock s.ucode 1024 p q some
    lbuf := s.lbuf.filter fun x => x.core != p && x.core != q }
  let t := t.putCore q { b with
    deque := a.deque, errs := a.errs, ucodeOwner := a.ucodeOwner
    copies := b.copies ++ a.copies.map fun x => { x with first := x.first + q - p } }
  ((t.putCore p { t.coreAt p with copies := [], errs := [], pcache := [], ucodeOwner := none }).clearCore p).dropEngines p

/-- The end of migration n: the requests withdrawn from its cores are sent again, in their order (R411), and keep no place
among the held accesses: they wait at their homes again. -/
def State.closeMig (s : State) (n : Nat) (m : Mig) : State :=
  awake (m.withdrawn.foldl (fun s x => (s.givePlace x.hart).park x) { s with migs := s.migs.eraseIdx n })

/-- Drop a migration whose gang is gone: the destination is free. -/
def State.dropMig (s : State) (n : Nat) (m : Mig) : State := (s.reserve m.dst m.size false).closeMig n m

/-- THERMAL_MIGRATION of entry n (R380, R411, R412): the gang's waits and the others' parked requests are withdrawn; once
it is settled it moves, and both positions stay held until the exchange. -/
def State.moveGang (s : State) (n : Nat) : State :=
  match s.migs[n]? with
  | none => s
  | some m =>
    match s.gangAt m.gang with
    | none => s.dropMig n m
    | some g =>
      if m.moved || s.committing g.queue then s
      else
        let s := (s.withdrawParks n m g.g).withdrawGang m.gang
        if !s.gangSettled m.gang then s
        else
          let s := s.suspend m.gang
          let s := (List.range g.g).foldl (fun s e => s.moveCore g (m.src + e) (m.dst + e)) s
          let s := (s.reserve m.src g.g true).putGang m.gang { g with first := m.dst }
          awake { s with migs := s.migs.modify n fun m => { m with moved := true } }

/-- LCID_EXCHANGE of entry n (R380 steps 4 and 5, R411). -/
def State.endMig (s : State) (n : Nat) : State :=
  match s.migs[n]? with
  | none => s
  | some m =>
    if !m.moved then s
    else
      match s.gangAt m.gang with
      | none => s.dropMig n m
      | some g =>
        let pair (s : State) (e : Nat) : State :=
          let s := s.swapLcids (m.src + e) (m.dst + e)
          (s.logCore (m.src + e) 6).logCore (m.dst + e) 6
        let s := (List.range g.g).foldl pair s
        let s := ((s.reserve m.src g.g false).reserve m.dst g.g false).dropRequests m.src g.g
        let s := s.putGang m.gang { g with stopping := (s.lqAt g.queue).state = 2 }
        let s := (s.hartsOf m.gang).foldl (fun s e => s.reissueReqs e.1) s
        s.closeMig n m

/-! ## The events -/

/-- DROOP_FREEZE (R378): A droop detection freezes array passes and matrix work cycles in the cluster for DROOP_HOLD cycles. -/
def execDroopFreeze (s : State) : Host.Outcome State Fault Refusal :=
  .next (if s.who < 16 then s.freeze s.who else s)

/-- DROOP_HOLD_EXPIRE (R97): The freeze count runs out and passes resume, each one shifted later by the freeze. -/
def execDroopHoldExpire (s : State) : Host.Outcome State Fault Refusal :=
  .next (s.thaw s.who)

/-- POWER_CLAMP (R402): The power clamp holds module input to 3,000 W, bringing on droop freezes and setting DSTAT.CLAMP. -/
def execPowerClamp (s : State) : Host.Outcome State Fault Refusal :=
  .next ((List.range 16).foldl State.freeze { s with dev := { s.dev with clamp := true } })

/-- ARRAY_SCRUB (R99): Every SCRUB.MS milliseconds the scrub walks all rows, corrects single-bit errors and logs them in MCHKLOG. -/
def execArrayScrub (s : State) : Host.Outcome State Fault Refusal :=
  .next (s.upsetRows.foldl State.scrubRow s)

/-- SINGLE_BIT_UPSET (R99): A soft error flips a bit of an array row, so compare passes may mis-match until a scrub or a write pass corrects it. -/
def execSingleBitUpset (core : Nat) (array : Nat) (row : Nat) (bit : Nat) (s : State) : Host.Outcome State Fault Refusal :=
  .next (s.upset core array row bit)

/-- THERMAL_REQUEST (R379): A sensor reading above THERM_LIMIT raises a migration request for the gang on that core. -/
def execThermalRequest (core : Nat) (deg : Nat) (s : State) : Host.Outcome State Fault Refusal :=
  .next (s.sense core deg)

/-- MIGRATION_SEARCH (R379): Every 1,300 cycles the request looks for, and reserves, the coolest free position of the same shape, or is withdrawn if its cores have cooled. -/
def execMigrationSearch (s : State) : Host.Outcome State Fault Refusal :=
  .next (s.searchFor s.who)

/-- THERMAL_MIGRATION (R380): The gang stops at a convoy boundary, is settled, and its state moves to the destination core. -/
def execThermalMigration (s : State) : Host.Outcome State Fault Refusal :=
  .next (s.moveGang s.who)

/-- LCID_EXCHANGE (R380): When the move ends, the LCIDs of source and destination are exchanged, held traffic is released and the harts resume. -/
def execLcidExchange (s : State) : Host.Outcome State Fault Refusal :=
  .next (s.endMig s.who)

/-- THERMAL_TRIP (R402): A sensor at 110 °C stops the compute clocks, puts memory into self-refresh and sets DSTAT.TRIP. -/
def execThermalTrip (s : State) : Host.Outcome State Fault Refusal :=
  .next s.trip

end Sys2Proof.Machine
end

