-- ==== Sys2Proof/Machine/HostPort.lean ====
section
/-! DEFINITION. The host's requests through BAR0 and BAR2 and their order (R382 to R386, R401, R402). -/

namespace Sys2Proof.Machine

open Sys2Proof

/-! ## BAR0 (R382, R383, R401) -/

/-- Whether BAR0 serves an access: natural alignment, 4 or 8 bytes, a listed offset, and in recovery one it still
serves. -/
def State.bar0Serves (s : State) (off size : Nat) : Bool :=
  (size == 4 || size == 8) && off % size == 0 && ctrlKnown off && (!s.dev.recov || ctrlInRecovery off)

/-- A host write through BAR0. -/
def State.bar0Write (s : State) (off size : Nat) (v : BitVec 512) : State :=
  if s.bar0Serves off size then s.ctrlWrite .host off size (v.toNat % 2 ^ (8 * size)) else s

/-- The value of a host read through BAR0. -/
def State.bar0Read (s : State) (off size : Nat) : Nat := if s.bar0Serves off size then s.ctrlRead off size else 0

/-! ## BAR2 (R384 to R386) -/

/-- The device-local address of a BAR2 byte, when it lies in the present HBM4E and Undercroft; after a thermal trip no
memory answers (R402). -/
def State.bar2Addr (s : State) (off : Nat) : Option Nat :=
  let a := (s.dev.bar2Base.toNat * 2 ^ 30 + off) % 2 ^ 46
  if off < 2 ^ s.dev.bar2Log && s.memPresent a && !s.dev.trip then some a else none

/-- A store of the host at a device-local memory address; one to a page being moved is held as the host's (R386, R396). -/
def State.hostStore (s : State) (a : Nat) (bs : List Byte) : State :=
  if s.inMove a then s.hold ⟨s.dev.devid * 2 ^ 46 + a, bs, true⟩ else s.memStore a bs

/-- A host write through BAR2 of at most 64 bytes, a longer one being several requests (DEDUCED, log 44): a whole line is
one store, which clears its poison mark (R386, R398); any other goes byte by byte, those outside the present memory
dropped (R385). -/
def State.bar2Write (s : State) (off size : Nat) (v : BitVec 512) : State :=
  let bs := leBytes (min size 64) v.toNat
  match if off % 64 = 0 && bs.length = 64 then s.bar2Addr off else none with
  | some a => s.hostStore a bs
  | none =>
    bs.zipIdx.foldl (fun s x =>
      match s.bar2Addr (off + x.2) with
      | some a => s.hostStore a [x.1]
      | none => s) s

/-- The bytes of a host read through BAR2: all ones outside the present memory (DEDUCED, log 44). -/
def State.bar2Read (s : State) (off size : Nat) : List Byte :=
  (List.range size).map fun i =>
    match s.bar2Addr (off + i) with
    | some a => s.memByte a
    | none => 0xFF

/-! ## The order of host requests (R386) -/

/-- Perform a host request. -/
def State.hostDo (s : State) : HostReq → State
  | .write bar2 off size v => if bar2 then s.bar2Write off size v else s.bar0Write off size v
  | .read bar2 off size =>
    { s with hostReads := s.hostReads ++ [if bar2 then s.bar2Read off size else leBytes size (s.bar0Read off size)] }

/-- Whether a page move holds a write of the host, behind which its later requests wait. -/
def State.hostHeld (s : State) : Bool :=
  match s.mq.moving with
  | some m => m.held.any Held.host
  | none => false

/-- Perform host requests in order; those behind one that a page move holds wait. -/
def State.hostRun (s : State) : List HostReq → State
  | [] => s
  | r :: t => if s.hostHeld then { s with hostQ := r :: t } else (s.hostDo r).hostRun t

/-- Perform the host requests that waited. -/
def State.drainHost (s : State) : State := State.hostRun { s with hostQ := [] } s.hostQ

/-- A host request arrives: performed after every earlier one. -/
def State.hostArrive (s : State) (r : HostReq) : State := State.hostRun { s with hostQ := [] } (s.hostQ ++ [r])

/-- A write of the host to control space, in its order among the host's requests (R386) (DEDUCED, log 44). -/
def State.hostCtrl (s : State) (off size : Nat) (v : W64) : State :=
  awake (s.hostArrive (.write false off size (v.setWidth 512)))

end Sys2Proof.Machine
end

