-- ==== Sys2Proof/Machine/Tiers.lean ====
section
/-! DEFINITION. Page heat (R393), the migration engine and its records (R394 to R396), and the integrity tag of the
Undercroft's pages (R398). -/

namespace Sys2Proof.Machine

open Sys2Proof

/-! ## Page heat (R393) -/

/-- Halve every counter. -/
def State.halveHeat (s : State) : State :=
  if s.dev.heatEn then { s with heat := s.heat.filterMap fun e => if e.2 / 2 = 0 then none else some (e.1, e.2 / 2) } else s

/-! ## The integrity tag (R398) -/

/-- One byte into the CRC-64 of ECMA-182: most significant bit first, no reflection, no final XOR. -/
def crcByte (c : W64) (b : Byte) : W64 :=
  (List.range 8).foldl (fun c _ => if c.getLsbD 63 then (c <<< 1) ^^^ 0x42F0E1EBA9EA3693 else c <<< 1)
    (c ^^^ (b.setWidth 64 <<< 56))

/-- The CRC-64 of a page whose bytes are those listed by offset, and zero elsewhere. -/
def crcPage (m : SMap Byte) : W64 :=
  (List.range 65536).foldl (fun c i => if c = 0 && (SMap.find m i).isNone then c else crcByte c (SMap.getD m i 0)) 0

/-- Whether the memory of a page disagrees with its tag: the CRC is linear, so it compares the CRC of the bits that
changed with zero. -/
def State.tagBad (s : State) (page : Nat) : Bool :=
  let m := s.flips.filterMap fun e => if e.1 / 65536 = page then some (e.1 % 65536, e.2) else none
  !m.isEmpty && crcPage m != 0

/-- A media error of the Undercroft: bits of a byte change in the memory itself (DEDUCED, log 42). -/
def State.mediaFlip (s : State) (a : Nat) (mask : Byte) : State :=
  if 0x100000000000 ≤ a && a < 0x200000000000 && s.memPresent a then
    { s with
      mem := SMap.setD s.mem a 0 (SMap.getD s.mem a 0 ^^^ mask)
      flips := SMap.setD s.flips a 0 (SMap.getD s.flips a 0 ^^^ mask) }
  else s

/-- A CXL device answers a read of a line with poison or a media error, when the line is read from it (R392) (DEDUCED, log
42). -/
def State.mediaPoison (s : State) (a : Nat) : State :=
  if 0x110000000000 ≤ a && a < 0x200000000000 && s.memPresent a && (SMap.find s.lines (a / 64)).isNone then
    { s with poison := SMap.put s.poison (a / 64) true }
  else s

/-! ## Records (R394, R395) -/

namespace MRec

/-- COUNT, OP, SRC and DST of a record's doublewords. -/
def count (r : List W64) : Nat := bits (r.getD 0 0).toNat 31 16
def op (r : List W64) : Nat := bits (r.getD 0 0).toNat 3 0
def src (r : List W64) : Nat := bits (r.getD 1 0).toNat 55 16
def dst (r : List W64) : Nat := bits (r.getD 2 0).toNat 55 16
def dstByte (r : List W64) : Nat := bits (r.getD 2 0).toNat 55 0

/-- Whether OP is defined and every bit that is not listed is zero; STATUS and DONE are the engine's. -/
def formOk (r : List W64) : Bool :=
  let d (n : Nat) : Nat := (r.getD n 0).toNat
  bits (d 0) 55 32 == 0 && bits (d 0) 15 4 == 0 && 1 ≤ op r && op r ≤ 3 &&
  bits (d 1) 63 56 == 0 && bits (d 1) 15 0 == 0 && bits (d 2) 63 56 == 0 &&
  (op r == 3 || bits (d 2) 15 0 == 0) && bits (d 3) 63 16 == 0

end MRec

/-- Whether n pages from a physical page lie in this device's present HBM4E and Undercroft. -/
def State.pagesPresent (s : State) (page n : Nat) : Bool :=
  page / 2 ^ 30 == s.dev.devid &&
  (List.range n).all fun j =>
    let a := (page % 2 ^ 30 + j) * 65536
    s.memPresent a && s.memPresent (a + 65535)

/-- Whether a record is refused (R395). -/
def State.mqRefuses (s : State) (r : List W64) : Bool :=
  let n := MRec.count r
  let a := MRec.src r % 2 ^ 30
  let b := MRec.dst r % 2 ^ 30
  !MRec.formOk r || n = 0 || !s.pagesPresent (MRec.src r) n ||
  match MRec.op r with
  | 1 =>
    !s.pagesPresent (MRec.dst r) n || (a < b + n && b < a + n) ||
    s.redirects.any fun e => (a ≤ e.1 && e.1 < a + n) || (b ≤ e.1 && e.1 < b + n)
  | 3 => !s.pagesPresent (MRec.dstByte r / 65536) ((MRec.dstByte r % 65536 + n + 65535) / 65536)
  | _ => false

/-- The address of the record at HEAD. -/
def State.mqAddr (s : State) : Nat := s.mq.base.toNat + 32 * (s.mq.head % 2 ^ s.mq.size.toNat)

/-- The record at HEAD, when the engine may run one (R394, R401). -/
def State.mqRecord (s : State) : Option (List W64) :=
  let ring := 2 ^ s.mq.size.toNat
  if !s.dev.bootOk || s.dev.trip || !s.mq.en || s.mq.job.isSome || s.mq.head % ring = s.mq.tail % ring then none
  else some ((List.range 4).map fun i => BitVec.ofNat 64 (s.physVal (s.mqAddr + 8 * i) 8))

/-- Finish the record at HEAD: STATUS, DONE, the completion word, the message, HEAD (R394). -/
def State.mqFinish (s : State) (status done : Nat) : State :=
  let q := s.mq
  let s := ((s.physStore (s.mqAddr + 7) 1 status).physStore (s.mqAddr + 24) 2 done).physStore q.cpl.toNat 8
    (q.head * 2 ^ 32 + status)
  let s := if q.msi then s.sendMsi q.vec.toNat else s
  awake { s with mq := { s.mq with head := (q.head + 1) % 2 ^ q.size.toNat, job := none, moving := none } }

/-! ## The commands (R395, R396) -/

/-- Start the next page of the MOVE in progress; a further redirect waits for a free one among 4,096. -/
def State.startPage (s : State) : State :=
  match s.mq.job, s.mq.moving with
  | some (src, dst, done, n), none =>
    if n ≤ done then s.mqFinish 1 n
    else if 4096 ≤ s.redirects.length then s
    else { s with mq := { s.mq with moving := some ⟨src + done, dst + done, 0, []⟩ } }
  | _, _ => s

/-- The entries of `m` with those at [b, b + n) replaced by what `from'` holds at [a, a + n). -/
def copySpan {α : Type} (m from' : SMap α) (a b n : Nat) : SMap α :=
  (m.filter fun e => e.1 < b) ++
  (from'.filterMap fun e => if a ≤ e.1 && e.1 < a + n then some (b + (e.1 - a), e.2) else none) ++
  (m.filter fun e => b + n ≤ e.1)

/-- Copy the next n lines of the page being moved, each as it is at its home; the destination's integrity tag follows
(R396, R398). -/
def State.copyLines (s : State) (m : Moving) (n : Nat) : State :=
  let a := 1024 * m.src + m.lines
  let b := 1024 * m.dst + m.lines
  { s with
    mem := copySpan s.mem s.flatMem (64 * a) (64 * b) (64 * n)
    poison := copySpan s.poison s.poison a b n
    lines := SMap.restrict s.lines fun l => !(b ≤ l && l < b + n)
    flips := SMap.restrict s.flips fun x => !(b ≤ x / 64 && x / 64 < b + n) }

/-- Perform a held store (R396). -/
def State.performHeld (s : State) (w : Held) : State := s.physWrite w.pa w.bytes

/-- MOVE: take the record at HEAD, or go on with the one in progress: the next line of its page, or its next page. A record
whose OP is undefined is refused here (DEDUCED, log 41). -/
def State.mqMove (s : State) : State :=
  match s.mqRecord with
  | some r =>
    if MRec.op r = 2 || MRec.op r = 3 then s
    else if s.mqRefuses r then s.mqFinish 3 0
    else
      awake (State.startPage { s with mq := { s.mq with
        job := some (MRec.src r % 2 ^ 30, MRec.dst r % 2 ^ 30, 0, MRec.count r) } })
  | none =>
    match s.mq.moving with
    | some m =>
      if m.lines < 1024 then
        awake { s.copyLines m 1 with mq := { s.mq with moving := some { m with lines := m.lines + 1 } } }
      else s
    | none => s.startPage

/-- RELEASE. -/
def State.mqRelease (s : State) : State :=
  match s.mqRecord with
  | some r =>
    if MRec.op r ≠ 2 then s
    else if s.mqRefuses r then s.mqFinish 3 0
    else
      let a := MRec.src r % 2 ^ 30
      State.mqFinish { s with redirects := SMap.restrict s.redirects fun p => !(a ≤ p && p < a + MRec.count r) } 1 (MRec.count r)
  | none => s

/-- HEATDUMP (DEDUCED, log 41). -/
def State.mqHeat (s : State) : State :=
  match s.mqRecord with
  | some r =>
    if MRec.op r ≠ 3 then s
    else if s.mqRefuses r then s.mqFinish 3 0
    else
      let n := MRec.count r
      let a := MRec.src r % 2 ^ 30
      ((List.range n).foldl (fun t j => t.physStore (MRec.dstByte r + j) 1 (SMap.getD s.heat (a + j) 0)) s).mqFinish 1 n
  | none => s

/-- The cut-over of the page in progress (R396, R398): the lines not copied yet are; with the tag in agreement the redirect
is installed, heat follows, and the held writes are performed at the destination; else they are performed at the source,
which is poisoned (DEDUCED, log 41). -/
def State.cutover (s : State) : State :=
  match s.mq.job, s.mq.moving with
  | some (src, dst, done, n), some m =>
    let s1 := { s with mq := { s.mq with moving := none } }
    if 0x10000000 ≤ m.src && m.dst < 0x10000000 && s.tagBad m.src then
      let s2 := m.held.foldl State.performHeld s1
      let poison := (List.range 1024).foldl (fun p i => SMap.put p (1024 * m.src + i) true) s2.poison
      State.mqFinish (State.drainHost { s2 with poison := poison, dev := { s2.dev with hubUe := true } }) 2 done
    else
      let s2 := s1.copyLines m (1024 - m.lines)
      let s3 := { s2 with
        heat := SMap.del (SMap.setD s2.heat m.dst 0 (SMap.getD s2.heat m.src 0)) m.src
        redirects := SMap.put s2.redirects m.src m.dst
        mq := { s2.mq with job := some (src, dst, done + 1, n) } }
      awake ((m.held.foldl State.performHeld s3).drainHost).startPage
  | _, _ => s

/-! ## The events -/

/-- MQ_TAIL_WRITE (R394): A write to MQ.TAIL releases new migration records to the migration engine; in recovery it reaches
nothing (R401). -/
def execMqTailWrite (value : W64) (s : State) : Host.Outcome State Fault Refusal :=
  .next (s.hostCtrl 0x200018 8 value)

/-- MOVE (R396): The MOVE command moves COUNT pages to their destination one at a time, installing a redirect for each. -/
def execMove (s : State) : Host.Outcome State Fault Refusal :=
  .next s.mqMove

/-- RELEASE (R395): The RELEASE command removes the redirects of COUNT source pages. -/
def execRelease (s : State) : Host.Outcome State Fault Refusal :=
  .next s.mqRelease

/-- HEATDUMP (R395): The HEATDUMP command writes the heat counters of COUNT pages to memory. -/
def execHeatdump (s : State) : Host.Outcome State Fault Refusal :=
  .next s.mqHeat

/-- MOVE_PAGE_CUTOVER (R396): A page copy finishes, the redirect is installed and the held writes are performed at the
destination (DEDUCED, log 42). -/
def execMovePageCutover (s : State) : Host.Outcome State Fault Refusal :=
  .next s.cutover

/-- HEAT_EPOCH_HALVE (R393): At every multiple of 2^EPOCH cycles every page-heat counter is halved. -/
def execHeatEpochHalve (s : State) : Host.Outcome State Fault Refusal :=
  .next s.halveHeat

end Sys2Proof.Machine
end

