-- ==== Sys2Proof/Machine/HostIo.lean ====
section
/-! DEFINITION. The host port (R382 to R387), requests of peers and answers from them (R388 to R390), bring-up, reset and
the retirement table (R3, R392, R399 to R401). -/

namespace Sys2Proof.Machine

open Sys2Proof

/-! ## The size of BAR2 (R384) -/

/-- A resize of BAR2 to 2^log bytes, 1 GiB to 512 GiB, clears the bits of BAR2WIN.BASE below the new size. -/
def State.resizeBar2 (s : State) (log : Nat) : State :=
  if 30 ≤ log && log ≤ 39 then
    { s with dev := { s.dev with bar2Log := log, bar2Base := s.dev.bar2Base &&& bar2Mask log } }
  else s

/-! ## Peers' requests (R389) -/

/-- Whether a request may reach its address: this device's memory, or for a full/empty request its local stores; control
space and absent addresses are refused. -/
def State.peerAllowed (s : State) (pa : Nat) (op : PeerOp) : Bool :=
  match s.home pa, op with
  | .mem _, .fullEmpty _ _ _ => false
  | .mem _, .mark _ _ => false
  | .mem _, _ => true
  | .ls _ _, _ => true
  | _, _ => false

/-- A peer's request arrives (DEDUCED, log 44); after a thermal trip nothing answers (R402). -/
def State.peerRequest (s : State) (pa : Nat) (op : PeerOp) : State :=
  if s.dev.trip then s
  else if s.peerAllowed pa op then s.peerArrive pa op
  else
    match op with
    | .write _ _ => s
    | _ => { s with peerAnswers := s.peerAnswers ++ [none] }

/-! ## Answers of peers (R389, R390) -/

/-- The value of an answer in its register. -/
def Remote.value (r : Remote) (v : BitVec 512) : W64 :=
  match r.op with
  | .read n =>
    let x := v.toNat % 2 ^ (8 * n)
    if r.sext then word64 (sextNat (8 * n) x) else BitVec.ofNat 64 x
  | .atomic _ n _ _ => BitVec.ofNat 64 (v.toNat % 2 ^ (8 * n))
  | _ => v.setWidth 64

/-- Whether a request has been sent: one under .ord is sent when every lower element of its instruction has its result or
its acceptance (R259). -/
def State.isSent (s : State) (r : Remote) : Bool :=
  !r.ord || !((s.atoms.any fun b => b.hart == r.hart && b.serial == r.serial && b.elem + 1 < r.tag) ||
    s.farBefore r.hart r.serial (r.tag - 1))

/-- Request n is answered: with a value, or with poisoned data (DEDUCED, log 44). Under .ord no element above a poisoned
one of a returning VAMO is sent (R260). -/
def State.answered (s : State) (n : Nat) (v : Option (BitVec 512)) : State :=
  match s.remotes[n]? with
  | none => s
  | some r =>
    if r.answer.isSome || !s.isSent r then s
    else
      match r.dest with
      | some (d, va) =>
        let f : Fill := match v with | some v => ⟨d, r.value v, false⟩ | none => ⟨d, va, true⟩
        let s := { s with remotes := s.remotes.eraseIdx n }
        awake (if d = 0 then s else s.onHart r.hart fun h => { h with fills := h.fills ++ [f] })
      | none =>
        let s := awake { s with remotes := s.remotes.set n { r with answer := some v } }
        if v.isNone && r.ord then s.dropHigher r.hart r.serial else s

/-- A scale-up link goes down or comes up (R390). -/
def State.setLink (s : State) (port : Nat) (up : Bool) : State :=
  let m : BitVec 8 := 1#8 <<< port
  { s with linksDown := if up then s.linksDown &&& ~~~m else s.linksDown ||| m }

/-- Request n has had no answer for 1 ms (R390). -/
def State.remoteExpired (s : State) (n : Nat) : State :=
  match s.remotes[n]? with
  | none => s
  | some r =>
    if r.answer.isSome || !s.isSent r then s
    else State.answered { s with dev := { s.dev with linkErr := true } } n none

/-! ## Retirement (R399, R400) -/

/-- Retire a lane of a core: at once when no gang holds the core or is on its way to it, else when it next holds none (R12,
R400, R413). -/
def State.retireLane (s : State) (p lane : Nat) : State :=
  let c := s.coreAt p
  let m : BitVec 8 := 1#8 <<< lane
  if (s.gangOn p).isSome || c.reserved then s.putCore p { c with pendingLanes := c.pendingLanes ||| m }
  else s.putCore p { c with lanes := c.lanes &&& ~~~m }

/-- Retire an array row: a spare replaces it; an array that needs more than 8 retires its lane. -/
def State.retireRow (s : State) (p arr : Nat) : State :=
  let c := s.coreAt p
  let n := SMap.getD c.spares arr 0 + 1
  let s := s.putCore p { c with spares := SMap.setD c.spares arr 0 n }
  if 8 < n then s.retireLane p (arr / 4) else s

/-- Apply an entry to the cores: array rows and lanes. -/
def State.applyEntry (s : State) (kind loc : Nat) : State :=
  let p := bits loc 28 20
  if 384 ≤ p then s
  else if kind = 4 then s.retireRow p (bits loc 14 10)
  else if kind = 5 then s.retireLane p (bits loc 2 0)
  else s

/-- Append an entry (R399); with a full table it is kept outside it, until the next power cycle (DEDUCED, log 22). -/
def State.appendEntry (s : State) (kind loc : Nat) : State :=
  let link : W64 := match s.rt.getLast? with
    | some e => BitVec.ofNat 64 ((shake32 e.w0 e.w1).toNat * 2 ^ 32)
    | none => 0
  let e : RtEntry := ⟨BitVec.ofNat 64 (s.rt.length * 2 ^ 32 + kind % 256), link ||| BitVec.ofNat 64 (loc % 2 ^ 32)⟩
  let s := if s.rt.length < 8192 then { s with rt := s.rt ++ [e] } else { s with rtLate := s.rtLate ++ [e] }
  let s := { s with rtFull := s.rtFull || 8192 ≤ s.rt.length }
  awake (s.applyEntry kind (loc % 2 ^ 32))

/-- KIND and LOC of an entry. -/
def RtEntry.kind (e : RtEntry) : Nat := bits e.w0.toNat 7 0
def RtEntry.loc (e : RtEntry) : Nat := bits e.w1.toNat 31 0

/-! ## Reset and bring-up (R3, R400, R401) -/

/-- A device reset: every field at its reset value. Memory, with what the shared caches hold of it, and the retirements
keep their contents (DEDUCED, log 8). -/
def State.resetDevice (s : State) : State :=
  { State.reset with
    agenda := s.agenda, keep := s.keep, serial := s.serial
    mem := s.mem, lines := s.lines, poison := s.poison, flips := s.flips
    rt := s.rt, rtFull := 8192 ≤ s.rt.length, rtLate := s.rtLate }

/-- Bring-up: images verified and measured, the retirement table checked and applied, CXL.mem mapped (DESIGN CHOICE, log
14). -/
def State.bringUp (s : State) (b : BootInput) : State :=
  let ok : Bool := b.imagesOk && b.signatureOk
  let all := s.rt ++ s.rtLate
  let channels := ((all.filter fun e => e.kind == 2).map fun e => e.loc / 2 ^ 24).eraseDups.length
  let s := { s with
    meas := (List.range 8).foldl (fun m k => SMap.setD m k 0 (b.meas.getD k 0)) s.meas
    dev := { s.dev with
      recov := !ok, bootOk := ok
      hbmHalf := if ok then 768 - 3 * channels else s.dev.hbmHalf
      ucGib := min (15 * 1024) (b.cxlGiB.take 4).sum } }
  awake (if ok then all.foldl (fun s e => s.applyEntry e.kind e.loc) s else s)

/-! ## The events -/

/-- HOST_WRITE (R386): A host write through BAR0 or BAR2 is performed in arrival order as a system-scope store. -/
def execHostWrite (bar2 : Bool) (off : Nat) (size : Nat) (value : BitVec 512) (s : State) : Host.Outcome State Fault Refusal :=
  .next (awake (s.hostArrive (.write bar2 off size value)))

/-- HOST_READ (R386): A host read is performed after every host write that arrived before it. -/
def execHostRead (bar2 : Bool) (off : Nat) (size : Nat) (s : State) : Host.Outcome State Fault Refusal :=
  .next (s.hostArrive (.read bar2 off size))

/-- CONTROL_REGISTER_WRITE (R2, R386): A write to a control-space or control-register field that has no row of its own, applied by its access code. -/
def execControlRegisterWrite (off : Nat) (size : Nat) (value : W64) (s : State) : Host.Outcome State Fault Refusal :=
  .next (s.hostCtrl off size value)

/-- LQ_TAIL_WRITE (R353): A write to LQ.TAIL makes records visible and fixes each record's expert gate and privilege permission; in recovery it reaches nothing (R401). -/
def execLqTailWrite (q : Nat) (value : W64) (s : State) : Host.Outcome State Fault Refusal :=
  .next (if q < 16 then s.hostCtrl (0x1018 + 0x80 * q) 8 value else s)

/-- PRGN_WRITE (R305): A write of a Pantry region entry enables the region or is refused, or disables it and discards its tuples and parked requests; in recovery it reaches nothing (R401). -/
def execPrgnWrite (region : Nat) (value : W64) (s : State) : Host.Outcome State Fault Refusal :=
  .next (if region < 256 then s.hostCtrl (0x100000 + 8 * region) 8 value else s)

/-- BAR2_RESIZE (R384): A host resize of BAR2 clears the BAR2WIN.BASE bits that lie below the new BAR2 size (DESIGN
CHOICE, log 2). -/
def execBar2Resize (s : State) : Host.Outcome State Fault Refusal :=
  .next (s.resizeBar2 s.who)

/-- REMOTE_REQUEST (R389): A peer's access arriving on a scale-up link is performed at its home, or refused if it addresses control space. -/
def execRemoteRequest (pa : Nat) (op : PeerOp) (s : State) : Host.Outcome State Fault Refusal :=
  .next (s.peerRequest pa op)

/-- REMOTE_TIMEOUT (R390): A non-posted remote request with no answer after 1 ms completes with poisoned data and sets DSTAT.LINKERR. -/
def execRemoteTimeout (s : State) : Host.Outcome State Fault Refusal :=
  .next (s.remoteExpired s.who)

/-- RETIREMENT_APPEND (R399): The management controller appends a chained entry to the retirement table (DEDUCED, log
45). -/
def execRetirementAppend (kind : Nat) (loc : Nat) (s : State) : Host.Outcome State Fault Refusal :=
  .next (s.appendEntry kind loc)

/-- DEVICE_RESET (R3): A device reset puts every field at its stated reset value, including the shared phase table and
THERM_LIMIT (DEDUCED, log 8). -/
def execDeviceReset (s : State) : Host.Outcome State Fault Refusal :=
  .next s.resetDevice

/-- BRING_UP (R400): The boot ROM checks the retirement table and applies every entry before any queue runs: row remap, channel capacity and lane retirement. -/
def execBringUp (boot : BootInput) (s : State) : Host.Outcome State Fault Refusal :=
  .next (s.bringUp boot)

end Sys2Proof.Machine
end

