-- ==== Sys2Proof/Machine/Run.lean ====
section
/-! DEFINITION. A convoy's life: fetching its line (R36, R37), the choice of the hart (R361), the checks at issue (R52,
R55, R66, R68, R208), retirement with the loop check (R89), the watch (R372) and the trap of a stop (R368); and the
results and stores that land later (R66, R228, R235). -/

namespace Sys2Proof.Machine

open Sys2Proof

/-! ## Fetch (R36, R37, R41) -/

/-- Lines a core's buffer holds (R87). -/
def bufferLines : Nat := 16

/-- Keep a line in a core's buffer, the newest first (DESIGN CHOICE, log 7). -/
def State.bufferLine (s : State) (core q va line : Nat) : State :=
  let others := s.lbuf.filter fun b => !(b.core == core && b.queue == q && b.va == va)
  let mine := (others.filter fun b => b.core == core).take (bufferLines - 1)
  let far := others.filter fun b => b.core != core
  { s with lbuf := ⟨core, q, va, BitVec.ofNat 512 line⟩ :: (mine ++ far) }

/-- Fetch the line at a hart's pc: log a corrected mismatch (R376), keep what is read, and give the line or the fault. -/
def State.fetchAt (s : State) (h : Hart) : State × Fetched :=
  let a := s.agentOf h
  let base := h.pc.toNat / 64 * 64
  let f := s.fetch a h.pc h.entry
  match s.fetchXlate a (BitVec.ofNat 64 base) with
  | none => (s, f)
  | some pa =>
    let r := s.readLine a.first a.queue base pa
    let ok := Line.parityOk r.1
    let s1 := if r.2 then { s with lbuf := s.lbuf.filter fun b => !(b.core == a.first && b.queue == a.queue && b.va == base) } else s
    let s2 := if r.2 && ok then s1.logCore a.first 4 else s1
    (if s.keep && ok then (s2.bufferLine a.first a.queue base r.1).fillTlb a h.pc else s2, f)

/-- A fault of a fetch: TCI and VSTART are 0 (R37). -/
def State.fetchFault (s : State) (id : Nat) (h : Hart) (c : Cause) (tval : W64) : State :=
  awake (s.takeTrap id { h with ci := 0, vstart := 0 } c h.pc 0 tval)

/-- LINE_FETCH for a hart at a convoy boundary: the line is read and checked. -/
def State.lineFetch (s : State) (id : Nat) : State :=
  match s.hartAt id with
  | none => s
  | some h =>
    if h.conv.isSome then s
    else
      match s.fetchAt h with
      | (s, .ok _) => s
      | (s, .bad c tval) => s.fetchFault id h c tval

/-- LINE_REFETCH for a hart at a convoy boundary: acts when a read of its line mismatches. -/
def State.lineRefetch (s : State) (id : Nat) : State :=
  match s.hartAt id with
  | none => s
  | some h =>
    let a := s.agentOf h
    let base := h.pc.toNat / 64 * 64
    match s.fetchXlate a (BitVec.ofNat 64 base) with
    | none => s
    | some pa => if (s.readLine a.first a.queue base pa).2 then s.lineFetch id else s

/-! ## Checks at issue -/

/-- What the checks of a convoy come to. -/
inductive Issue where
  | go
  | trap (c : Cause) (k : Nat) (tval : W64)
  | waits
  deriving DecidableEq, Repr

/-- ILLEGAL_OP and PRIV of each instruction in index order (R55). -/
def rightTrap (h : Hart) (g : Gang) : Nat → List (Parcel × Except Reject Instr) → Option (Cause × Nat × W64)
  | _, [] => none
  | k, (p, x) :: t =>
    match x with
    | .error _ => some (.illegalOp, k, p.setWidth 64)
    | .ok i =>
      match rightCheck h g i with
      | some c => some (c, k, if c = .illegalOp then p.setWidth 64 else 0)
      | none => rightTrap h g (k + 1) t

/-- TVAL of an EMPTY_TRAP on a register: its number, with bit 17 for an operand of the V form, whose op8 codes are 0x00
to 0x9F (R44, R66, R135), but for the Cellar's, of which the spec says no such thing (R334). -/
def emptyTval (p : Parcel) (i : Instr) (r : Reg) : W64 :=
  let cellar : Bool := match i with
    | .vcbound _ => true
    | .vcwalk _ => true
    | .vcdirty _ => true
    | .unmk _ => true
    | _ => false
  BitVec.ofNat 64 (r.toNat + bitAt 17 (p.toNat % 4 == 2 && bits p.toNat 9 2 < 0xA0 && !cellar))

/-- A poisoned source, or an empty one of policy 1, that no earlier instruction of the convoy writes (R66, R68)
(DEDUCED, log 10). -/
def sourceTrap (h : Hart) : List Reg → Nat → List (Parcel × Instr) → Option (Cause × Nat × W64)
  | _, _, [] => none
  | earlier, k, (p, i) :: t =>
    let f := foot h i
    match f.src.findSome? fun x =>
      if earlier.contains x.1 then none
      else if h.isPoisoned x.1 then some (Cause.poison, h.poisonValue x.1)
      else if x.2 && !h.isFull x.1 then some (Cause.emptyTrap, emptyTval p i x.1) else none with
    | some r => some (r.1, k, r.2)
    | none => sourceTrap h (earlier ++ f.dst) (k + 1) t

/-- The registers a list of instructions writes. -/
def written (h : Hart) (is : List Instr) : List Reg := is.flatMap fun j => (foot h j).dst

/-- Whether a source that no earlier instruction of those to run writes is empty, and will be filled: one that is
poisoned is for the instruction to find (R66, R68). -/
def emptySource (h : Hart) : List Reg → List Instr → Bool
  | _, [] => false
  | earlier, i :: t =>
    let f := foot h i
    (f.src.any fun x => !earlier.contains x.1 && !h.isFull x.1 && !h.isPoisoned x.1) || emptySource h (earlier ++ f.dst) t

/-- The report of a failed tile at the issue of an instruction that names it; an earlier MWAIT of the convoy that covers
the engine reports first (R208). -/
def State.tileReport (s : State) (h : Hart) (g : Gang) (before : List Instr) (i : Instr) : Option (Cause × W64) :=
  match if reportsTile i then tileName i else none with
  | some (t, e) =>
    if before.any fun j => match j with | .mwait o => (waitEngines g o).contains e | _ => false then none
    else s.report g h.slot t e
  | none => none

/-- Whether an instruction is the Pantry request that a hart under MODE.DET is blocked at: it was checked as it was sent
(R310, R322). -/
def Hart.sentRequest (h : Hart) (k : Nat) (i : Instr) : Bool :=
  h.det && k == h.ci && isPantry i && h.preqs.any fun p => p.status.isSome

/-- A report of a failed tile (R208), or a failing check of a register's value (R55), in index order; the checks end at
the first instruction with a checked register that no earlier one writes and that is not full: the convoy waits for it
first (DEDUCED, log 10). -/
def State.valueTrap (s : State) (h : Hart) (g : Gang) : List Instr → Nat → List (Parcel × Instr) → Option (Cause × Nat × W64)
  | _, _, [] => none
  | before, k, (p, i) :: t =>
    match s.tileReport h g before i with
    | some r => some (r.1, k, r.2)
    | none =>
      let next := s.valueTrap h g (before ++ [i]) (k + 1) t
      if checkedLater h before i then next
      else if (checkedRegs i).any fun r => !h.isFull r then none
      else
        match s.valueCheck h g i with
        | some c => if c = .priv && gateLater before i then next else some (c, k, if c = .illegalOp then p.setWidth 64 else 0)
        | none =>
          match if h.sentRequest k i then none else s.addressCheck h i with
          | some e => some (e.1, k, e.2)
          | none => next

/-- The instructions of a convoy; those skipped by a return and undefined count as NOPs (DEDUCED, log 47). -/
def decoded (l : List (Parcel × Except Reject Instr)) : List Instr :=
  l.map fun x => match x.2 with | .ok i => i | .error _ => .nop

/-- The checks of a convoy as it comes up for issue, from instruction `ci` (R52, R55, R66, R68, R208) (DEDUCED, log 47).
-/
def State.issueCheck (s : State) (h : Hart) (g : Gang) (l : List (Parcel × Except Reject Instr)) : Issue :=
  let is := decoded l
  let rest := (l.zip is).map fun x => (x.1.1, x.2)
  match rightTrap h g h.ci (l.drop h.ci) with
  | some x => .trap x.1 x.2.1 x.2.2
  | none =>
    match composeCheck h is with
    | some x => .trap .convoyRule x.1 (BitVec.ofNat 64 x.2)
    | none =>
      match s.valueTrap h g [] h.ci (rest.drop h.ci) with
      | some x => .trap x.1 x.2.1 x.2.2
      | none =>
        match sourceTrap h (written h (is.take h.ci)) h.ci (rest.drop h.ci) with
        | some x => .trap x.1 x.2.1 x.2.2
        | none => if emptySource h [] (is.drop h.ci) then .waits else .go

/-- Clear the failure mark that an issue trap reported (R208). -/
def State.clearReport (s : State) (h : Hart) (g : Gang) (c : Cause) (i : Option Instr) : State :=
  match i.bind fun i => if reportsTile i then tileName i else none with
  | some x => if c = .matrixErr || c = .poison then s.clearMark g h.slot x.1 x.2 else s
  | none => s

/-! ## Issue -/

/-- A hart's place among its siblings after it has issued (R361, R362). -/
def State.countSlot (s : State) (id : Nat) (k : Nat) : State :=
  { s with harts := s.harts.map fun (e : Nat × Hart) =>
      if e.2.gang = k then (e.1, { e.2 with skips := if e.1 = id then 0 else e.2.skips + 1, yielded := false }) else e }

/-- The routines of the AMCODE runs of a convoy, read as it issues; the table itself gives that of a run behind an AMCODE
load of this convoy, which no other hart's load changes meanwhile (R117, R118, R119). -/
def State.heldRoutines (s : State) (h : Hart) (g : Gang) (is : List Instr) : List (Option (List W64)) :=
  is.zipIdx.map fun x =>
    match x.1 with
    | .amcodeRun o =>
      if ((is.take x.2).drop h.ci).any isAmcodeLoad then none
      else s.routine g.first 1024 (o.e 11 0 - 3072)
    | _ => none

/-- The convoy as it issues, with the verdicts and routines of its instructions. -/
def State.begun (s : State) (id : Nat) (h : Hart) (g : Gang) (l : List (Parcel × Except Reject Instr)) (succ : W64) : Conv :=
  let is := decoded l
  { instrs := is, heads := l.map Prod.fst, succ := succ, idx := h.ci, stop := none, target := none, raised := 0
    ftraps := is.zipIdx.map fun x => s.fieldTrap id h g (is.take x.2) x.1
    routines := s.heldRoutines h g is
    pages := is.zipIdx.map fun x => if checkedLater h ((is.take x.2).drop h.ci) x.1 then none else s.pantryPage h x.1 }

/-- Issue the convoy at a hart's pc, or take the fault of its checks, or find it not ready. -/
def State.issue (s : State) (id : Nat) : State :=
  match s.hartAt id with
  | none => s
  | some h =>
    match s.gangAt h.gang, h.conv with
    | some g, none =>
      match s.fetchAt h with
      | (s, .bad c tval) => s.fetchFault id h c tval
      | (s, .ok line) =>
        let l := Line.convoy line h.pc
        match s.issueCheck h g l with
        | .trap c k tval => awake ((s.clearReport h g c ((decoded l)[k]?)).takeTrap id h c h.pc k tval)
        | .waits => { s with asleep := id :: s.asleep }
        | .go =>
          (s.putHart id { h with conv := some (s.begun id h g l (Line.successor line h.pc)) }.takeFlags).countSlot id h.gang
    | _, _ => s

/-- Whether the convoy of a hart at a boundary is not ready: it waits for a register (R66, R361). -/
def State.issueWaits (s : State) (id : Nat) : Bool :=
  match s.hartAt id with
  | none => false
  | some h =>
    match s.gangAt h.gang, h.conv, (s.fetchAt h).2 with
    | some g, none, .ok line => s.issueCheck h g (Line.convoy line h.pc) == .waits
    | _, _, _ => false

/-- A hart whose convoy waited and waits no more rejoins: its age counts from here (R361). -/
def State.rejoin (s : State) (waited : Bool) (id : Nat) : State :=
  if waited && !s.issueWaits id then { s.onHart id fun h => { h with age := s.serial } with serial := s.serial + 1 }
  else s

/-- Whether a hart may issue now: at a boundary of a gang that is not stopping, in a launch that is not ending, inside
its quantum. -/
def State.mayIssue (s : State) (id : Nat) (h : Hart) : Bool :=
  h.conv.isNone && !s.asleep.contains id && !(h.det && (h.qend || h.qlim ≤ h.qcount)) &&
  (match s.gangAt h.gang with | some g => !g.stopping | none => false) &&
  (match s.launchAt h.queue with | some la => la.ending.isNone | none => false)

/-- Issue priority (R361). -/
def State.prioOf (s : State) (h : Hart) : Nat :=
  (match s.launchAt h.queue with | some la => Lr.prio la.record | none => 0) + if h.view then 8 else 0

/-- The one of two harts that issues first: one passed over in the last 15 slots, the oldest of these; else the higher
priority, else the older. -/
def State.earlier (s : State) (a b : Nat × Hart) : Nat × Hart :=
  let sa : Bool := 15 ≤ a.2.skips
  let sb : Bool := 15 ≤ b.2.skips
  if sa != sb then if sa then a else b
  else if !sa && s.prioOf a.2 != s.prioOf b.2 then if s.prioOf b.2 < s.prioOf a.2 then a else b
  else if b.2.age < a.2.age then b else a

/-- The hart that issues next from the gang on core p (R361, R362). -/
def State.pick (s : State) (p : Nat) : Option (Nat × Hart) :=
  match s.gangOn p with
  | none => none
  | some (k, _) =>
    let c := (s.hartsOf k).filter fun e => s.mayIssue e.1 e.2
    let c := if c.any fun e => !e.2.yielded then c.filter fun e => !e.2.yielded else c
    match c with
    | [] => none
    | x :: t => some (t.foldl s.earlier x)

/-! ## Retirement -/

/-- The loop check of a retired convoy that took no transfer (R89): the hart and how the next convoy is reached. -/
def Hart.loopCheck (h : Hart) (succ : W64) : Hart × W64 × Entry :=
  let at1 : Bool := h.lc1 ≠ 0 && h.lb1 ≤ h.pc && h.pc = h.le1
  if at1 && 1 < h.lc1 then ({ h with lc1 := h.lc1 - 1 }, h.lb1, .landing)
  else
    let h := if at1 then { h with lc1 := 0 } else h
    let at0 : Bool := h.lc0 ≠ 0 && h.lb0 ≤ h.pc && h.pc = h.le0
    if at0 && 1 < h.lc0 then ({ h with lc0 := h.lc0 - 1 }, h.lb0, .landing)
    else (if at0 then { h with lc0 := 0 } else h, succ, .sequential)

/-- Whether a convoy is a return (R369): it has set the pc itself, and VSTART stands (DEDUCED, log 38). -/
def Conv.returns (c : Conv) : Bool := c.instrs.any fun i => match i with | .uret => true | .eret => true | _ => false

/-- The hart after its convoy has retired, watch aside: VSTART := 0 (R102), the convoy counts in the quantum (R248), the
next pc by transfer or loop check (DEDUCED, log 38). -/
def Hart.next (h : Hart) (c : Conv) : Hart :=
  let h := { h with conv := none, waiting := false, qcount := h.qcount + if h.det then 1 else 0 }
  if c.returns then h
  else
    let h := { h with vstart := 0, ci := 0 }
    match c.target with
    | some t => h.landAt t
    | none =>
      let r := h.loopCheck c.succ
      { r.1 with pc := r.2.1, entry := r.2.2 }

/-- The flags a watch is judged on at a retirement: those the convoy raised, with the pending set of this convoy, which a
convoy of the privileged handler does not use (R372) (DEDUCED, log 37). -/
def Hart.judged (h : Hart) (c : Conv) : BitVec 6 :=
  c.raised ||| if h.pwatchPc = h.pc && !h.ph then h.pwatch else 0

/-- Retire a return (R369, R372). Flags of matrix results that its boundary raised outside a handler are judged there when
the hart is at the start of a convoy; with TCI above 0 they join the pending set of the convoy that resumes (DEDUCED, log
37). -/
def State.retireReturn (s : State) (id : Nat) (n : Hart) (raised : BitVec 6) : State :=
  if (raised &&& n.uwatch) = 0 || n.uh then s.putHart id n
  else if n.ci = 0 then s.takeTrap id n .watch n.pc 0 (raised.setWidth 64)
  else s.putHart id (n.keepFlags raised)

/-- Retire a complete convoy that did not stop (R89, R102, R372) (DEDUCED, log 37). -/
def State.retireDone (s : State) (id : Nat) (h : Hart) (c : Conv) : State :=
  let n := h.next c
  if c.returns then s.retireReturn id n c.raised
  else
    let f := h.judged c
    let n := { n with pwatch := if h.pwatchPc = h.pc && !h.ph then 0 else h.pwatch }
    if (f &&& h.uwatch) ≠ 0 && !h.uh then s.takeTrap id n .watch n.pc 0 (f.setWidth 64)
    else s.putHart id n

/-- The end of a convoy whose instructions have all run: its trap (R368), its pause at an element for the next quantum
(R248), or its retirement (DEDUCED, log 45). -/
def State.retire (s : State) (id : Nat) : State :=
  match s.hartAt id with
  | none => s
  | some h =>
    match h.conv with
    | none => s
    | some c =>
      if c.idx < c.instrs.length then s
      else
        let h := { h.takeFlags with age := s.serial }
        let s := { s with serial := s.serial + 1, asleep := [] }
        match c.stop with
        | none => s.retireDone id h (h.conv.getD c)
        | some st =>
          let v := { h with vstart := st.elem.getD h.vstart }
          match st.cause with
          | some cause => s.takeTrap id v cause h.pc st.k st.tval
          | none => s.putHart id { v.dropConv with ci := st.k, entry := .trapReturn, qend := v.qend || st.pauses }

/-! ## Results and stores that land later -/

/-- Deliver the oldest scalar result of a hart (R66). -/
def State.fillRegister (s : State) (id : Nat) : State :=
  match s.hartAt id with
  | some h =>
    match h.fills with
    | f :: t => awake (s.putHart id ({ h with fills := t }.deliver f))
    | [] => s
  | none => s

/-- Land the oldest field write of a hart's vector loads and atomics: its words become full (R228). -/
def State.fillVector (s : State) (id : Nat) : State :=
  match s.hartAt id with
  | some h =>
    match h.vfills with
    | v :: t =>
      awake (((s.writeRow v.row v.start v.width v.value).markRow v.row (wordMask v.start v.width) true).putHart id
        { h with vfills := t })
    | [] => s
  | none => s

/-- Whether the store at index n of hart `id`'s drains may be performed: none before it touches the same bytes, nor is a
lower element of the same .ord instruction (R231, R237); every load and atomic before it has its result (R239 edge (a));
and its page is not moving (R235, R396). -/
def State.drainReady (s : State) (id : Nat) (h : Hart) (n : Nat) (d : Drain) : Bool :=
  !((h.drain.take n).any fun e =>
      s.sharesBytes e.pa e.bytes.length d.pa d.bytes.length || (d.ord && e.serial == d.serial)) &&
  !(s.remotes.any fun r => r.hart == id && r.pending true && r.serial < d.serial) && !s.pageMoving d.pa

/-- Perform the store at index n of a hart's drains at its home (R235), or note that a write-back is accepted (R233)
(DESIGN CHOICE, log 12). -/
def State.drainStore (s : State) (id n : Nat) : State :=
  match s.hartAt id with
  | some h =>
    match h.drain[n]? with
    | some d =>
      if s.drainReady id h n d then
        awake ((if d.bytes.isEmpty then s else (s.physWrite d.pa d.bytes).touch d.pa).putHart id { h with drain := h.drain.eraseIdx n })
      else s
    | none => s
  | none => s

/-! ## The events -/

/-- CONVOY_ISSUE (R361): Each cycle the sequencer picks one ready hart by age and priority, runs the issue checks and issues that hart's convoy. -/
def execConvoyIssue (s : State) : Host.Outcome State Fault Refusal :=
  match s.pick s.who with
  | some e => .next (s.issue e.1)
  | none => .next s

/-- LINE_FETCH (R37): A fetched line is checked before any of its convoys issues: translation, parity, line format and entry. -/
def execLineFetch (s : State) : Host.Outcome State Fault Refusal :=
  .next (s.lineFetch s.who)

/-- LINE_REFETCH (R36): After a parity mismatch the line is read once more from memory; a second mismatch raises LINE_PARITY. -/
def execLineRefetch (s : State) : Host.Outcome State Fault Refusal :=
  .next (s.lineRefetch s.who)

/-- CONVOY_RETIRE (R89): A convoy retires, VSTART becomes 0, and the loop registers are checked to choose the next pc. -/
def execConvoyRetire (s : State) : Host.Outcome State Fault Refusal :=
  .next (s.retire s.who)

/-- REGISTER_FILL (R66): A long-latency producer writes its result, or a poison mark, and the destination register becomes full. -/
def execRegisterFill (s : State) : Host.Outcome State Fault Refusal :=
  .next ((s.fillRegister s.who).rejoin (s.issueWaits s.who) s.who)

/-- PANTRY_REPLY (R312): A Pantry reply arrives and writes the status and the bound fields, to registers or row words. -/
def execPantryReply (s : State) : Host.Outcome State Fault Refusal :=
  let id := match s.preplies[s.who]? with | some r => r.hart | none => 0
  .next ((s.deliverNth s.who).rejoin (s.issueWaits id) id)

/-- VECTOR_LOAD_FILL (R228): The data of a vector load element lands and its destination words are marked full. -/
def execVectorLoadFill (s : State) : Host.Outcome State Fault Refusal :=
  .next (s.fillVector s.who)

/-- STORE_DRAIN (R235): A store's data, drained after its convoy has retired, is performed at its home, where it may be held by a page move. -/
def execStoreDrain (hart : Nat) (n : Nat) (s : State) : Host.Outcome State Fault Refusal :=
  .next (s.drainStore hart n)

end Sys2Proof.Machine
end

