-- ==== Sys2Proof/Machine/Dispatch.lean ====
section
/-! DEFINITION. The dispatch: one arm per instruction and event of the opcode table, each one call of its meaning. -/

namespace Sys2Proof.Machine

open Sys2Proof

/-- Run an instruction or perform an event. -/
def exec (i : Instr) (s : State) : Host.Outcome State Fault Refusal :=
  match i with
  | .nop => Sys2Proof.Machine.execNop s
  | .addi d a imm => Sys2Proof.Machine.execAddi d a imm s
  | .andi d a imm => Sys2Proof.Machine.execAndi d a imm s
  | .ori d a imm => Sys2Proof.Machine.execOri d a imm s
  | .xori d a imm => Sys2Proof.Machine.execXori d a imm s
  | .slli d a n => Sys2Proof.Machine.execSlli d a n s
  | .srli d a n => Sys2Proof.Machine.execSrli d a n s
  | .srai d a n => Sys2Proof.Machine.execSrai d a n s
  | .slti d a imm => Sys2Proof.Machine.execSlti d a imm s
  | .sltin d a imm => Sys2Proof.Machine.execSltin d a imm s
  | .movi d imm => Sys2Proof.Machine.execMovi d imm s
  | .add d a b => Sys2Proof.Machine.execAdd d a b s
  | .sub d a b => Sys2Proof.Machine.execSub d a b s
  | .and d a b => Sys2Proof.Machine.execAnd d a b s
  | .or d a b => Sys2Proof.Machine.execOr d a b s
  | .xor d a b => Sys2Proof.Machine.execXor d a b s
  | .andn d a b => Sys2Proof.Machine.execAndn d a b s
  | .sll d a b => Sys2Proof.Machine.execSll d a b s
  | .srl d a b => Sys2Proof.Machine.execSrl d a b s
  | .sra d a b => Sys2Proof.Machine.execSra d a b s
  | .slt d a b => Sys2Proof.Machine.execSlt d a b s
  | .sltn d a b => Sys2Proof.Machine.execSltn d a b s
  | .min d a b => Sys2Proof.Machine.execMin d a b s
  | .max d a b => Sys2Proof.Machine.execMax d a b s
  | .minn d a b => Sys2Proof.Machine.execMinn d a b s
  | .maxn d a b => Sys2Proof.Machine.execMaxn d a b s
  | .mul d a b => Sys2Proof.Machine.execMul d a b s
  | .mulh d a b => Sys2Proof.Machine.execMulh d a b s
  | .mulhn d a b => Sys2Proof.Machine.execMulhn d a b s
  | .div d a b => Sys2Proof.Machine.execDiv d a b s
  | .divn d a b => Sys2Proof.Machine.execDivn d a b s
  | .rem d a b => Sys2Proof.Machine.execRem d a b s
  | .remn d a b => Sys2Proof.Machine.execRemn d a b s
  | .clz d a => Sys2Proof.Machine.execClz d a s
  | .ctz d a => Sys2Proof.Machine.execCtz d a s
  | .popc d a => Sys2Proof.Machine.execPopc d a s
  | .mov d a => Sys2Proof.Machine.execMov d a s
  | .ld d a imm => Sys2Proof.Machine.execLd d a imm s
  | .st d a imm => Sys2Proof.Machine.execSt d a imm s
  | .beqz a off => Sys2Proof.Machine.execBeqz a off s
  | .bnez a off => Sys2Proof.Machine.execBnez a off s
  | .j off => Sys2Proof.Machine.execJ off s
  | .jal off => Sys2Proof.Machine.execJal off s
  | .jr a imm => Sys2Proof.Machine.execJr a imm s
  | .jalr a imm => Sys2Proof.Machine.execJalr a imm s
  | .loop k a off => Sys2Proof.Machine.execLoop k a off s
  | .crd d r => Sys2Proof.Machine.execCrd d r s
  | .cwr a r => Sys2Proof.Machine.execCwr a r s
  | .setvl d a => Sys2Proof.Machine.execSetvl d a s
  | .tand td ta tb m => Sys2Proof.Machine.execTand td ta tb m s
  | .tor td ta tb m => Sys2Proof.Machine.execTor td ta tb m s
  | .txor td ta tb m => Sys2Proof.Machine.execTxor td ta tb m s
  | .tandn td ta tb m => Sys2Proof.Machine.execTandn td ta tb m s
  | .tnot td ta m => Sys2Proof.Machine.execTnot td ta m s
  | .tset td m => Sys2Proof.Machine.execTset td m s
  | .tclr td m => Sys2Proof.Machine.execTclr td m s
  | .tmov td ta m => Sys2Proof.Machine.execTmov td ta m s
  | .tcnt d ta m => Sys2Proof.Machine.execTcnt d ta m s
  | .tany d ta m => Sys2Proof.Machine.execTany d ta m s
  | .tfirst d ta m => Sys2Proof.Machine.execTfirst d ta m s
  | .tpick td ta a m => Sys2Proof.Machine.execTpick td ta a m s
  | .brk imm => Sys2Proof.Machine.execBrk imm s
  | .svc imm => Sys2Proof.Machine.execSvc imm s
  | .fence imm => Sys2Proof.Machine.execFence imm s
  | .exit => Sys2Proof.Machine.execExit s
  | .exitFail => Sys2Proof.Machine.execExitFail s
  | .yield => Sys2Proof.Machine.execYield s
  | .uret => Sys2Proof.Machine.execUret s
  | .eret => Sys2Proof.Machine.execEret s
  | .addw o => Sys2Proof.Machine.execAddw o s
  | .movw o => Sys2Proof.Machine.execMovw o s
  | .movhi o => Sys2Proof.Machine.execMovhi o s
  | .lds o => Sys2Proof.Machine.execLds o s
  | .sts o => Sys2Proof.Machine.execSts o s
  | .bc o => Sys2Proof.Machine.execBc o s
  | .jl o => Sys2Proof.Machine.execJl o s
  | .sel o => Sys2Proof.Machine.execSel o s
  | .bext o => Sys2Proof.Machine.execBext o s
  | .bins o => Sys2Proof.Machine.execBins o s
  | .lpset o => Sys2Proof.Machine.execLpset o s
  | .movl o lit => Sys2Proof.Machine.execMovl o lit s
  | .addl o lit => Sys2Proof.Machine.execAddl o lit s
  | .andl o lit => Sys2Proof.Machine.execAndl o lit s
  | .orl o lit => Sys2Proof.Machine.execOrl o lit s
  | .xorl o lit => Sys2Proof.Machine.execXorl o lit s
  | .bcl o lit => Sys2Proof.Machine.execBcl o lit s
  | .loopl o lit => Sys2Proof.Machine.execLoopl o lit s
  | .asrch o => Sys2Proof.Machine.execAsrch o s
  | .awr o => Sys2Proof.Machine.execAwr o s
  | .asrchl o => Sys2Proof.Machine.execAsrchl o s
  | .awrl o => Sys2Proof.Machine.execAwrl o s
  | .tshup o => Sys2Proof.Machine.execTshup o s
  | .tshdn o => Sys2Proof.Machine.execTshdn o s
  | .amcodeRun o => Sys2Proof.Machine.execAmcodeRun o s
  | .amcodeLoad o => Sys2Proof.Machine.execAmcodeLoad o s
  | .vadd v => Sys2Proof.Machine.execVadd v s
  | .vsub v => Sys2Proof.Machine.execVsub v s
  | .vadds v => Sys2Proof.Machine.execVadds v s
  | .vsubs v => Sys2Proof.Machine.execVsubs v s
  | .vmul v => Sys2Proof.Machine.execVmul v s
  | .vmulh v => Sys2Proof.Machine.execVmulh v s
  | .vmac v => Sys2Proof.Machine.execVmac v s
  | .vneg v => Sys2Proof.Machine.execVneg v s
  | .vabs v => Sys2Proof.Machine.execVabs v s
  | .vabsd v => Sys2Proof.Machine.execVabsd v s
  | .vmin v => Sys2Proof.Machine.execVmin v s
  | .vmax v => Sys2Proof.Machine.execVmax v s
  | .vand v => Sys2Proof.Machine.execVand v s
  | .vor v => Sys2Proof.Machine.execVor v s
  | .vxor v => Sys2Proof.Machine.execVxor v s
  | .vnot v => Sys2Proof.Machine.execVnot v s
  | .vshl v => Sys2Proof.Machine.execVshl v s
  | .vshr v => Sys2Proof.Machine.execVshr v s
  | .vsra v => Sys2Proof.Machine.execVsra v s
  | .vcmp v => Sys2Proof.Machine.execVcmp v s
  | .vsel v => Sys2Proof.Machine.execVsel v s
  | .vmov v => Sys2Proof.Machine.execVmov v s
  | .vcvt v => Sys2Proof.Machine.execVcvt v s
  | .vpopc v => Sys2Proof.Machine.execVpopc v s
  | .vdiv v => Sys2Proof.Machine.execVdiv v s
  | .vmull v => Sys2Proof.Machine.execVmull v s
  | .vbfpq v => Sys2Proof.Machine.execVbfpq v s
  | .vscale v => Sys2Proof.Machine.execVscale v s
  | .vrsum v => Sys2Proof.Machine.execVrsum v s
  | .vrmin v => Sys2Proof.Machine.execVrmin v s
  | .vrmax v => Sys2Proof.Machine.execVrmax v s
  | .vscan v => Sys2Proof.Machine.execVscan v s
  | .vtopk v => Sys2Proof.Machine.execVtopk v s
  | .vsimh v => Sys2Proof.Machine.execVsimh v s
  | .vsimd v => Sys2Proof.Machine.execVsimd v s
  | .vcbound v => Sys2Proof.Machine.execVcbound v s
  | .vcwalk v => Sys2Proof.Machine.execVcwalk v s
  | .vcdirty v => Sys2Proof.Machine.execVcdirty v s
  | .unmk v => Sys2Proof.Machine.execUnmk v s
  | .fadd v => Sys2Proof.Machine.execFadd v s
  | .fsub v => Sys2Proof.Machine.execFsub v s
  | .fmul v => Sys2Proof.Machine.execFmul v s
  | .ffma v => Sys2Proof.Machine.execFfma v s
  | .ffms v => Sys2Proof.Machine.execFfms v s
  | .fmin v => Sys2Proof.Machine.execFmin v s
  | .fmax v => Sys2Proof.Machine.execFmax v s
  | .fabs v => Sys2Proof.Machine.execFabs v s
  | .fneg v => Sys2Proof.Machine.execFneg v s
  | .fcmp v => Sys2Proof.Machine.execFcmp v s
  | .fcvt v => Sys2Proof.Machine.execFcvt v s
  | .fdiv v => Sys2Proof.Machine.execFdiv v s
  | .fsqrt v => Sys2Proof.Machine.execFsqrt v s
  | .frcp v => Sys2Proof.Machine.execFrcp v s
  | .frsq v => Sys2Proof.Machine.execFrsq v s
  | .fexp2 v => Sys2Proof.Machine.execFexp2 v s
  | .flog2 v => Sys2Proof.Machine.execFlog2 v s
  | .fsin v => Sys2Proof.Machine.execFsin v s
  | .fcos v => Sys2Proof.Machine.execFcos v s
  | .ftanh v => Sys2Proof.Machine.execFtanh v s
  | .fsig v => Sys2Proof.Machine.execFsig v s
  | .ferf v => Sys2Proof.Machine.execFerf v s
  | .frsum v => Sys2Proof.Machine.execFrsum v s
  | .frmax v => Sys2Proof.Machine.execFrmax v s
  | .gang o => Sys2Proof.Machine.execGang o s
  | .vbcast o => Sys2Proof.Machine.execVbcast o s
  | .vext o => Sys2Proof.Machine.execVext o s
  | .vins o => Sys2Proof.Machine.execVins o s
  | .vslide o => Sys2Proof.Machine.execVslide o s
  | .vpermr o => Sys2Proof.Machine.execVpermr o s
  | .vgrant o => Sys2Proof.Machine.execVgrant o s
  | .mma v => Sys2Proof.Machine.execMma v s
  | .mmas v => Sys2Proof.Machine.execMmas v s
  | .mmau v => Sys2Proof.Machine.execMmau v s
  | .mlda o => Sys2Proof.Machine.execMlda o s
  | .msta o => Sys2Proof.Machine.execMsta o s
  | .mzero o => Sys2Proof.Machine.execMzero o s
  | .mdesc o => Sys2Proof.Machine.execMdesc o s
  | .mdescRd o => Sys2Proof.Machine.execMdescRd o s
  | .mwait o => Sys2Proof.Machine.execMwait o s
  | .mchk o => Sys2Proof.Machine.execMchk o s
  | .vld o => Sys2Proof.Machine.execVld o s
  | .vst o => Sys2Proof.Machine.execVst o s
  | .vlds o => Sys2Proof.Machine.execVlds o s
  | .vsts o => Sys2Proof.Machine.execVsts o s
  | .vldx o => Sys2Proof.Machine.execVldx o s
  | .vstx o => Sys2Proof.Machine.execVstx o s
  | .vldff o => Sys2Proof.Machine.execVldff o s
  | .rld o => Sys2Proof.Machine.execRld o s
  | .rst o => Sys2Proof.Machine.execRst o s
  | .pref o => Sys2Proof.Machine.execPref o s
  | .cwb o => Sys2Proof.Machine.execCwb o s
  | .amo o => Sys2Proof.Machine.execAmo o s
  | .vamo o => Sys2Proof.Machine.execVamo o s
  | .ldf o => Sys2Proof.Machine.execLdf o s
  | .ldfe o => Sys2Proof.Machine.execLdfe o s
  | .ste o => Sys2Proof.Machine.execSte o s
  | .stf o => Sys2Proof.Machine.execStf o s
  | .feset o => Sys2Proof.Machine.execFeset o s
  | .waita o => Sys2Proof.Machine.execWaita o s
  | .stwk o => Sys2Proof.Machine.execStwk o s
  | .barGang o => Sys2Proof.Machine.execBarGang o s
  | .barClus o => Sys2Proof.Machine.execBarClus o s
  | .dqpush o => Sys2Proof.Machine.execDqpush o s
  | .dqpop o => Sys2Proof.Machine.execDqpop o s
  | .dqsteal o => Sys2Proof.Machine.execDqsteal o s
  | .cpush o => Sys2Proof.Machine.execCpush o s
  | .cstat o => Sys2Proof.Machine.execCstat o s
  | .cwait o => Sys2Proof.Machine.execCwait o s
  | .ckill o => Sys2Proof.Machine.execCkill o s
  | .ckillRel o => Sys2Proof.Machine.execCkillRel o s
  | .xrow o => Sys2Proof.Machine.execXrow o s
  | .pdep o => Sys2Proof.Machine.execPdep o s
  | .pcopy o => Sys2Proof.Machine.execPcopy o s
  | .ptake o => Sys2Proof.Machine.execPtake o s
  | .pcnl o => Sys2Proof.Machine.execPcnl o s
  | .pcnt o => Sys2Proof.Machine.execPcnt o s
  | .cwalk o => Sys2Proof.Machine.execCwalk o s
  | .cdirty o => Sys2Proof.Machine.execCdirty o s
  | .launch o => Sys2Proof.Machine.execLaunch o s
  | .preempt o => Sys2Proof.Machine.execPreempt o s
  | .ctxsv o => Sys2Proof.Machine.execCtxsv o s
  | .ctxld o => Sys2Proof.Machine.execCtxld o s
  | .migr o => Sys2Proof.Machine.execMigr o s
  | .lcidset o => Sys2Proof.Machine.execLcidset o s
  | .tlbinv o => Sys2Proof.Machine.execTlbinv o s
  | .tlbinva o => Sys2Proof.Machine.execTlbinva o s
  | .bringUp boot => Sys2Proof.Machine.execBringUp boot s
  | .pageWalk hart va => Sys2Proof.Machine.execPageWalk hart va s
  | .thermalRequest core deg => Sys2Proof.Machine.execThermalRequest core deg s
  | .lqTailWrite q value => Sys2Proof.Machine.execLqTailWrite q value s
  | .controlRegisterWrite off size value => Sys2Proof.Machine.execControlRegisterWrite off size value s
  | .phaseDelayExpire q cluster => Sys2Proof.Machine.execPhaseDelayExpire q cluster s
  | .matrixCommit core check => Sys2Proof.Machine.execMatrixCommit core check s
  | .copyLineLand core ch => Sys2Proof.Machine.execCopyLineLand core ch s
  | .copyRecordComplete core ch => Sys2Proof.Machine.execCopyRecordComplete core ch s
  | .pantryTimeout hart status => Sys2Proof.Machine.execPantryTimeout hart status s
  | .prgnWrite region value => Sys2Proof.Machine.execPrgnWrite region value s
  | .mqTailWrite value => Sys2Proof.Machine.execMqTailWrite value s
  | .hostWrite bar2 off size value => Sys2Proof.Machine.execHostWrite bar2 off size value s
  | .hostRead bar2 off size => Sys2Proof.Machine.execHostRead bar2 off size s
  | .remoteRequest pa op => Sys2Proof.Machine.execRemoteRequest pa op s
  | .retirementAppend kind loc => Sys2Proof.Machine.execRetirementAppend kind loc s
  | .storeDrain hart n => Sys2Proof.Machine.execStoreDrain hart n s
  | .singleBitUpset core array row bit => Sys2Proof.Machine.execSingleBitUpset core array row bit s
  | .deviceReset => Sys2Proof.Machine.execDeviceReset s
  | .convoyIssue => Sys2Proof.Machine.execConvoyIssue s
  | .lineFetch => Sys2Proof.Machine.execLineFetch s
  | .lineRefetch => Sys2Proof.Machine.execLineRefetch s
  | .convoyRetire => Sys2Proof.Machine.execConvoyRetire s
  | .registerFill => Sys2Proof.Machine.execRegisterFill s
  | .vectorLoadFill => Sys2Proof.Machine.execVectorLoadFill s
  | .arrayScrub => Sys2Proof.Machine.execArrayScrub s
  | .droopFreeze => Sys2Proof.Machine.execDroopFreeze s
  | .droopHoldExpire => Sys2Proof.Machine.execDroopHoldExpire s
  | .migrationSearch => Sys2Proof.Machine.execMigrationSearch s
  | .thermalMigration => Sys2Proof.Machine.execThermalMigration s
  | .lcidExchange => Sys2Proof.Machine.execLcidExchange s
  | .lqPreempt => Sys2Proof.Machine.execLqPreempt s
  | .lqResume => Sys2Proof.Machine.execLqResume s
  | .launchStart => Sys2Proof.Machine.execLaunchStart s
  | .iterationDispatch => Sys2Proof.Machine.execIterationDispatch s
  | .hartEnd => Sys2Proof.Machine.execHartEnd s
  | .launchComplete => Sys2Proof.Machine.execLaunchComplete s
  | .preemptionSave => Sys2Proof.Machine.execPreemptionSave s
  | .gangResumePlace => Sys2Proof.Machine.execGangResumePlace s
  | .quantumEnd => Sys2Proof.Machine.execQuantumEnd s
  | .quantumCommit => Sys2Proof.Machine.execQuantumCommit s
  | .matrixStart => Sys2Proof.Machine.execMatrixStart s
  | .copyRecordBegin => Sys2Proof.Machine.execCopyRecordBegin s
  | .homeAtomicPerform => Sys2Proof.Machine.execHomeAtomicPerform s
  | .parkRetry => Sys2Proof.Machine.execParkRetry s
  | .feWaitServe => Sys2Proof.Machine.execFeWaitServe s
  | .waitTimeoutExpire => Sys2Proof.Machine.execWaitTimeoutExpire s
  | .watchReevaluate => Sys2Proof.Machine.execWatchReevaluate s
  | .barrierRelease => Sys2Proof.Machine.execBarrierRelease s
  | .barrierTimeout => Sys2Proof.Machine.execBarrierTimeout s
  | .pantryMessageServe => Sys2Proof.Machine.execPantryMessageServe s
  | .pantryRefuseRetry => Sys2Proof.Machine.execPantryRefuseRetry s
  | .pantryReply => Sys2Proof.Machine.execPantryReply s
  | .cellarWalkServe => Sys2Proof.Machine.execCellarWalkServe s
  | .move => Sys2Proof.Machine.execMove s
  | .release => Sys2Proof.Machine.execRelease s
  | .heatdump => Sys2Proof.Machine.execHeatdump s
  | .movePageCutover => Sys2Proof.Machine.execMovePageCutover s
  | .heatEpochHalve => Sys2Proof.Machine.execHeatEpochHalve s
  | .remoteTimeout => Sys2Proof.Machine.execRemoteTimeout s
  | .powerClamp => Sys2Proof.Machine.execPowerClamp s
  | .thermalTrip => Sys2Proof.Machine.execThermalTrip s
  | .bar2Resize => Sys2Proof.Machine.execBar2Resize s

end Sys2Proof.Machine
end

