-- ==== Sys2Proof/Machine/Sched.lean ====
section
/-! DEFINITION. What happens next when `State.agenda` says nothing: the engines, homes and queues act as soon as they can,
then a hart runs (R361), and a timeout runs out only when nothing else can happen (log 4, log 26). Every choice here is
the model's default schedule; the agenda makes any other. -/

namespace Sys2Proof.Machine

open Sys2Proof

/-! ## Steps of one hart -/

/-- The instruction the hart `id` of a gang is at, inside its convoy. -/
def State.instrAt (s : State) (id : Nat) : Option Instr :=
  match s.hartAt id with
  | some h => if (s.gangAt h.gang).isSome then h.current else none
  | none => none

/-- Run the instruction a hart is at, if it is at one. -/
def State.runCurrent (s : State) (id : Nat) : Host.Outcome State Fault Refusal :=
  match s.instrAt id with
  | some i => exec i { s with cur := some id }
  | none => .next s

/-- A step of a hart: at a boundary it issues its convoy and runs the first instruction, inside a convoy it runs the next
one, and a complete convoy retires. -/
def State.stepHart (s : State) (id : Nat) : Host.Outcome State Fault Refusal :=
  match s.hartAt id with
  | none => .next s
  | some h =>
    match h.conv with
    | none => if s.mayIssue id h then (s.issue id).runCurrent id else .next s
    | some _ => if h.current.isSome then s.runCurrent id else .next (s.retire id)

/-! ## Work that goes on beside the harts -/

/-- The places of the first n entries of a list. -/
def places {α : Type} (l : List α) : List Nat := List.range l.length

/-- What a hart has outstanding. -/
def hartWork (e : Nat × Hart) : List (Instr × Nat) :=
  let h := e.2
  (if h.conv.isSome && h.current.isNone then [(.convoyRetire, e.1)] else []) ++
  (if h.fills.isEmpty then [] else [(.registerFill, e.1)]) ++
  (if h.vfills.isEmpty then [] else [(.vectorLoadFill, e.1)]) ++
  ((places h.drain).map fun n => (.storeDrain e.1 n, 0)) ++
  (if h.det && !h.qend && h.conv.isNone && h.qlim ≤ h.qcount then [(.quantumEnd, e.1)] else [])

/-- The channels a core's records are in. -/
def channels (c : Core) : List Nat := (c.copies.map CRec.ch).eraseDups

/-- What a core's engines have to do. -/
def coreWork (e : Nat × Core) : List (Instr × Nat) :=
  let c := e.2
  (if c.mqueue.isEmpty then [] else [(.matrixStart, e.1), (.matrixCommit e.1 .agree, e.1)]) ++
  (if c.copies.isEmpty then []
   else
     (.copyRecordBegin, e.1) ::
       (channels c).flatMap fun ch => [(.copyLineLand e.1 ch, e.1), (.copyRecordComplete e.1 ch, e.1)]) ++
  (if c.request then [(.migrationSearch, e.1)] else []) ++
  (if c.frozen then [(.droopHoldExpire, e.1)] else [])

/-- What a launch queue has to do. -/
def queueWork (e : Nat × LQ) : List (Instr × Nat) :=
  let l := e.2
  match l.launch with
  | none => if l.en && l.head != l.tail then [(.launchStart, e.1)] else []
  | some la =>
    ((la.delayed.map fun n => (.phaseDelayExpire e.1 n, e.1)) : List (Instr × Nat)) ++
    [(.gangResumePlace, e.1), (.preemptionSave, e.1)] ++
    (if la.next < la.total then [(.iterationDispatch, e.1)] else []) ++
    (if Lr.det la.record then [(.quantumCommit, e.1)] else []) ++
    (if la.ending.isSome || (la.next == la.total && la.saved.isEmpty) then [(.launchComplete, e.1)] else [])

/-- Everything that may be done now beside the harts, in the default order (DESIGN CHOICE, log 26). -/
def State.work (s : State) : List (Instr × Nat) :=
  ((places s.migs).flatMap fun n => [(.lcidExchange, n), (.thermalMigration, n)]) ++
  (s.harts.flatMap hartWork) ++
  ((places s.atoms).map fun n => (.homeAtomicPerform, n)) ++
  (if s.peerWaits.isEmpty then [] else [(.feWaitServe, peerKey)]) ++
  (s.cores.flatMap coreWork) ++
  ((places s.preplies).map fun n => (.pantryReply, n)) ++
  ((places s.pmsgs).map fun n => (.pantryMessageServe, n)) ++
  (s.lqs.flatMap queueWork) ++
  if s.mq.en then [(.movePageCutover, 0), (.move, 0), (.release, 0), (.heatdump, 0)] else []

/-- The state with the model's scheduling marks put aside, to tell whether an event did anything. -/
def State.plain (s : State) : State := { s with who := 0, cur := none, asleep := [] }

/-- The state after the first listed event that changes anything. -/
def State.firstOf (s : State) : List (Instr × Nat) → Option State
  | [] => none
  | (i, w) :: t =>
    match exec i { s with who := w } with
    | .next s' => if s'.plain = s.plain then s.firstOf t else some s'
    | _ => s.firstOf t

/-! ## The choice of a hart -/

/-- Whether a hart can go on inside its convoy. -/
def State.midway (s : State) (e : Nat × Hart) : Bool := e.2.current.isSome && !s.asleep.contains e.1

/-- The hart that issues next among all gangs: the one that has been ready longest of the cores' choices. -/
def State.pickAny (s : State) : Option Nat :=
  match s.gangs.filterMap fun e => s.pick e.2.first with
  | [] => none
  | x :: t => some (t.foldl (fun a b => if b.2.age < a.2.age then b else a) x).1

/-- The hart that steps next: one whose instruction belongs to a commit, one inside its convoy, or one that issues
(DESIGN CHOICE, log 26). -/
def State.nextHart (s : State) : Option Nat :=
  match s.harts.find? fun e => s.midway e && e.2.go with
  | some e => some e.1
  | none =>
    match s.harts.find? fun e => s.midway e with
    | some e => some e.1
    | none => s.pickAny

/-! ## Timeouts and retries -/

/-- Refused requests that a table now has room for. -/
def State.retries (s : State) : List (Instr × Nat) :=
  ((s.parks.filter fun p => p.refused && !s.tableFull (s.parkPlace p)).map fun p => (.parkRetry, p.hart)) ++
  ((s.peerWaits.zipIdx.filter fun p => p.1.refused && !s.tableFull (s.parkHome p.1.pa)).map fun p => (.parkRetry, peerKey + p.2)) ++
  ((s.pmsgs.zipIdx.filter fun m => m.1.refused).map fun m => (.pantryRefuseRetry, m.2))

/-- The timeouts that can run out (DESIGN CHOICE, log 6). -/
def State.timeouts (s : State) : List (Instr × Nat) :=
  (s.harts.flatMap fun e =>
    (if e.2.waiting then [(.waitTimeoutExpire, e.1), (.barrierTimeout, e.1)] else []) ++
    (e.2.preqs.filterMap fun p => p.status.bind fun d => p.timeout.map fun _ => (.pantryTimeout e.1 d.toNat, 0))) ++
  ((places s.remotes).map fun n => (.remoteTimeout, n))

/-- The default step: work beside the harts, a hart, then what only the passing of time brings (DESIGN CHOICE, log 26).
-/
def State.default (s : State) : Host.Outcome State Fault Refusal :=
  match s.firstOf s.work with
  | some s' => .next s'
  | none =>
    match s.nextHart with
    | some id => s.stepHart id
    | none => .next ((s.firstOf (s.retries ++ s.timeouts)).getD s)

/-! ## Inputs -/

/-- The power comes back: memory is empty, and the flash table is kept (R399, DEDUCED, log 27). -/
def State.powerCycle (s : State) : State :=
  { s.resetDevice with mem := [], lines := [], poison := [], flips := [], rtLate := [] }

/-- Perform an input (DESIGN CHOICE, log 4). -/
def State.perform (s : State) : Input → Host.Outcome State Fault Refusal
  | .event i who => exec i { s with who := who, cur := none }
  | .hart h => s.stepHart h
  | .answer n v => .next (s.answered n v)
  | .mediaFlip a m => .next (s.mediaFlip a m)
  | .mediaPoison a => .next (s.mediaPoison a)
  | .evict n => .next (s.evict n)
  | .link p up => .next (s.setLink p up)
  | .power => .next s.powerCycle

end Sys2Proof.Machine
end

