-- ==== Sys2Proof/Machine/Place.lean ====
section
/-! DEFINITION. A placed launch with one given instruction in its line, as the loading of a program and a launch of one
hart leave it (log 5). -/

namespace Sys2Proof.Machine

open Sys2Proof

namespace Place

/-- Virtual address of the line and physical address of its page. -/
def entry : Nat := 0x100000
def page : Nat := 0x10000

/-- The leaf of the line's page: TYPE 0, EX, RD, 64 KiB, LEAF, V. -/
def leaf : W64 := BitVec.ofNat 64 (page + 0xA5)

/-- A line that begins with the given instruction bits: a convoy of its own at parcel 0, then a NOP in each parcel, every
one a convoy and parcel 0 a target. -/
def line (nbits w : Nat) : Nat :=
  let v := w % 2 ^ nbits
  let n := parcelsOf (BitVec.ofNat 32 v)
  let body := v % 2 ^ (32 * n)
  let starts := 1 + 2 ^ 15 - 2 ^ n
  let mid := starts * 2 ^ 15 + 1
  let par0 := popCount 256 body % 2
  let par1 := (popCount 30 mid + popCount 224 (body / 2 ^ 256)) % 2
  body + (mid + par0 * 2 ^ 30 + par1 * 2 ^ 31) * 2 ^ 480

/-- The record of the launch: one iteration of one hart on one core in the privileged view, VL = 2. -/
def record : List W64 :=
  [BitVec.ofNat 64 entry, 0, 0, 0, 1, 0, 0x400, 2, 0, 0, 0, 0, 0, 0, 0, 0]

/-- The launch, its one iteration handed out. -/
def launch : Launch := ⟨record, 1, 1, [0], [], 0, none, none, [], false⟩

end Place

/-- The state with one hart of a launch at a line that begins with the given instruction, and nothing else to do (DESIGN
CHOICE, log 5). -/
def State.placeWord (s : State) (nbits w : Nat) : State :=
  let s := { s with
    agenda := [], asleep := [], dev := { s.dev with bootOk := true }
    tlb := ⟨0, none, 0, Place.entry, 0x10000, Place.leaf, false, 0⟩ :: s.tlb }
  let s := s.setMemBytes Place.page (leBytes 64 (Place.line nbits w))
  let s := s.putLq 0 { s.lqAt 0 with state := 1, launch := some Place.launch }
  (s.formGang 0 Place.record 0 0).startGang 0 Place.launch 0 0

end Sys2Proof.Machine
end

