-- ==== Sys2Proof/Machine/Step.lean ====
section
/-! DEFINITION. The step: the next input of the agenda, or with none left the default step; nothing runs after a thermal
trip (R402). -/

namespace Sys2Proof.Machine

open Sys2Proof

/-- One step of the machine (DESIGN CHOICE, log 4). -/
def step (s : State) : Host.Outcome State Fault Refusal :=
  match s.agenda with
  | a :: rest => State.perform { s with agenda := rest } a
  | [] => if s.dev.trip then .next s else s.default

/-- The state with an instruction where the next step fetches and runs it (DESIGN CHOICE, log 5). -/
def State.withFetchWord (s : State) (nbits w : Nat) : State := s.placeWord nbits w

end Sys2Proof.Machine
end

