-- ==== Sys2Proof/Safety.lean ====
section
/-! DEFINITION. What counts as a safe run: no step stops, and memory stays in its canonical form; and what it means that
an instruction runs and completes. -/

namespace Sys2Proof.Machine

open Sys2Proof

/-- An event of the part, which no program encodes. -/
def isEvent (i : Instr) : Bool := (encode i).isEmpty

/-- An input that names an event only as an event: an instruction is run by a hart, never put on the agenda. -/
def Input.ok : Input → Bool
  | .event i _ => isEvent i
  | _ => true

/-- The next input of the agenda, if there is one, is in order. -/
def State.agendaOk (s : State) : Bool :=
  match s.agenda with
  | a :: _ => a.ok
  | [] => true

/-- A step that goes on. -/
def State.goesOn (s : State) : Prop := ∃ t, step s = .next t

/-- The invariant of memory: HBM4E and the Undercroft are listed in canonical form. -/
def State.Inv (s : State) : Prop := Memory.wf s.mem = true

/-- A run of n steps stays safe: every step goes on. -/
def State.safeFor : Nat → State → Prop
  | 0, _ => True
  | n + 1, s => ∃ t, step s = .next t ∧ t.safeFor n

/-! ## An instruction that runs -/

/-- Hart `id`, in state `h` of gang `g`, is inside a convoy that no earlier instruction has stopped, and instruction `i`
is legal for the gang and the view (R55), its register sources are full and not poisoned (R66, R68), the values and
addresses it checks at issue are right (R55), no source of policy 1 was found empty (R135, R150, R205), it breaks no rule
of its convoy (R51), it has acted on no element yet, VL does not exceed VLMAX (R190), no load of the hart's rows and no access it is ordered after is
outstanding (R228, R239), its gang is not frozen (R378), and under MODE.DET it is not a synchronising instruction before
its turn, nor held for a commit (R248, R249). -/
abbrev Executes (i : Instr) (s : State) (id : Nat) (h : Hart) (g : Gang) : Prop :=
  s.cur = some id ∧ s.hartAt id = some h ∧ s.gangAt h.gang = some g ∧
  h.conv.isSome = true ∧ stopped h = false ∧
  shapeIllegal h g i = false ∧ lacksRight h i = false ∧ s.registerCheck h g i = none ∧
  (∀ x ∈ (foot h i).src, h.isFull x.1 = true ∧ h.isPoisoned x.1 = false) ∧
  s.verdict id h g i = none ∧ h.lateBreach i = false ∧ h.done = 0 ∧
  h.vl ≤ h.vlmax g ∧ h.vfills = [] ∧ s.frozenGang g = false ∧ s.accessWaits id h i = false ∧
  (h.det = true → isSync i = true ∨ s.committing h.queue = true → h.go = true)

/-- `Executes`, with the destination registers not on their way (R66). -/
abbrev Runs (i : Instr) (s : State) (id : Nat) (h : Hart) (g : Gang) : Prop :=
  Executes i s id h g ∧ ∀ r ∈ (foot h i).dst, h.isFull r = true

/-- The state after the current instruction of hart `id` has completed in state `s`: its convoy is one instruction
further, and harts found waiting are looked at again. -/
def finished (s : State) (id : Nat) : State := (s.onHart id Hart.advance).dropAnswers id

/-- The state after instruction `i` of hart `id` has completed by replacing the hart. -/
def finishedWith (s : State) (id : Nat) (h : Hart) : State := finished (s.putHart id h) id

/-- `i` completes in `s` and leaves `t`. -/
def Completes (i : Instr) (s t : State) : Prop := exec i s = .next t

end Sys2Proof.Machine
end

