-- ==== Sys2Proof/Certificates/Slice0/Obligations.lean ====
section
/-! DEFINITION. The statements about the CL9 model that the provers are given, with the small vocabulary they are
written in (`Sys2Proof.Claims`). Each statement names the rule of the spec it follows. -/

namespace Sys2Proof.Claims

open Sys2Proof Sys2Proof.Machine

/-! ## What stays -/

/-- Every byte of memory and every row of every array reads as before. -/
def SameStores (s t : State) : Prop :=
  (∀ a, t.memByte a = s.memByte a) ∧ ∀ k, t.rowAt k = s.rowAt k

/-- Every control register of the hart reads as before, less VL and VSTART, the loop registers, FST, FRM and VSTAT: the
trap registers, the watch, MODE, power, CTXBASE and XCTL (R70). -/
def SameSpecial (h h' : Hart) : Prop :=
  (h'.view, h'.uh, h'.tcode, h'.tpc, h'.tci, h'.tval, h'.uhpc, h'.uwatch) =
    (h.view, h.uh, h.tcode, h.tpc, h.tci, h.tval, h.uhpc, h.uwatch) ∧
  (h'.ph, h'.ppv, h'.ptcode, h'.ptpc, h'.ptci, h'.ptval, h'.tvec) =
    (h.ph, h.ppv, h.ptcode, h.ptpc, h.ptci, h.ptval, h.tvec) ∧
  (h'.la, h'.det, h'.detq, h'.prof, h'.skew, h'.droop, h'.ctxbase, h'.xctl, h'.adesc) =
    (h.la, h.det, h.detq, h.prof, h.skew, h.droop, h.ctxbase, h.xctl, h.adesc)

/-- The flags and modes of arithmetic read as before (R71). -/
def SameFlags (h h' : Hart) : Prop := h'.fst = h.fst ∧ h'.frm = h.frm ∧ h'.vstat = h.vstat

/-- The loop registers read as before (R74). -/
def SameLoops (h h' : Hart) : Prop :=
  (h'.lb0, h'.le0, h'.lc0, h'.lb1, h'.le1, h'.lc1) = (h.lb0, h.le0, h.lc0, h.lb1, h.le1, h.lc1)

/-- VL and VSTART read as before. -/
def SameVector (h h' : Hart) : Prop := h'.vl = h.vl ∧ h'.vstart = h.vstart

/-- Every scalar register outside the list reads as before. -/
def SameRegs (ds : List Reg) (h h' : Hart) : Prop := ∀ r, r ∉ ds → h'.reg r = h.reg r

/-! ## Scalar values (R75 to R78) -/

/-- A scalar register as a natural and as a signed number. -/
def nat (h : Hart) (r : Reg) : Int := ((h.reg r).toNat : Int)
def int (h : Hart) (r : Reg) : Int := (h.reg r).toInt

/-- An integer modulo 2^64. -/
def w (x : Int) : W64 := BitVec.ofInt 64 x

/-- Number of leading positions of a list that satisfy p. -/
def leading (p : Nat → Bool) (l : List Nat) : Int := ((l.takeWhile p).length : Int)

/-- The destination and the value of the scalar arithmetic and logic instructions, in integer arithmetic. -/
def aluResult (h : Hart) : Instr → Option (Reg × W64)
  | .addi d a imm => some (d, w (nat h a + imm.toInt))
  | .andi d a imm => some (d, h.reg a &&& w imm.toInt)
  | .ori d a imm => some (d, h.reg a ||| w imm.toInt)
  | .xori d a imm => some (d, h.reg a ^^^ w imm.toInt)
  | .slli d a n => some (d, w (nat h a * 2 ^ n.toNat))
  | .srli d a n => some (d, w (nat h a / 2 ^ n.toNat))
  | .srai d a n => some (d, w (int h a / 2 ^ n.toNat))
  | .slti d a imm => some (d, if int h a < imm.toInt then 1 else 0)
  | .sltin d a imm => some (d, if nat h a < imm.toInt % 2 ^ 64 then 1 else 0)
  | .movi d imm => some (d, w imm.toInt)
  | .add d a b => some (d, w (nat h a + nat h b))
  | .sub d a b => some (d, w (nat h a - nat h b))
  | .and d a b => some (d, h.reg a &&& h.reg b)
  | .or d a b => some (d, h.reg a ||| h.reg b)
  | .xor d a b => some (d, h.reg a ^^^ h.reg b)
  | .andn d a b => some (d, h.reg a &&& (h.reg b ^^^ BitVec.allOnes 64))
  | .sll d a b => some (d, w (nat h a * 2 ^ (nat h b % 64).toNat))
  | .srl d a b => some (d, w (nat h a / 2 ^ (nat h b % 64).toNat))
  | .sra d a b => some (d, w (int h a / 2 ^ (nat h b % 64).toNat))
  | .slt d a b => some (d, if int h a < int h b then 1 else 0)
  | .sltn d a b => some (d, if nat h a < nat h b then 1 else 0)
  | .min d a b => some (d, w (Min.min (int h a) (int h b)))
  | .max d a b => some (d, w (Max.max (int h a) (int h b)))
  | .minn d a b => some (d, w (Min.min (nat h a) (nat h b)))
  | .maxn d a b => some (d, w (Max.max (nat h a) (nat h b)))
  | .mul d a b => some (d, w (nat h a * nat h b))
  | .mulh d a b => some (d, w (int h a * int h b / 2 ^ 64))
  | .mulhn d a b => some (d, w (nat h a * nat h b / 2 ^ 64))
  | .div d a b => some (d, if int h b = 0 then w (-1) else w ((int h a).tdiv (int h b)))
  | .divn d a b => some (d, if nat h b = 0 then w (-1) else w (nat h a / nat h b))
  | .rem d a b => some (d, if int h b = 0 then h.reg a else w ((int h a).tmod (int h b)))
  | .remn d a b => some (d, if nat h b = 0 then h.reg a else w (nat h a % nat h b))
  | .clz d a => some (d, w (leading (fun j => !(h.reg a).getLsbD (63 - j)) (List.range 64)))
  | .ctz d a => some (d, w (leading (fun j => !(h.reg a).getLsbD j) (List.range 64)))
  | .popc d a => some (d, w (((List.range 64).countP fun j => (h.reg a).getLsbD j) : Int))
  | .mov d a => some (d, h.reg a)
  | .addw o => some (o.d, w (nat h o.a + o.ext.toInt))
  | .movw o => some (o.d, w o.ext.toInt)
  | .movhi o => some (o.d, w ((o.ext.toNat : Int) * 2 ^ 32 + nat h o.a % 2 ^ 32))
  | .sel o => some (o.d, if nat h (o.ext.extractLsb' 0 6) = 0 then h.reg o.b else h.reg o.a)
  | .bext o =>
    let pos := o.ext.toNat % 64
    let n := o.ext.toNat / 64 % 64 + 1
    let x := nat h o.a / 2 ^ pos % 2 ^ n
    some (o.d, if o.ext.getLsbD 12 && 2 ^ (n - 1) ≤ x then w (x - 2 ^ n) else w x)
  | .bins o =>
    let pos := o.ext.toNat % 64
    let n := o.ext.toNat / 64 % 64 + 1
    some (o.d, w (nat h o.a % 2 ^ pos + nat h o.b % 2 ^ n * 2 ^ pos + nat h o.a / 2 ^ (pos + n) * 2 ^ (pos + n)))
  | .movl o lit => some (o.d, w ((lit.toNat : Int) * 2 ^ 32 + o.ext.toNat))
  | .addl o lit => some (o.d, w (nat h o.a + (lit.toNat : Int) * 2 ^ 32 + o.ext.toNat))
  | .andl o lit => some (o.d, h.reg o.a &&& w ((lit.toNat : Int) * 2 ^ 32 + o.ext.toNat))
  | .orl o lit => some (o.d, h.reg o.a ||| w ((lit.toNat : Int) * 2 ^ 32 + o.ext.toNat))
  | .xorl o lit => some (o.d, h.reg o.a ^^^ w ((lit.toNat : Int) * 2 ^ 32 + o.ext.toNat))
  | _ => none

/-- The hart with register d written: full, without a poison mark; s0 stays zero and full (R65, R66, R68). -/
def wrote (h : Hart) (d : Reg) (v : W64) : Hart :=
  if d.toNat = 0 then h
  else
    { h with
      regs := h.regs.set d.toNat v d.isLt
      full := h.full ||| BitVec.twoPow 64 d.toNat
      poison := h.poison &&& ~~~BitVec.twoPow 64 d.toNat }

/-! ## Transfers (R84 to R91) -/

/-- The hart whose convoy leaves for t when it retires. -/
def leavesFor (h : Hart) (t : W64) : Hart := { h with conv := h.conv.map fun c => { c with target := some t } }

/-- The link: the sequential successor of the hart's convoy (R86). -/
def linkOf (h : Hart) : W64 := ((h.conv.map Conv.succ).getD 0)

/-- The transfer instructions: whether the link is written to s63, and the address they transfer to, if they do. -/
def transferOf (h : Hart) : Instr → Option (Bool × Option W64)
  | .nop => some (false, none)
  | .beqz a off => some (false, if nat h a = 0 then some (w (h.pc.toNat + 4 * off.toInt)) else none)
  | .bnez a off => some (false, if nat h a = 0 then none else some (w (h.pc.toNat + 4 * off.toInt)))
  | .j off => some (false, some (w (h.pc.toNat + 4 * off.toInt)))
  | .jal off => some (true, some (w (h.pc.toNat + 4 * off.toInt)))
  | .jr a imm => some (false, some (w (nat h a + imm.toInt)))
  | .jalr a imm => some (true, some (w (nat h a + imm.toInt)))
  | .bc o =>
    some (false, if condition o.d.toNat (int h o.a) (int h o.b) (nat h o.a) (nat h o.b)
      then some (w (h.pc.toNat + 4 * o.ext.toInt)) else none)
  | .jl o => some (true, some (w (h.pc.toNat + 4 * o.ext.toInt)))
  | .bcl o lit =>
    some (false, if condition o.d.toNat (int h o.a) lit.toInt (nat h o.a) (lit.toInt % 2 ^ 64)
      then some (w (h.pc.toNat + 4 * o.ext.toInt)) else none)
  | _ => none
where
  /-- cond(cc, x, y) of R85 on the signed and the natural operands. -/
  condition (cc : Nat) (x y : Int) (nx ny : Int) : Bool :=
    match cc with
    | 0 => x == y
    | 1 => x != y
    | 2 => x < y
    | 3 => y ≤ x
    | 4 => nx < ny
    | _ => ny ≤ nx

/-- The hart after a transfer instruction. -/
def transferred (h : Hart) (x : Bool × Option W64) : Hart :=
  let h1 := if x.1 then wrote h 63 (linkOf h) else h
  match x.2 with
  | some t => leavesFor h1 t
  | none => h1

/-- Loop level k with new registers: the addresses keep bits [51:2] (R74, R88). -/
def level (h : Hart) (k : Bool) (lb le lc : W64) : Hart :=
  let cut (x : W64) : W64 := x &&& 0x000FFFFFFFFFFFFC
  if k then { h with lb1 := cut lb, le1 := cut le, lc1 := lc } else { h with lb0 := cut lb, le0 := cut le, lc0 := lc }

/-- LOOP and LOOPL: the level, the offset in parcels and the count. -/
def loopOf (h : Hart) : Instr → Option (Bool × Nat × W64)
  | .loop k a off => some (k, off.toNat, h.reg a)
  | .loopl o lit => some (o.d.getLsbD 0, o.ext.toNat, lit.setWidth 64)
  | _ => none

end Sys2Proof.Claims

open Sys2Proof Sys2Proof.Machine Sys2Proof.Claims

/-! ## Scalar and control instructions -/

/-- R75, R76, R78 with R65 and R66: every scalar arithmetic and logic instruction completes wherever it runs, and writes
the value the tables give to its destination. A write to s0 is discarded. -/
def Obligations.ScalarResults : Prop :=
  ∀ (i : Instr) (s : State) (id : Nat) (h : Hart) (g : Gang) (d : Reg) (v : W64),
    Runs i s id h g → WellFormed i = true → aluResult h i = some (d, v) →
    Completes i s (finishedWith s id (wrote h d v))

/-- R77: division never traps; the edge cases of the table, for both quotients and remainders. -/
def Obligations.DivisionEdges : Prop :=
  ∀ (s : State) (id : Nat) (h : Hart) (g : Gang) (d a b : Reg), d ≠ 0 →
    (Runs (.div d a b) s id h g → ∃ h', Completes (.div d a b) s (finishedWith s id h') ∧
      (h.reg b = 0 → h'.reg d = -1) ∧
      (h.reg a = BitVec.intMin 64 → h.reg b = -1 → h'.reg d = BitVec.intMin 64) ∧
      (h.reg a = -7 → h.reg b = 2 → h'.reg d = -3)) ∧
    (Runs (.rem d a b) s id h g → ∃ h', Completes (.rem d a b) s (finishedWith s id h') ∧
      (h.reg b = 0 → h'.reg d = h.reg a) ∧
      (h.reg a = BitVec.intMin 64 → h.reg b = -1 → h'.reg d = 0) ∧
      (h.reg a = -7 → h.reg b = 2 → h'.reg d = -1)) ∧
    (Runs (.divn d a b) s id h g → ∃ h', Completes (.divn d a b) s (finishedWith s id h') ∧
      (h.reg b = 0 → h'.reg d = 0xFFFFFFFFFFFFFFFF) ∧
      (h.reg a = BitVec.ofInt 64 (2 ^ 64 - 7) → h.reg b = 2 → h'.reg d = 0x7FFFFFFFFFFFFFFC)) ∧
    (Runs (.remn d a b) s id h g → ∃ h', Completes (.remn d a b) s (finishedWith s id h') ∧
      (h.reg b = 0 → h'.reg d = h.reg a) ∧
      (h.reg a = BitVec.ofInt 64 (2 ^ 64 - 7) → h.reg b = 2 → h'.reg d = 1))

/-- R84 to R86 (with NOP, R50): a transfer instruction completes wherever it runs; it writes the link to s63 if it
links, and its convoy leaves for the target if the transfer is taken. JALR's target is formed from the old s63. R88,
R91: LOOP and LOOPL set the registers of their level to the successor, the end address and the count, and leave for the
body, or with a count of 0 for the end convoy's successor; LPSET restores the registers of its level. Addresses keep
bits [51:2]. -/
def Obligations.Transfers : Prop :=
  (∀ (i : Instr) (s : State) (id : Nat) (h : Hart) (g : Gang) (x : Bool × Option W64),
    Runs i s id h g → WellFormed i = true → transferOf h i = some x →
    Completes i s (finishedWith s id (transferred h x))) ∧
  ∀ (s : State) (id : Nat) (h : Hart) (g : Gang),
    (∀ (i : Instr) (k : Bool) (off : Nat) (count : W64), Runs i s id h g → loopOf h i = some (k, off, count) →
      let le := h.pc + BitVec.ofNat 64 (4 * off)
      (count ≠ 0 → Completes i s (finishedWith s id (leavesFor (level h k (linkOf h) le count) (linkOf h)))) ∧
      ∀ n, count = 0 → s.successorOf (s.agentOf h) le = some n →
        Completes i s (finishedWith s id (leavesFor (level h k (linkOf h) le 0) n))) ∧
    ∀ o : SForm, Runs (.lpset o) s id h g →
      Completes (.lpset o) s (finishedWith s id (level h (o.ext.getLsbD 0) (h.reg o.a) (h.reg o.b) (h.reg o.d)))

namespace Sys2Proof.Claims

/-! ## Control registers (R69 to R74) -/

/-- The bits of control register r that a write changes in a view; `none` where it changes none (R2, R70). MCHKLOG
(0x070), whose bits a write of 1 clears, is apart. -/
def cwrBits (view : Bool) : Nat → Option W64
  | 0x001 => some 0x3FFFF
  | 0x010 => some 0x3F
  | 0x011 => some 0xF
  | 0x012 => some 0x3
  | 0x020 => some 0x000FFFFFFFFFFFFC
  | 0x021 => some 0x000FFFFFFFFFFFFC
  | 0x022 => some (BitVec.allOnes 64)
  | 0x023 => some 0x000FFFFFFFFFFFFC
  | 0x024 => some 0x000FFFFFFFFFFFFC
  | 0x025 => some (BitVec.allOnes 64)
  | 0x041 => some 0x000FFFFFFFFFFFFC
  | 0x042 => some 0x3
  | 0x060 => some 0x3
  | 0x061 => some 0x7
  | 0x062 => some 0x7FF
  | 0x040 => if view then some 0x80000000000000FF else none
  | 0x043 => if view then some (BitVec.allOnes 64) else none
  | 0x044 => if view then some 0x03FFFFFFFFFFFFFC else none
  | 0x063 => if view then some 0xFF else none
  | 0x071 => if view then some 0x00FFFFFFFFC00000 else none
  | 0x072 => if view then some 0x7F else none
  | 0x080 => if view then some 0xC0000000000000FF else none
  | 0x081 => if view then some 0x000FFFFFFFFFFFFC else none
  | 0x082 => if view then some 0x3 else none
  | 0x083 => if view then some (BitVec.allOnes 64) else none
  | 0x084 => if view then some 0x000FFFFFFFFFFFFC else none
  | r => if view && 0x090 ≤ r && r < 0x0A0 then some 0xFFFFFFFF else none

/-- What control register r reads after a write of v over `old`. MODE (0x050) keeps its DET bit. -/
def afterCwr (view : Bool) (r : Nat) (old v : W64) : W64 :=
  if r = 0x070 then if view then old &&& ~~~v else old
  else if r = 0x050 then if view then (old &&& 2) ||| (v &&& 0x0001FFFF00000001) else old
  else
    match cwrBits view r with
    | some m => v &&& m
    | none => old

/-- The value of the registers that no CWR changes and that say who and where a hart is, what it holds and how its gang's
barrier stands: VL, VGRANT, VBASE, NACT, LSSIZE (R100), HARTID, LCID, CLID, DEVID, GANGID (R73) and GBAR (R272). -/
def identityOf (s : State) (h : Hart) (g : Gang) : Nat → Option Nat
  | 0x000 => some h.vl
  | 0x002 => some h.rows
  | 0x003 => some (h.slot * 1024 / g.h)
  | 0x004 => some (2 ^ 12 * g.h + 2 ^ 8 * g.g + g.na)
  | 0x006 => some (65536 * g.na)
  | 0x030 => some h.hartid
  | 0x031 => some (s.lcidOf g.first)
  | 0x032 => some (g.first / 24)
  | 0x033 => some s.dev.devid
  | 0x034 => some h.gangid
  | 0x035 => some (g.arr.toNat + 2 ^ 4 * g.live.toNat + 2 ^ 8 * g.phase.toNat)
  | _ => none

/-! ## Scalar loads and stores (R80 to R83) -/

/-- Destination, address, size and sign extension of a scalar load. -/
def loadOf (h : Hart) : Instr → Option (Reg × W64 × Nat × Bool)
  | .ld d a imm => some (d, h.reg a + imm.signExtend 64, 8, false)
  | .lds o => some (o.d, h.reg o.a + (o.ext.extractLsb' 0 24).signExtend 64, 2 ^ o.so.toNat, o.ext.getLsbD 24)
  | _ => none

/-- Address, size, value, order and scope of a scalar store. -/
def storeOf (h : Hart) : Instr → Option (W64 × Nat × W64 × Nat × Nat)
  | .st d a imm => some (h.reg a + imm.signExtend 64, 8, h.reg d, 0, 0)
  | .sts o =>
    some (h.reg o.a + (o.ext.extractLsb' 0 24).signExtend 64, 2 ^ o.so.toNat, h.reg o.d,
      (o.ext.extractLsb' 25 2).toNat, (o.ext.extractLsb' 27 3).toNat)
  | _ => none

/-- A number extended to 64 bits from n bytes. -/
def extend (sext : Bool) (n x : Nat) : W64 :=
  if sext && 2 ^ (8 * n - 1) ≤ x then BitVec.ofInt 64 ((x : Int) - 2 ^ (8 * n)) else BitVec.ofNat 64 x

/-- The hart with register d empty and the value v, or a poison mark with it, on its way to it (R66, R68); s0 takes nothing
(R65). -/
def awaits (h : Hart) (d : Reg) (v : W64) (poison : Bool := false) : Hart :=
  if d.toNat = 0 then h
  else
    { h with
      full := h.full &&& ~~~BitVec.twoPow 64 d.toNat
      poison := h.poison &&& ~~~BitVec.twoPow 64 d.toNat
      fills := h.fills ++ [⟨d, v, poison⟩] }

/-- Byte j of a number, little-endian (R1). -/
def byteOf (v : W64) (j : Nat) : Byte := BitVec.ofNat 8 (v.toNat / 256 ^ j)

/-- Why an access of n bytes fails, if it does: its alignment (R82), its translation (R222), or R224's checks of the leaf and
of what lies at its place. `scalar` is the size of a scalar access, 0 for any other. -/
def failureOf (s : State) (a : Agent) (va : W64) (n : Nat) (k : Access) (scalar : Nat) : Option Cause :=
  if va.toNat % n ≠ 0 then some .align
  else
    match s.translate a va with
    | none => some .dataXlate
    | some x =>
      let rd := x.leaf.getLsbD 5
      let wr := x.leaf.getLsbD 6 && !x.leaf.getLsbD 7
      let type := (x.leaf.extractLsb' 8 3).toNat
      if (k ≠ .store ∧ rd = false) ∨ (k ≠ .load ∧ wr = false) ∨ type = 1 ∨ (type = 2 ∧ scalar < 4) then some .dataProt
      else
        match s.home x.pa with
        | .absent => some .dataXlate
        | .ctrl off => if ctrlKnown off = false then some .dataXlate else if scalar < 4 ∨ a.view = false then some .dataProt else none
        | .remote => if 0x300000000000 ≤ x.pa % 2 ^ 46 then some .dataProt else none
        | _ => none

/-- The hart as its instruction has stopped its convoy with a cause, a value and an element (R366, R368). -/
def stoppedAt (h : Hart) (c : Cause) (tval : W64) (e : Option Nat) : Hart :=
  { h.advance with
    conv := h.conv.map fun v => { v with idx := v.idx + 1, stop := some ⟨v.idx, some c, tval, e, false⟩ } }

/-- Instruction i of hart id stops its convoy so, and does nothing else to the hart, the rows and memory. -/
def Stops (i : Instr) (s : State) (id : Nat) (h : Hart) (c : Cause) (tval : W64) (e : Option Nat) : Prop :=
  ∃ t, exec i s = .next t ∧ t.hartAt id = some (stoppedAt h c tval e) ∧ SameStores s t

/-- A row with bits [start, start + width) replaced. -/
def withField (r : Row) (start width v : Nat) : Row := { r with data := putBits r.data start width v }

end Sys2Proof.Claims

/-! ## Control registers, vector length -/

/-- R69 with R2, R70 and R130: CRD writes what the register reads to sd. R73, R100, R272: VL, VGRANT, VBASE, NACT,
LSSIZE and the identity registers and GBAR read the value of the hart, its gang, its core and the device, and LANEMAP the
core's present lanes, with the lowest NA/4 of them as those in use (R12, R20). CWR leaves in the register the bits its
fields take, and no other control register, no scalar register, no byte and no row changes. A CRD or CWR of FST, with no
matrix instruction of the hart queued, first takes the flags of those that have committed. -/
def Obligations.ControlRegisters : Prop :=
  ∀ (s : State) (id : Nat) (h : Hart) (g : Gang),
    (∀ (d : Reg) (r : BitVec 12) (n : Nat), Runs (.crd d r) s id h g → identityOf s h g r.toNat = some n →
      Completes (.crd d r) s (finishedWith s id (wrote h d (BitVec.ofNat 64 n)))) ∧
    (∀ (d : Reg), Runs (.crd d 0x005) s id h g → d ≠ 0 →
      ∃ v, Completes (.crd d 0x005) s (finishedWith s id (wrote h d v)) ∧
        ∀ j, j < 8 → v.getLsbD j = (s.coreAt g.first).lanes.getLsbD j ∧
          v.getLsbD (8 + j) = ((s.coreAt g.first).lanes.getLsbD j &&
            ((List.range j).countP fun i => (s.coreAt g.first).lanes.getLsbD i) < g.na / 4)) ∧
    (∀ (d : Reg) (r : BitVec 12), Runs (.crd d r) s id h g → (r = 0x010 → s.flagsPending id = false) →
      let h1 := if r = 0x010 then { h.raise h.mflags with mflags := 0 } else h
      Completes (.crd d r) s (finishedWith s id (wrote h1 d (s.ctlRead h1 g r.toNat)))) ∧
    ∀ (a : Reg) (r : BitVec 12), Runs (.cwr a r) s id h g → (r = 0x010 → s.flagsPending id = false) →
      ∃ t h', Completes (.cwr a r) s t ∧ t.hartAt id = some h' ∧ t.gangAt h'.gang = some g ∧
        t.ctlRead h' g r.toNat = afterCwr h.view r.toNat (s.ctlRead h g r.toNat) (h.reg a) ∧
        (∀ n, n ≠ r.toNat → t.ctlRead h' g n = s.ctlRead h g n) ∧ SameRegs [] h h' ∧ SameStores s t

/-- R105, R184, R189: SETVL sets VL to the smaller of sa and VLMAX, which is g times NA times the rows of the grant, clears
VSTART and returns VL; GANG reports the gang's shape; VGRANT sets the rows of the grant of every hart of the gang, between
1 and 1024 / h, and returns the new VLMAX; the other harts change in nothing else. -/
def Obligations.VectorLength : Prop :=
  ∀ (s : State) (id : Nat) (h : Hart) (g : Gang),
    (∀ d a : Reg, Runs (.setvl d a) s id h g →
      Completes (.setvl d a) s (finishedWith s id
        (wrote { h with vl := Min.min (h.reg a).toNat (g.g * g.na * h.rows), vstart := 0 } d
          (BitVec.ofNat 64 (Min.min (h.reg a).toNat (g.g * g.na * h.rows)))))) ∧
    (∀ o : SForm, Runs (.gang o) s id h g →
      Completes (.gang o) s (finishedWith s id (wrote h o.d
        (BitVec.ofNat 64 (h.gangid * 2 ^ 14 + g.na * 2 ^ 8 + g.g * 2 ^ 5 + g.h * 2 ^ 2 + h.slot))))) ∧
    ∀ o : SForm, Runs (.vgrant o) s id h g → s.gangBusy h.gang = false →
      let r := Min.min (Max.max (h.reg o.a).toNat 1) (1024 / g.h)
      ∃ t, Completes (.vgrant o) s t ∧ t.gangs = s.gangs ∧
        t.hartAt id = some { (wrote h o.d (BitVec.ofNat 64 (g.g * g.na * r))).advance with rows := r } ∧
        (∀ e h', e ≠ id → s.hartAt e = some h' →
          t.hartAt e = some (if h'.gang = h.gang then { h' with rows := r } else h')) ∧
        SameStores s t

/-! ## Scalar memory -/

/-- R80 to R83, R66: an aligned load whose address translates to memory or a local store, not held and not poisoned,
empties sd and sends it the bytes, extended; one whose address lies on another device empties sd and sends a request; a
load of control space sends the register's value. R237, R240: the bytes
are those at home, little-endian, when no store of the hart's own is on the way; and with one of its own to exactly
these bytes last on the way, the bytes of that store. R82, R222 to R224: a misaligned one stops with ALIGN, one that does
not translate with DATA_XLATE, one that R224 denies with DATA_PROT, value its address; R68: poisoned data marks sd. The
model's choices it rests on: log 12. -/
def Obligations.ScalarLoads : Prop :=
  (∀ (i : Instr) (s : State) (id : Nat) (h : Hart) (g : Gang) (d : Reg) (va : W64) (n : Nat) (sx : Bool) (c : Cause),
    Runs i s id h g → WellFormed i = true → loadOf h i = some (d, va, n, sx) →
    failureOf s (s.agentOf h) va n .load n = some c → Stops i s id h c va none) ∧
  (∀ (i : Instr) (s : State) (id : Nat) (h : Hart) (g : Gang) (d : Reg) (va : W64) (n : Nat) (sx : Bool) (pa : Nat),
    Runs i s id h g → WellFormed i = true → loadOf h i = some (d, va, n, sx) → va.toNat % n = 0 →
    s.access (s.agentOf h) va .load n = .ok pa → s.accessHeld id pa n = false →
    ((∃ a, s.home pa = .mem a) ∨ (∃ p off, s.home pa = .ls p off) → s.physPoison pa n = false →
      Completes i s (finishedWith (s.readTouch pa n) id (awaits h d (extend sx n (s.loadVal h pa n))))) ∧
    ((∃ a, s.home pa = .mem a) ∨ (∃ p off, s.home pa = .ls p off) → s.physPoison pa n = true →
      Completes i s (finishedWith (s.readTouch pa n) id (awaits h d va true))) ∧
    (s.home pa = .remote → h.det = false →
      ∃ t r, Completes i s t ∧ r ∈ t.remotes ∧ r.hart = id ∧ r.pa = pa ∧ r.op = .read n ∧ r.sext = sx ∧
        r.dest = some (d, va) ∧ r.answer = none ∧ t.hartAt id = some (h.empty d).advance ∧ SameStores s t) ∧
    ∀ off, s.home pa = .ctrl off →
      Completes i s (finishedWith s id (awaits h d (extend sx n (s.ctrlRead off n))))) ∧
  ∀ (s : State) (h : Hart) (pa n a : Nat), s.home pa = .mem a → h.buf = [] →
    (h.drain = [] → s.loadVal h pa n = leNat ((List.range n).map fun j => s.memByte (a + j))) ∧
    ∀ (before : List Drain) (d : Drain), d.pa = pa → d.bytes.length = n → h.drain = before ++ [d] →
      s.loadVal h pa n = leNat d.bytes

/-- R80 to R82, R235, R237, R242, R248: an aligned store whose address translates and that nothing holds. A plain store
to memory is queued with the hart until it drains; under MODE.DET a plain store that fits the commit buffer joins it. An
ordered store to memory, its hart settled, is performed at once: the stored bytes read as the value and every byte
elsewhere as before. A store to a local store changes that row's bits alone, one to another device goes out on its port,
one to control space is a write of the register. R82, R222 to R224: a misaligned one stops with ALIGN, one that does not
translate with DATA_XLATE, one that R224 denies with DATA_PROT, value its address. The model's choices it rests on: log
12. -/
def Obligations.ScalarStores : Prop :=
  (∀ (i : Instr) (s : State) (id : Nat) (h : Hart) (g : Gang) (va : W64) (n : Nat) (v : W64) (order scope : Nat) (c : Cause),
    Runs i s id h g → WellFormed i = true → storeOf h i = some (va, n, v, order, scope) →
    failureOf s (s.agentOf h) va n .store n = some c → Stops i s id h c va none) ∧
  ∀ (i : Instr) (s : State) (id : Nat) (h : Hart) (g : Gang) (va : W64) (n : Nat) (v : W64) (order scope : Nat) (pa : Nat),
    Runs i s id h g → WellFormed i = true → storeOf h i = some (va, n, v, order, scope) → va.toNat % n = 0 →
    s.access (s.agentOf h) va .store n = .ok pa → s.accessHeld id pa n = false → s.storeReserved pa n = false →
    (order = 0 → (∀ off, s.home pa ≠ .ctrl off) → h.go = false ∧ s.storeWaits id h pa = false) →
    (order ≠ 0 → s.settledFor id h scope = true ∧ s.pageMoving pa = false) →
    let bytes := (List.range n).map (byteOf v)
    (order = 0 → (∀ off, s.home pa ≠ .ctrl off) → h.det = true → s.fits h pa n = true →
      Completes i s (finishedWith s.bump id (s.bufStore h pa bytes))) ∧
    (∀ a, s.home pa = .mem a → order = 0 → h.det = false →
      Completes i s (finishedWith s.bump id { h with drain := h.drain ++ [⟨s.serial, false, pa, bytes⟩] })) ∧
    (∀ a, s.home pa = .mem a → order ≠ 0 → a % n = 0 → s.lines.length < 24576 →
      ∃ t, Completes i s t ∧ t.hartAt id = some h.advance ∧ (∀ j, j < n → t.memByte (a + j) = byteOf v j) ∧
        (∀ b, (∀ j, j < n → s.redirect b ≠ s.redirect (a + j)) → t.memByte b = s.memByte b) ∧
        ∀ k, t.rowAt k = s.rowAt k) ∧
    (∀ p off, s.home pa = .ls p off → (order = 0 → h.det = false) → s.upsets = [] →
      ∃ t, Completes i s t ∧ t.hartAt id = some h.advance ∧
        (∀ k, t.rowAt k = if k = s.lsRow p (off / 64)
          then withField (s.rowAt k) (8 * (off % 64)) (8 * n) (v.toNat % 2 ^ (8 * n)) else s.rowAt k) ∧
        ∀ a, t.memByte a = s.memByte a) ∧
    (s.home pa = .remote → (order = 0 → h.det = false) → s.linksDown.getLsbD (s.portOf pa) = false →
      ∃ t, Completes i s t ∧ t.hartAt id = some h.advance ∧ t.outbox = s.outbox ++ [⟨s.portOf pa, pa, bytes⟩] ∧
        SameStores s t) ∧
    ∀ off, s.home pa = .ctrl off → s.gatesRegion h off n (v.toNat % 2 ^ (8 * n)) = false → (h.det = true → h.go = true) →
      s.settledFor id h 4 = true →
      Completes i s (finished (s.ctrlWrite (.device (h.gate 2)) off n (v.toNat % 2 ^ (8 * n))) id)

/-- R233, R242: a prefetch changes no byte, no row and no register while the slices have room. A write-back leaves each
line it covers of the CXL.mem range written back, with .inv dropped too; without .inv no byte that is read changes; the
hart changes only by the write-backs on their way. A FENCE completes once the hart's earlier accesses of its earlier set
are performed. The model's choices it rests on: log 7, 12, 58. -/
def Obligations.OrderAndHints : Prop :=
  ∀ (s : State) (id : Nat) (h : Hart) (g : Gang),
    (∀ o : SForm, Runs (.pref o) s id h g →
      ∃ t, Completes (.pref o) s t ∧ t.hartAt id = some h.advance ∧
        (s.lines.length + (linesOf (h.reg o.a) (h.reg o.b).toNat).length ≤ 24576 → SameStores s t)) ∧
    (∀ o : SForm, Runs (.cwb o) s id h g → h.drain = [] → s.atoms = [] →
      (∀ va ∈ linesOf (h.reg o.a) (h.reg o.b).toNat, ∃ pa, s.access (s.agentOf h) va .writeback 0 = .ok pa) →
      ∃ t h', Completes (.cwb o) s t ∧ t.hartAt id = some h' ∧ { h' with drain := [] } = h.advance ∧
        (∀ k, t.rowAt k = s.rowAt k) ∧ (o.ext.getLsbD 0 = false → ∀ a, t.memByte a = s.memByte a) ∧
        ∀ va ∈ linesOf (h.reg o.a) (h.reg o.b).toNat, ∀ pa n, s.access (s.agentOf h) va .writeback 0 = .ok pa →
          s.cxlLine pa = some n →
          (∀ l, SMap.find s.lines n = some l → l.dirty = true → ∀ j, j < 64 → SMap.getD t.mem (64 * n + j) 0 = l.byte j) ∧
          (o.ext.getLsbD 0 = true → SMap.find t.lines n = none) ∧
          ∀ l, SMap.find t.lines n = some l → l.dirty = false) ∧
    ∀ imm : BitVec 12, Runs (.fence imm) s id h g →
      (imm.getLsbD 4 = true → s.storesDone id h (imm.extractLsb' 0 3).toNat = true ∧ s.sending h = false) →
      (imm.getLsbD 3 = true → s.remoteOut id true = false ∧ s.acquiring id h = false) →
      Completes (.fence imm) s (finished s id)


namespace Sys2Proof.Claims

/-! ## What an instruction does to every element (R102, R135, R168) -/

/-- No soft error is outstanding in any array (R99). -/
abbrev Sound (s : State) : Prop := s.upsets = [] ∧ s.badRows = []

/-- The elements below VL lie in different rows (R22, `DistinctRows`). -/
abbrev Apart (s : State) (h : Hart) (g : Gang) : Prop := ((List.range h.vl).map (s.elemKey g h.slot)).Nodup

/-- active(i) of R8 and act(i) of R102: below VL, from VSTART on, and taken by the mask. -/
def active (s : State) (h : Hart) (g : Gang) (m : Mask) (e : Nat) : Bool :=
  decide (e < h.vl) && s.maskAt m (s.elemKey g h.slot e)
def acts (s : State) (h : Hart) (g : Gang) (m : Mask) (e : Nat) : Bool := decide (h.vstart ≤ e) && active s h g m e

/-- The elements with act(i), ascending. -/
def acted (s : State) (h : Hart) (g : Gang) (m : Mask) : List Nat := (List.range h.vl).filter fun e => acts s h g m e

/-- Every word of the fields is full in every active element. -/
abbrev ReadsFull (s : State) (h : Hart) (g : Gang) (m : Mask) (fs : List (BitVec 15)) : Prop :=
  ∀ e ∈ List.range h.vl, active s h g m e = true → ∀ x ∈ fs.flatMap Fld.words,
    (s.rowAt (s.elemKey g h.slot e)).full.getLsbD x = true

/-- No matrix engine still reads the words in an element that is written (R205). -/
abbrev Unreserved (s : State) (h : Hart) (g : Gang) (es : List Nat) (ws : List Nat) : Prop :=
  ∀ e ∈ es, s.reserved (s.elemKey g h.slot e) ws = false

/-- What an instruction does in one element: the fields it reads, the fields and the tag it writes with their values
from the element's row, and the flags it raises. -/
structure Lane where
  mask : Mask
  reads : List (BitVec 15)
  writes : Nat → Row → List (BitVec 15 × Nat)
  tag : Row → Option (Tag × Bool)
  flags : Nat → Row → BitVec 6

/-- A row with tag t set to b. -/
def withTag (r : Row) (t : Tag) (b : Bool) : Row :=
  { r with tags := if b then r.tags ||| BitVec.twoPow 8 t.toNat else r.tags &&& ~~~BitVec.twoPow 8 t.toNat }

/-- The row of an element after the instruction: full/empty bits stay (R96). -/
def Lane.apply (l : Lane) (e : Nat) (r : Row) : Row :=
  let r1 := (l.writes e r).foldl (fun r x => withField r (Fld.start x.1) (Fld.width x.1) x.2) r
  match l.tag r with
  | some (t, b) => withTag r1 t b
  | none => r1

/-- The words an instruction's field writes touch. -/
def Lane.touched (l : Lane) : List Nat := ((l.writes 0 Row.clear).map fun x => Fld.words x.1).flatten

/-- `t` is `s` with the instruction done to every element that acts, and to nothing else: every other row, every byte of
memory and the hart's registers stay; the flags of the elements join FST. -/
def LaneDone (l : Lane) (s : State) (id : Nat) (h : Hart) (g : Gang) (t : State) : Prop :=
  (∀ e ∈ acted s h g l.mask, t.rowAt (s.elemKey g h.slot e) = l.apply e (s.rowAt (s.elemKey g h.slot e))) ∧
  (∀ k, (∀ e ∈ acted s h g l.mask, s.elemKey g h.slot e ≠ k) → t.rowAt k = s.rowAt k) ∧
  (∀ a, t.memByte a = s.memByte a) ∧
  t.hartAt id = some (h.raise ((acted s h g l.mask).foldl
    (fun f e => f ||| l.flags e (s.rowAt (s.elemKey g h.slot e))) 0)).advance

/-- Every instruction that `lane` knows completes wherever it runs with its sources full, and does what its lane says. -/
def LanesComplete (lane : State → Hart → Gang → Instr → Option Lane) : Prop :=
  ∀ (i : Instr) (s : State) (id : Nat) (h : Hart) (g : Gang) (l : Lane),
    Runs i s id h g → WellFormed i = true → lane s h g i = some l → Sound s → Apart s h g →
    ReadsFull s h g l.mask l.reads → Unreserved s h g (acted s h g l.mask) l.touched →
    ∃ t, Completes i s t ∧ LaneDone l s id h g t

/-! ## Tags (R107, R112, R141, R174) -/

/-- A tag write. -/
def tagLane (m : Mask) (reads : List (BitVec 15)) (t : Tag) (f : Row → Bool) : Lane :=
  ⟨m, reads, fun _ _ => [], fun r => some (t, f r), fun _ _ => 0⟩

/-- Bit t of a row's tags. -/
def tagBit (r : Row) (t : Tag) : Bool := r.tags.getLsbD t.toNat

/-- cond(cc, x, y) on values in order (R141). -/
def ordered (cc : Nat) (x y : Int) : Bool :=
  match cc with
  | 0 => x == y
  | 1 => x != y
  | 2 => x < y
  | 3 => x ≤ y
  | 4 => y < x
  | _ => y ≤ x

/-- A comparison of two patterns of a type: a NaN compares unequal and not ordered, the zeros compare equal (R141). -/
def compared (v : VForm) (a b : Nat) : Bool :=
  if isInt v.ty then ordered v.cc (ival v.ty (Fld.width v.A) a) (ival v.ty (Fld.width v.A) b)
  else if (fmtOf v.ty).isNan a || (fmtOf v.ty).isNan b then v.cc == 1
  else ordered v.cc ((fmtOf v.ty).keyEq a) ((fmtOf v.ty).keyEq b)

/-- The combination of a match bit with the tag's old value (R107). -/
def combined (cmb : Nat) (old hit : Bool) : Bool :=
  match cmb with
  | 0 => hit
  | 1 => old && hit
  | 2 => old || hit
  | _ => old && !hit

/-- A search: every bit of the field that is cared for equals the key's (R107). -/
def matching (o : SForm) (key care : Nat) (r : Row) : Bool :=
  (List.range (Fld.width o.fld)).all fun j =>
    !care.testBit j || (r.data.getLsbD (Fld.start o.fld + j) == key.testBit j)

/-- The instructions that write one tag from the element's own row. -/
def tagged (h : Hart) : Instr → Option Lane
  | .tand td ta tb m => some (tagLane m [] td fun r => tagBit r ta && tagBit r tb)
  | .tor td ta tb m => some (tagLane m [] td fun r => tagBit r ta || tagBit r tb)
  | .txor td ta tb m => some (tagLane m [] td fun r => tagBit r ta != tagBit r tb)
  | .tandn td ta tb m => some (tagLane m [] td fun r => tagBit r ta && !tagBit r tb)
  | .tnot td ta m => some (tagLane m [] td fun r => !tagBit r ta)
  | .tmov td ta m => some (tagLane m [] td fun r => tagBit r ta)
  | .tset td m => some (tagLane m [] td fun _ => true)
  | .tclr td m => some (tagLane m [] td fun _ => false)
  | .asrch o =>
    let td : Tag := o.ext.extractLsb' 15 3
    some (tagLane o.mask [o.fld] td fun r =>
      combined (o.ext.extractLsb' 18 2).toNat (tagBit r td) (matching o (h.reg o.a).toNat (h.reg o.b).toNat r))
  | .asrchl o =>
    let td : Tag := o.ext.extractLsb' 15 3
    some (tagLane o.mask [o.fld] td fun r =>
      combined (o.ext.extractLsb' 18 2).toNat (tagBit r td) (matching o o.lit16 (2 ^ 64 - 1) r))
  | .vcmp v =>
    some (tagLane v.m (if v.bm = 0 then [v.A, v.B] else [v.A]) v.dTag fun r =>
      compared v (r.fld v.A) (bval v h r (Fld.width v.A)))
  | .fcmp v =>
    some (tagLane v.m (if v.x.getLsbD 0 then [v.A] else [v.A, v.B]) v.dTag fun r => compared v (r.fld v.A) (pipeB v h r))
  | _ => none

/-! ## Arithmetic (R137 to R145, R158, R159) -/

/-- A field result. -/
def fieldLane (m : Mask) (reads : List (BitVec 15)) (d : BitVec 15) (f : Row → Nat × BitVec 6) : Lane :=
  ⟨m, reads, fun _ r => [(d, (f r).1)], fun _ => none, fun _ r => (f r).2⟩

/-- An exact integer in a field of width n: modulo 2^n, or clamped to the range with SAT raised where the clamp changed
it (R134). -/
def fits (sat : Bool) (ty n : Nat) (x : Int) : Nat × BitVec 6 :=
  let lo : Int := if ty = 1 then -2 ^ (n - 1) else 0
  let hi : Int := if ty = 1 then 2 ^ (n - 1) - 1 else 2 ^ n - 1
  if sat && x < lo then ((lo % 2 ^ n).toNat, 32)
  else if sat && hi < x then ((hi % 2 ^ n).toNat, 32)
  else ((x % 2 ^ n).toNat, 0)

/-- An operation on A and B, on exact integers for an integer type, on exact floating values otherwise. -/
def twoLane (v : VForm) (h : Hart) (sat : Bool) (f : Int → Int → Int) (q : FVal → FVal → FVal × BitVec 6) : Lane :=
  fieldLane v.m (if v.bm = 0 then [v.A, v.B] else [v.A]) v.D fun r =>
    let a := r.fld v.A
    let b := bval v h r (Fld.width v.A)
    if isInt v.ty then fits sat v.ty (Fld.width v.D) (f (ival v.ty (Fld.width v.A) a) (ival v.ty (Fld.width v.A) b))
    else (fmtOf v.ty).result 0 h.fz (q ((fmtOf v.ty).input h.fz a) ((fmtOf v.ty).input h.fz b))

/-- An operation on A alone; a floating type changes the sign only, and a NaN gives the canonical NaN (R139). -/
def oneLane (v : VForm) (sat : Bool) (f : Int → Int) (sign : Bool → Bool) : Lane :=
  fieldLane v.m [v.A] v.D fun r =>
    let a := r.fld v.A
    let t := fmtOf v.ty
    if isInt v.ty then fits sat v.ty (Fld.width v.D) (f (ival v.ty (Fld.width v.A) a))
    else if t.isNan a then (t.nan, 0) else (t.signed (sign (t.sign a)) (t.mag a), 0)

/-- The smaller or larger of A and B: a NaN gives the canonical NaN, and -0 lies below +0 (R139). -/
def pickLane (v : VForm) (max : Bool) (reads : List (BitVec 15)) (bv : Row → Nat) : Lane :=
  fieldLane v.m reads v.D fun r =>
    let a := r.fld v.A
    let b := bv r
    let t := fmtOf v.ty
    let first (x y : Int) : Bool := if max then y < x else x ≤ y
    if isInt v.ty then (if first (ival v.ty (Fld.width v.A) a) (ival v.ty (Fld.width v.A) b) then a else b, 0)
    else if t.isNan a || t.isNan b then (t.nan, 0)
    else (if first (t.key a) (t.key b) then a else b, 0)

/-- A bit by bit operation. -/
def bitLane (v : VForm) (h : Hart) (f : Bool → Bool → Bool) : Lane :=
  fieldLane v.m (if v.bm = 0 then [v.A, v.B] else [v.A]) v.D fun r =>
    (((List.range (Fld.width v.A)).map fun j =>
      if f ((r.fld v.A).testBit j) ((bval v h r (Fld.width v.A)).testBit j) then 2 ^ j else 0).sum, 0)

/-- The count of a shift, from the whole register or the immediate (R133, R140). -/
def countOf (v : VForm) (h : Hart) : Nat := if v.bm = 1 then (h.reg v.bReg).toNat else v.x.toNat

/-- The quotient or the remainder of R142. -/
def divided (v : VForm) (a b : Int) : Int :=
  if v.fn4.getLsbD 2 then (if b = 0 then a else a.tmod b)
  else if b = 0 then (if v.ty = 1 then -1 else 2 ^ Fld.width v.A - 1) else a.tdiv b

/-- The associative arithmetic and the similarity instructions. -/
def arith (s : State) (h : Hart) (g : Gang) : Instr → Option Lane
  | .vadd v => some (twoLane v h false (· + ·) (FVal.add 0))
  | .vsub v => some (twoLane v h false (· - ·) fun a b => a.add 0 b.neg)
  | .vadds v => some (twoLane v h true (· + ·) (FVal.add 0))
  | .vsubs v => some (twoLane v h true (· - ·) fun a b => a.add 0 b.neg)
  | .vmul v => some (twoLane v h (v.fn4.getLsbD 2) (· * ·) FVal.mul)
  | .vmull v => some (twoLane v h false (· * ·) FVal.mul)
  | .vabsd v => some (twoLane v h false (fun x y => (x - y).natAbs) FVal.mul)
  | .vdiv v => some (twoLane v h false (divided v) FVal.mul)
  | .vmac v =>
    some (fieldLane v.m ((if v.bm = 0 then [v.A, v.B] else [v.A]) ++ [v.D]) v.D fun r =>
      let a := r.fld v.A
      let b := bval v h r (Fld.width v.A)
      let t := fmtOf v.ty
      if isInt v.ty then
        fits (v.fn4.getLsbD 2) v.ty (Fld.width v.D)
          (ival v.ty (Fld.width v.D) (r.fld v.D) + ival v.ty (Fld.width v.A) a * ival v.ty (Fld.width v.A) b)
      else t.result 0 h.fz ((t.input h.fz a).fma 0 (t.input h.fz b) (t.input h.fz (r.fld v.D))))
  | .vmulh v =>
    some ⟨v.m, if v.bm = 0 then [v.A, v.B] else [v.A], fun _ r =>
      let n := Fld.width v.A
      let p := ival v.ty n (r.fld v.A) * ival v.ty n (bval v h r n)
      [(v.D, (p / 2 ^ n % 2 ^ n).toNat), (v.fC, (p % 2 ^ n).toNat)], fun _ => none, fun _ _ => 0⟩
  | .vneg v => some (oneLane v (v.fn4.getLsbD 2) (fun x => -x) not)
  | .vabs v => some (oneLane v (v.fn4.getLsbD 2) (fun x => x.natAbs) fun _ => false)
  | .vmin v => some (pickLane v false (if v.bm = 0 then [v.A, v.B] else [v.A]) fun r => bval v h r (Fld.width v.A))
  | .vmax v => some (pickLane v true (if v.bm = 0 then [v.A, v.B] else [v.A]) fun r => bval v h r (Fld.width v.A))
  | .vand v => some (bitLane v h (· && ·))
  | .vor v => some (bitLane v h (· || ·))
  | .vxor v => some (bitLane v h (· != ·))
  | .vnot v => some (fieldLane v.m [v.A] v.D fun r => (2 ^ Fld.width v.A - 1 - r.fld v.A, 0))
  | .vshl v =>
    some (fieldLane v.m [v.A] v.D fun r =>
      fits (v.fn4.getLsbD 2) v.ty (Fld.width v.D)
        (ival v.ty (Fld.width v.A) (r.fld v.A) * 2 ^ Min.min (countOf v h) (Fld.width v.A)))
  | .vshr v =>
    some (fieldLane v.m [v.A] v.D fun r => (r.fld v.A / 2 ^ Min.min (countOf v h) (Fld.width v.A), 0))
  | .vsra v =>
    some (fieldLane v.m [v.A] v.D fun r =>
      fits false v.ty (Fld.width v.D) (ival v.ty (Fld.width v.A) (r.fld v.A) / 2 ^ Min.min (countOf v h) (Fld.width v.A)))
  | .vsel v =>
    some (fieldLane v.m (if v.bm = 0 then [v.A, v.B] else [v.A]) v.D fun r =>
      (if tagBit r (v.x.extractLsb' 0 3) then r.fld v.A else bval v h r (Fld.width v.A), 0))
  | .vmov v =>
    some (fieldLane v.m (if v.bm = 0 then [v.A] else []) v.D fun r =>
      (if v.bm = 0 then r.fld v.A else bval v h r (Fld.width v.D), 0))
  | .vpopc v =>
    some (fieldLane v.m [v.A] v.D fun r => (((List.range 64).countP fun j => (r.fld v.A).testBit j) % 2 ^ Fld.width v.D, 0))
  | .vsimh v =>
    some (fieldLane v.m [v.A] v.D fun r =>
      let same (j : Nat) : Bool := (r.fld v.A).testBit j == (h.reg v.bReg).getLsbD j
      (((List.range (Fld.width v.A)).countP fun j => same j != v.fn4.getLsbD 0) % 2 ^ Fld.width v.D, 0))
  | .vsimd v =>
    some (fieldLane v.m [v.A] v.D fun r =>
      let e := 2 ^ v.bm
      let part (x l : Nat) : Int := ival v.ty e (x / 2 ^ (e * l) % 2 ^ e)
      ((((List.range (Fld.width v.A / e)).map fun l => part (r.fld v.A) l * part (h.reg v.bReg).toNat l).sum %
        2 ^ Fld.width v.D).toNat, 0))
  | .vcvt v =>
    if v.xb 4 0 = 7 then
      some ⟨v.m, [v.A], fun e r =>
        [(v.D, ((bfpValue (Fld.width v.A) (r.fld v.A) (s.rowAt (s.elemKey g h.slot (32 * (e / 32)))).scale).convert v.ty
          (Fld.width v.D) (rmOf v.fn h.rm) h.fz (v.x.getLsbD 5)).1)], fun _ => none,
        fun e r => ((bfpValue (Fld.width v.A) (r.fld v.A) (s.rowAt (s.elemKey g h.slot (32 * (e / 32)))).scale).convert v.ty
          (Fld.width v.D) (rmOf v.fn h.rm) h.fz (v.x.getLsbD 5)).2⟩
    else
      some (fieldLane v.m [v.A] v.D fun r =>
        convertBits v.ty (Fld.width v.D) (v.xb 4 0) (Fld.width v.A) (rmOf v.fn h.rm) h.fz (v.x.getLsbD 5) (r.fld v.A))
  | _ => none

/-! ## The element pipe (R173 to R179) -/

/-- B of an instruction of the pipe: a field or a broadcast register. -/
def pipeReads (v : VForm) : List (BitVec 15) := if v.x.getLsbD 0 then [v.A] else [v.A, v.B]

/-- An operation of two exact values, rounded once in the mode of the instruction (R171). -/
def pipeLane (v : VForm) (h : Hart) (reads : List (BitVec 15)) (f : Row → FVal × BitVec 6) : Lane :=
  fieldLane v.m reads v.D fun r => (fmtOf v.ty).result (rmOf v.fn h.rm) h.fz (f r)

/-- The element pipe and the special functions. -/
def pipe (_ : State) (h : Hart) (_ : Gang) : Instr → Option Lane
  | .fadd v => some (pipeLane v h (pipeReads v) fun r => (x v h (r.fld v.A)).add (rmOf v.fn h.rm) (x v h (pipeB v h r)))
  | .fsub v =>
    some (pipeLane v h (pipeReads v) fun r => (x v h (r.fld v.A)).add (rmOf v.fn h.rm) (x v h (pipeB v h r)).neg)
  | .fmul v => some (pipeLane v h (pipeReads v) fun r => (x v h (r.fld v.A)).mul (x v h (pipeB v h r)))
  | .fdiv v => some (pipeLane v h (pipeReads v) fun r => (x v h (r.fld v.A)).div (x v h (pipeB v h r)))
  | .fsqrt v => some (pipeLane v h [v.A] fun r => (x v h (r.fld v.A)).sqrt)
  | .ffma v =>
    some (pipeLane v h [v.A, v.B, v.fC] fun r =>
      (x v h (r.fld v.A)).fma (rmOf v.fn h.rm) (x v h (r.fld v.B)) (x v h (r.fld v.fC)))
  | .ffms v =>
    some (pipeLane v h [v.A, v.B, v.fC] fun r =>
      (x v h (r.fld v.A)).fma (rmOf v.fn h.rm) (x v h (r.fld v.B)) (x v h (r.fld v.fC)).neg)
  | .fmin v => some (pickLane v false (pipeReads v) (pipeB v h))
  | .fmax v => some (pickLane v true (pipeReads v) (pipeB v h))
  | .fabs v => some (signLane v fun _ => false)
  | .fneg v => some (signLane v not)
  | .fcvt v =>
    some (fieldLane v.m [v.A] v.D fun r =>
      convertBits v.ty (Fld.width v.D) (v.xb 4 0) (Fld.width v.A) (rmOf v.fn h.rm) h.fz (v.x.getLsbD 5) (r.fld v.A))
  | .frcp v => some (special v h 0 false)
  | .frsq v => some (special v h 1 false)
  | .fexp2 v => some (special v h 2 false)
  | .flog2 v => some (special v h 3 false)
  | .fsin v => some (special v h 4 (v.fn4.getLsbD 0))
  | .fcos v => some (special v h 5 (v.fn4.getLsbD 0))
  | .ftanh v => some (special v h 6 false)
  | .fsig v => some (special v h 7 false)
  | .ferf v => some (special v h 8 false)
  | _ => none
where
  /-- A pattern as an input: subnormals are zeros while FRM.FZ is in force (R125). -/
  x (v : VForm) (h : Hart) (n : Nat) : FVal := (fmtOf v.ty).input h.fz n
  /-- A change of sign. -/
  signLane (v : VForm) (sign : Bool → Bool) : Lane :=
    fieldLane v.m [v.A] v.D fun r =>
      let t := fmtOf v.ty
      if t.isNan (r.fld v.A) then (t.nan, 0) else (t.signed (sign (t.sign (r.fld v.A))) (t.mag (r.fld v.A)), 0)
  /-- A special function (R177 to R179); within its bounds the value is the machine's (log entry of `Config.sfuUpper`). -/
  special (v : VForm) (h : Hart) (code : Nat) (fast : Bool) : Lane :=
    fieldLane v.m [v.A] v.D fun r => Sfu.run v.ty code h.fz fast (r.fld v.A)

end Sys2Proof.Claims

/-! ## Tags, associative arithmetic, the element pipe -/

/-- R107, R112, R141, R174: the tag instructions, the searches and the compares write their tag in every element that
acts, from the element's own row, and change nothing else. -/
def Obligations.TagResults : Prop := LanesComplete fun _ h _ => tagged h

/-- R135, R137 to R143, R158, R159: the elementwise associative instructions write D (VMULH also C) in every element
that acts, from the element's row as it stood, raise the flags of those elements, and change nothing else. -/
def Obligations.VectorArithmetic : Prop :=
  ∀ (i : Instr) (s : State) (id : Nat) (h : Hart) (g : Gang) (l : Lane),
    Runs i s id h g → WellFormed i = true → arith s h g i = some l → Sound s → Apart s h g →
    ReadsFull s h g l.mask l.reads → Unreserved s h g (acted s h g l.mask) l.touched →
    (∀ v, i = .vcvt v → v.xb 4 0 = 7 → s.scalesFull h g (s.activeEls h g v.m) = true) →
    ∃ t, Completes i s t ∧ LaneDone l s id h g t

/-- R168 to R173, R176 to R179: the instructions of the element pipe and the special-function pipe write D in every
element that acts, rounded once, raise the flags of those elements, and change nothing else. The model's choices it
rests on: log 20, 32 (which neighbour an FP32 special function gives is free). -/
def Obligations.ElementPipe : Prop := LanesComplete pipe

namespace Sys2Proof.Claims

/-- The active elements, ascending (R8). -/
def actives (s : State) (h : Hart) (g : Gang) (m : Mask) : List Nat := (List.range h.vl).filter fun e => active s h g m e

/-- VSTAT.EMPTY set to b (R71). -/
def emptyIs (h : Hart) (b : Bool) : Hart := { h with vstat := (h.vstat &&& 2) ||| if b then 1 else 0 }

/-- The rows of the listed elements become f of themselves; every other row, every byte of memory stays. -/
def RowsBecome (s t : State) (h : Hart) (g : Gang) (es : List Nat) (f : Nat → Row → Row) : Prop :=
  (∀ e ∈ es, t.rowAt (s.elemKey g h.slot e) = f e (s.rowAt (s.elemKey g h.slot e))) ∧
  (∀ k, (∀ e ∈ es, s.elemKey g h.slot e ≠ k) → t.rowAt k = s.rowAt k) ∧ ∀ a, t.memByte a = s.memByte a

/-- The row of an element. -/
def rowOf (s : State) (h : Hart) (g : Gang) (e : Nat) : Row := s.rowAt (s.elemKey g h.slot e)

/-- A tag instruction that counts: its mask, destination, tag and the count over the active elements that bear it. -/
def counting (h : Hart) : Instr → Option (Mask × Reg × Tag × (List Nat → Nat))
  | .tcnt d ta m => some (m, d, ta, fun l => l.length)
  | .tany d ta m => some (m, d, ta, fun l => if l = [] then 0 else 1)
  | .tfirst d ta m => some (m, d, ta, fun l => l.headD h.vl)
  | _ => none

/-- A tag instruction that moves bits between elements: mask, destination, and the bit element e receives. -/
def moving (s : State) (h : Hart) (g : Gang) : Instr → Option (Mask × Tag × (Nat → Bool))
  | .tshup o =>
    let n := (h.reg o.a).toNat
    some (o.mask, o.ext.extractLsb' 15 3, fun e =>
      if n ≤ e then tagBit (rowOf s h g (e - n)) (o.ext.extractLsb' 0 3) else o.ext.getLsbD 18)
  | .tshdn o =>
    let n := (h.reg o.a).toNat
    some (o.mask, o.ext.extractLsb' 15 3, fun e =>
      if e + n < h.vl then tagBit (rowOf s h g (e + n)) (o.ext.extractLsb' 0 3) else o.ext.getLsbD 18)
  | .tpick td ta a m =>
    let set := (actives s h g m).filter fun e => tagBit (rowOf s h g e) ta
    some (m, td, fun e => (set.take (h.reg a).toNat).contains e)
  | _ => none

/-- A tagged write: the value and the bits of it that are written (R108). -/
def writing (h : Hart) : Instr → Option (SForm × Nat × Nat)
  | .awr o => some (o, (h.reg o.a).toNat, (h.reg o.b).toNat)
  | .awrl o => some (o, o.lit16, 2 ^ 64 - 1)
  | _ => none

/-- Bit j of a row after a tagged write of field f. -/
def writtenBit (r : Row) (f : BitVec 15) (val sel j : Nat) : Bool :=
  if Fld.start f ≤ j && j < Fld.start f + Fld.width f && sel.testBit (j - Fld.start f)
  then val.testBit (j - Fld.start f) else r.data.getLsbD j

/-- A row after one microword (R117): its pass on the row. -/
def afterPass (sa sb m : W64) (r : Row) : Row :=
  let e := uwordRow sa sb m r
  let r1 := e.writes.foldl (fun r x => withField r x.1 x.2.1 x.2.2) r
  match e.tag with
  | some (t, b) => withTag r1 t b
  | none => r1

end Sys2Proof.Claims

/-- R71, R113: TCNT, TANY and TFIRST send their result to sd, record in VSTAT.EMPTY whether no element is active, and
change nothing else. -/
def Obligations.TagCounts : Prop :=
  ∀ (i : Instr) (s : State) (id : Nat) (h : Hart) (g : Gang) (m : Mask) (d : Reg) (ta : Tag) (f : List Nat → Nat),
    Runs i s id h g → Sound s → counting h i = some (m, d, ta, f) →
    Completes i s (finishedWith s id (awaits (emptyIs h (actives s h g m == [])) d
      (BitVec.ofNat 64 (f ((actives s h g m).filter fun e => tagBit (rowOf s h g e) ta)))))

/-- R110, R114: TSHUP, TSHDN and TPICK give every element that acts its bit, read from the rows as they stood before any
was written, and change nothing else. -/
def Obligations.TagMoves : Prop :=
  ∀ (i : Instr) (s : State) (id : Nat) (h : Hart) (g : Gang) (m : Mask) (td : Tag) (f : Nat → Bool),
    Runs i s id h g → Sound s → Apart s h g → moving s h g i = some (m, td, f) →
    ∃ t, Completes i s t ∧ RowsBecome s t h g (acted s h g m) (fun e r => withTag r td (f e)) ∧
      t.hartAt id = some h.advance

/-- R108: AWR and AWRL write the selected bits of F in every element that acts, then mark the words of F full, empty or
not at all as ext[19:18] says, and change nothing else. -/
def Obligations.TaggedWrites : Prop :=
  ∀ (i : Instr) (s : State) (id : Nat) (h : Hart) (g : Gang) (o : SForm) (val sel : Nat),
    Runs i s id h g → WellFormed i = true → Sound s → Apart s h g → writing h i = some (o, val, sel) →
    Unreserved s h g (acted s h g o.mask) (Fld.words o.fld) →
    ∃ t, Completes i s t ∧ t.hartAt id = some h.advance ∧
      (∀ e ∈ acted s h g o.mask,
        (∀ j, j < 512 → (rowOf t h g e).data.getLsbD j = writtenBit (rowOf s h g e) o.fld val sel j) ∧
        (∀ x, x < 16 → (rowOf t h g e).full.getLsbD x =
          if x ∈ Fld.words o.fld ∧ o.ext.extractLsb' 18 2 = 1 then true
          else if x ∈ Fld.words o.fld ∧ o.ext.extractLsb' 18 2 = 2 then false
          else (rowOf s h g e).full.getLsbD x) ∧
        (rowOf t h g e).tags = (rowOf s h g e).tags) ∧
      (∀ k, (∀ e ∈ acted s h g o.mask, s.elemKey g h.slot e ≠ k) → t.rowAt k = s.rowAt k) ∧
      ∀ a, t.memByte a = s.memByte a

/-- R117 to R119: AMCODE_RUN applies the passes of its routine, as read when its convoy issued, one after another to
every element that acts, and changes nothing else; AMCODE_LOAD, once no run of another hart of the gang is in progress,
enters the words it reads in the tables of every core of the gang. The model's choice it rests on: log 50 (the elements
that act are those of the mask before the first pass). -/
def Obligations.Microcode : Prop :=
  (∀ (s : State) (id : Nat) (h : Hart) (g : Gang) (o : SForm) (ms : List W64),
    Runs (.amcodeRun o) s id h g → Sound s → Apart s h g →
    s.runRoutine h g (o.ext.extractLsb' 0 12).toNat = some ms →
    ReadsFull s h g o.mask ((List.range 3).map (Uword.field (h.reg o.a))) →
    Unreserved s h g (acted s h g o.mask) (Fld.words (Uword.field (h.reg o.a) 2)) →
    ∃ t, Completes (.amcodeRun o) s t ∧ t.hartAt id = some h.advance ∧
      RowsBecome s t h g (acted s h g o.mask) fun _ r => ms.foldl (fun r m => afterPass (h.reg o.a) (h.reg o.b) m r) r) ∧
  ∀ (s : State) (id : Nat) (h : Hart) (g : Gang) (o : SForm) (ws : List W64),
    Runs (.amcodeLoad o) s id h g → WellFormed (.amcodeLoad o) = true → s.runInProgress id h.gang = false →
    s.readWords id h ((List.range (h.reg o.b).toNat).map fun j => h.reg o.a + BitVec.ofNat 64 (8 * j)) = .words ws →
    ∃ t, Completes (.amcodeLoad o) s t ∧ t.hartAt id = some h.advance ∧ SameStores s t ∧
      ∀ p j, j < 1024 → SMap.find t.ucode (p * 1024 + j) =
        if g.first ≤ p ∧ p < g.first + g.g ∧ (o.ext.extractLsb' 0 12).toNat - 3072 ≤ j ∧
          j < (o.ext.extractLsb' 0 12).toNat - 3072 + ws.length
        then ws[j - ((o.ext.extractLsb' 0 12).toNat - 3072)]? else SMap.find s.ucode (p * 1024 + j)

namespace Sys2Proof.Claims

/-! ## Reductions, scan, selection (R147 to R157, R180, R181) -/

/-- The hart after a reduction: flags raised, VSTAT.EMPTY recorded, the result on its way (R152). -/
def reducedTo (h : Hart) (flags : BitVec 6) (none : Bool) (d : Reg) (v : W64) : Hart :=
  awaits (emptyIs (h.raise flags) none) d v

/-- The field A of an element. -/
def fieldA (s : State) (h : Hart) (g : Gang) (v : VForm) (e : Nat) : Nat := (rowOf s h g e).fld v.A

/-- The smaller or larger of two patterns (R139, R154). -/
def better (v : VForm) (max : Bool) (a b : Nat) : Nat :=
  let t := fmtOf v.ty
  let first (x y : Int) : Bool := if max then y < x else x ≤ y
  if isInt v.ty then if first (ival v.ty (Fld.width v.A) a) (ival v.ty (Fld.width v.A) b) then a else b
  else if t.isNan a || t.isNan b then t.nan
  else if first (t.key a) (t.key b) then a else b

/-- A pattern extended to 64 bits by its type (R152). -/
def widened (v : VForm) (x : Nat) : W64 :=
  if v.ty = 1 then BitVec.ofInt 64 (ival 1 (Fld.width v.A) x) else BitVec.ofNat 64 x

/-- VRMIN and VRMAX. -/
def extremeOf : Instr → Option (VForm × Bool)
  | .vrmin v => some (v, false)
  | .vrmax v => some (v, true)
  | _ => none

/-- The addends of element e's running sum (R156): active elements up to e, or before e when exclusive, back to the last
start of a segment. -/
def scanned (s : State) (h : Hart) (g : Gang) (v : VForm) (e : Nat) : List Nat :=
  (actives s h g v.m).filter fun j =>
    (if v.fn4.getLsbD 0 then decide (j < e) else decide (j ≤ e)) &&
    !(v.fn4.getLsbD 1 && (actives s h g v.m).any fun k =>
      decide (j < k) && decide (k ≤ e) && tagBit (rowOf s h g k) (v.x.extractLsb' 0 3))

/-- Rank of an element's key: better is smaller; NaNs last (R157). -/
def rankOf (s : State) (h : Hart) (g : Gang) (v : VForm) (e : Nat) : Bool × Int :=
  let x := fieldA s h g v e
  let k := if isInt v.ty then ival v.ty (Fld.width v.A) x else (fmtOf v.ty).key x
  if !isInt v.ty && (fmtOf v.ty).isNan x then (true, 0) else (false, if v.fn4.getLsbD 0 then k else -k)

/-- One rank is strictly better. -/
def ranksBefore (a b : Bool × Int) : Bool := if a.1 = b.1 then decide (a.2 < b.2) else b.1

end Sys2Proof.Claims

/-- R152, R153: VRSUM of an integer type sends to sd the exact sum of the active elements, with the old sd when it
accumulates, modulo 2^64 or clamped; of block floating point, the sum of the blocks' partial sums, and with no element
active 0, or the old sd when it accumulates. R147, R180: under
MODE.LA = 1, FRSUM sends to sd the FP32 sum of the active elements in the canonical order; in the other mode it
completes with a sum in an order the spec leaves open (a free value of the model). The model's choices it rests on: log
21 (the order is a free choice), 18, 52. -/
def Obligations.SumReductions : Prop :=
  (∀ (s : State) (id : Nat) (h : Hart) (g : Gang) (v : VForm),
    Runs (.vrsum v) s id h g → WellFormed (.vrsum v) = true → Sound s → ReadsFull s h g v.m [v.A] →
    (isInt v.ty = true →
      let r := fits (v.fn4.getLsbD 1) v.ty 64
        (((actives s h g v.m).map fun e => ival v.ty (Fld.width v.A) (fieldA s h g v e)).sum +
          if v.fn4.getLsbD 0 then ival v.ty 64 (h.reg v.dReg).toNat else 0)
      Completes (.vrsum v) s (finishedWith s id
        (reducedTo h r.2 (actives s h g v.m == []) v.dReg (BitVec.ofNat 64 r.1)))) ∧
    (v.ty = 7 → actives s h g v.m ≠ [] → s.scalesFull h g (s.activeEls h g v.m) = true →
      let r := s.bfpSum h g v (actives s h g v.m) (if v.fn4.getLsbD 0 then some ((h.reg v.dReg).toNat % 2 ^ 32) else none)
      Completes (.vrsum v) s (finishedWith s id
        (reducedTo h r.flags false v.dReg (BitVec.ofNat 64 (r.val.getD 0))))) ∧
    (v.ty = 7 → actives s h g v.m = [] →
      Completes (.vrsum v) s (finishedWith s id
        (reducedTo h 0 true v.dReg (if v.fn4.getLsbD 0 then h.reg v.dReg else 0))))) ∧
  ∀ (s : State) (id : Nat) (h : Hart) (g : Gang) (v : VForm),
    Runs (.frsum v) s id h g → WellFormed (.frsum v) = true → Sound s → ReadsFull s h g v.m [v.A] →
    let val (e : Nat) : Option Nat :=
      if e ∈ actives s h g v.m then some (((fmtOf 2).deliver 0 false false ((fmtOf v.ty).input h.fz (fieldA s h g v e))).1)
      else none
    let init := if v.fn4.getLsbD 0 then some ((h.reg v.dReg).toNat % 2 ^ 32) else none
    (h.la = true →
      let r := canon (add32 h h.fz) val h.vl ⟨init, 0⟩
      Completes (.frsum v) s (finishedWith s id
        (reducedTo h r.flags (actives s h g v.m == []) v.dReg (BitVec.ofNat 64 (r.val.getD 0))))) ∧
    (h.la = false → ∃ n f, Completes (.frsum v) s (finishedWith s id
      (reducedTo h f (actives s h g v.m == []) v.dReg (BitVec.ofNat 64 n))))

/-- R154, R181: VRMIN, VRMAX and FRMAX send to sd the extreme of the active elements and, when they accumulate, of the
old sd; VRMIN and VRMAX mark in tw the elements equal to it (with a NaN present, the NaNs). With no element active FRMAX
sends negative infinity, or the pattern of the old sd when it accumulates and that is no NaN. -/
def Obligations.ExtremeReductions : Prop :=
  (∀ (i : Instr) (s : State) (id : Nat) (h : Hart) (g : Gang) (v : VForm) (max : Bool) (x : Nat) (xs : List Nat),
    Runs i s id h g → WellFormed i = true → Sound s → Apart s h g → extremeOf i = some (v, max) →
    ReadsFull s h g v.m [v.A] → (actives s h g v.m).map (fieldA s h g v) = x :: xs →
    let r0 := xs.foldl (better v max) (better v max x x)
    let r := if v.fn4.getLsbD 0 then better v max r0 ((h.reg v.dReg).toNat % 2 ^ Fld.width v.A) else r0
    let nan := !isInt v.ty && (x :: xs).any (fmtOf v.ty).isNan
    ∃ t, Completes i s t ∧ t.hartAt id = some (reducedTo h 0 false v.dReg (widened v r)).advance ∧
      RowsBecome s t h g (actives s h g v.m) fun e row => withTag row (v.D.extractLsb' 6 3)
        (if nan then (fmtOf v.ty).isNan (fieldA s h g v e) else fieldA s h g v e == r && (isInt v.ty || !(fmtOf v.ty).isNan (fieldA s h g v e)))) ∧
  ∀ (s : State) (id : Nat) (h : Hart) (g : Gang) (v : VForm),
    Runs (.frmax v) s id h g → WellFormed (.frmax v) = true → Sound s → ReadsFull s h g v.m [v.A] →
    let least := (fmtOf v.ty).signed true (fmtOf v.ty).infMag
    let old := (h.reg v.dReg).toNat % 2 ^ Fld.width v.A
    (∀ x xs, (actives s h g v.m).map (fieldA s h g v) = x :: xs →
      Completes (.frmax v) s (finishedWith s id (reducedTo h 0 false v.dReg
        (BitVec.ofNat 64 ((x :: xs).foldl (better v true) (if v.fn4.getLsbD 0 then old else least)))))) ∧
    (actives s h g v.m = [] → (v.fn4.getLsbD 0 = true → (fmtOf v.ty).isNan old = false) →
      Completes (.frmax v) s (finishedWith s id (reducedTo h 0 true v.dReg
        (BitVec.ofNat 64 (if v.fn4.getLsbD 0 then old else least)))))

/-- R155: the identity of the smallest (max false) or the largest value of a type of width n, as sd receives it. -/
def Sys2Proof.Claims.identity (ty n : Nat) (max : Bool) : W64 :=
  match ty, max with
  | 0, false => BitVec.ofNat 64 (2 ^ n - 1)
  | 0, true => 0
  | 1, false => BitVec.ofInt 64 (2 ^ (n - 1) - 1)
  | 1, true => BitVec.ofInt 64 (-2 ^ (n - 1))
  | 2, false => 0x7F800000
  | 2, true => 0xFF800000
  | 3, false => 0x7F80
  | 3, true => 0xFF80
  | 4, false => 0x7C00
  | 4, true => 0xFC00
  | 5, false => 0x7E
  | 5, true => 0xFE
  | _, false => 0x7C
  | _, true => 0xFC

/-- R155: with no element active, VRMIN and VRMAX without .acc give the identity of the operation for the type, with
.acc sd; no tag is written, for there is no active element. -/
def Obligations.IdleReductions : Prop :=
  ∀ (i : Instr) (s : State) (id : Nat) (h : Hart) (g : Gang) (v : VForm) (max : Bool),
    Runs i s id h g → WellFormed i = true → extremeOf i = some (v, max) → actives s h g v.m = [] →
    Completes i s (finishedWith s id (reducedTo h 0 true v.dReg
      (if v.fn4.getLsbD 0 then h.reg v.dReg else identity v.ty (Fld.width v.A) max)))

/-- R156: VSCAN writes to D of every element that acts the running sum of the active elements, inclusive or exclusive,
begun again at each element whose segment tag is set. -/
def Obligations.RunningSum : Prop :=
  ∀ (s : State) (id : Nat) (h : Hart) (g : Gang) (v : VForm),
    Runs (.vscan v) s id h g → WellFormed (.vscan v) = true → Sound s → Apart s h g → ReadsFull s h g v.m [v.A] →
    Unreserved s h g (acted s h g v.m) (Fld.words v.D) →
    ∃ t, Completes (.vscan v) s t ∧ t.hartAt id = some (emptyIs h (actives s h g v.m == [])).advance ∧
      RowsBecome s t h g (acted s h g v.m) fun e r => withField r (Fld.start v.D) (Fld.width v.D)
        ((((scanned s h g v e).map fun j => ival v.ty (Fld.width v.A) (fieldA s h g v j)).sum % 2 ^ Fld.width v.D).toNat)

/-- R157: VTOPK marks in td exactly min(sb, active) elements, none of them worse than one it leaves out, the lower index
first among equals; in tc, when some are left out, the elements whose rank is that of the last one taken; sd receives
the number. -/
def Obligations.TopK : Prop :=
  ∀ (s : State) (id : Nat) (h : Hart) (g : Gang) (v : VForm),
    Runs (.vtopk v) s id h g → WellFormed (.vtopk v) = true → Sound s → Apart s h g → ReadsFull s h g v.m [v.A] →
    ∃ (t : State) (best : List Nat), Completes (.vtopk v) s t ∧
      best.length = Min.min (h.reg v.bReg).toNat (actives s h g v.m).length ∧ best.Nodup ∧
      (∀ e ∈ best, e ∈ actives s h g v.m) ∧
      (∀ e ∈ best, ∀ k ∈ actives s h g v.m, k ∉ best →
        ranksBefore (rankOf s h g v e) (rankOf s h g v k) = true ∨ (rankOf s h g v e = rankOf s h g v k ∧ e < k)) ∧
      t.hartAt id = some (reducedTo h 0 (actives s h g v.m == []) v.dReg (BitVec.ofNat 64 best.length)).advance ∧
      RowsBecome s t h g (actives s h g v.m) fun e r =>
        withTag (withTag r (v.D.extractLsb' 6 3) (decide (e ∈ best))) (v.D.extractLsb' 9 3)
          (decide (best.length < (actives s h g v.m).length) &&
            best.any fun b => rankOf s h g v b == rankOf s h g v e &&
              best.all fun x => !ranksBefore (rankOf s h g v b) (rankOf s h g v x))

namespace Sys2Proof.Claims

/-! ## Exchange (R185 to R187) -/

/-- The source of element i: an element, or the fill. -/
def exchanged (h : Hart) : Instr → Option (SForm × (Nat → Option Nat) × Nat)
  | .vbcast o => some (o, fun _ => if (h.reg o.a).toNat < h.vl then some (h.reg o.a).toNat else none, 0)
  | .vslide o =>
    let n := (h.reg o.a).toNat
    some (o, fun e => if o.so = 0 then (if n ≤ e then some (e - n) else none) else if e + n < h.vl then some (e + n) else none,
      (h.reg o.d).toNat)
  | .vpermr o =>
    let n := (h.reg o.a).toNat
    let j (e : Nat) : Nat := if o.so = 0 then e ^^^ n else (e + n) % h.vl
    some (o, fun e => if j e < h.vl then some (j e) else none, 0)
  | _ => none

/-- Every element below VL has the words of field f full. -/
abbrev AllFull (s : State) (h : Hart) (g : Gang) (f : BitVec 15) : Prop :=
  ∀ e ∈ List.range h.vl, ∀ x ∈ Fld.words f, (rowOf s h g e).full.getLsbD x = true

end Sys2Proof.Claims

/-- R185, R186: VBCAST, VSLIDE and VPERMR write D of every active element from A of its source element as it stood, or
from the fill; VEXT sends element n to sd, 0 beyond VL; VINS writes one element. Nothing else changes. -/
def Obligations.Exchange : Prop :=
  ∀ (s : State) (id : Nat) (h : Hart) (g : Gang), Sound s →
    (∀ (i : Instr) (o : SForm) (src : Nat → Option Nat) (fill : Nat),
      Runs i s id h g → exchanged h i = some (o, src, fill) → Apart s h g → AllFull s h g o.xA →
      Unreserved s h g (actives s h g o.xmask) (Fld.words o.fld) →
      ∃ t, Completes i s t ∧ t.hartAt id = some h.advance ∧
        RowsBecome s t h g (actives s h g o.xmask) fun e r => withField r (Fld.start o.fld) (Fld.width o.fld)
          (match src e with | some j => (rowOf s h g j).fld o.xA | none => fill)) ∧
    (∀ o : SForm, Runs (.vext o) s id h g → AllFull s h g o.xA →
      let n := (h.reg o.a).toNat
      let x := (rowOf s h g n).fld o.xA
      Completes (.vext o) s (finishedWith s id (awaits h o.d
        (if h.vl ≤ n then 0
         else if o.ext.getLsbD 30 then BitVec.ofInt 64 (ival 1 (Fld.width o.xA) x) else BitVec.ofNat 64 x)))) ∧
    ∀ o : SForm, Runs (.vins o) s id h g →
      let n := (h.reg o.a).toNat
      Unreserved s h g [n] (Fld.words o.fld) →
      ∃ t, Completes (.vins o) s t ∧ t.hartAt id = some h.advance ∧
        RowsBecome s t h g (if n < h.vl ∧ h.vstart ≤ n then [n] else []) fun _ r =>
          withField r (Fld.start o.fld) (Fld.width o.fld) (h.reg o.d).toNat

namespace Sys2Proof.Claims

/-! ## Blocks (R126 to R128, R145) -/

/-- The blocks with an element that acts. -/
def actedBlocks (s : State) (h : Hart) (g : Gang) (m : Mask) : List Nat :=
  (List.range ((h.vl + 31) / 32)).filter fun b => (acted s h g m).any fun e => e / 32 == b

/-- The active elements of a block. -/
def blockOf (s : State) (h : Hart) (g : Gang) (m : Mask) (b : Nat) : List Nat :=
  (actives s h g m).filter fun e => e / 32 == b

/-- The exponent, mantissas and flags of a block (R127). -/
def quantised (s : State) (h : Hart) (g : Gang) (v : VForm) (b : Nat) : Nat × List Nat × BitVec 6 :=
  quantise (Fld.width v.D) ((blockOf s h g v.m b).map fun e => valueOf (v.xb 4 0) (Fld.width v.A) h.fz (fieldA s h g v e))

/-- The block exponent after VSCALE by d (R145): 0 and 255 stay; beyond 254 it becomes 255, below 1 it becomes 0. -/
def rescaled (e : Nat) (d : Int) : Nat :=
  if e = 0 ∨ e = 255 then e else if 254 < (e : Int) + d then 255 else if (e : Int) + d < 1 then 0 else ((e : Int) + d).toNat

/-- The flags of that change: OF beyond 254; UF below 1, with NX if an active element's mantissa is not 0. -/
def rescaleFlags (s : State) (h : Hart) (g : Gang) (v : VForm) (d : Int) (b : Nat) : BitVec 6 :=
  let e := (rowOf s h g (32 * b)).scale
  if e = 0 ∨ e = 255 then 0
  else if 254 < (e : Int) + d then fOF
  else if (e : Int) + d < 1 then
    fUF ||| (if (blockOf s h g v.m b).any (fun e => (rowOf s h g e).fld v.D != 0) then fNX else 0)
  else 0

end Sys2Proof.Claims

/-- R126 to R128, R145: VBFPQ writes in every block with an element that acts the exponent, and in its elements below VL
the mantissa, or 0 in one that is not active, and every other bit, full/empty bit and tag of these rows stays; VSCALE changes the exponents of those blocks alone. Each raises the flags
of its blocks and changes nothing else of the hart. -/
def Obligations.Blocks : Prop :=
  ∀ (s : State) (id : Nat) (h : Hart) (g : Gang) (v : VForm), Sound s → Apart s h g →
    (Runs (.vbfpq v) s id h g → WellFormed (.vbfpq v) = true → ReadsFull s h g v.m [v.A] →
      Unreserved s h g ((actedBlocks s h g v.m).flatMap fun b => (List.range 32).map (32 * b + ·)) (15 :: Fld.words v.D) →
      ∃ t, Completes (.vbfpq v) s t ∧
        t.hartAt id = some (h.raise ((actedBlocks s h g v.m).foldl (fun f b => f ||| (quantised s h g v b).2.2) 0)).advance ∧
        (∀ b ∈ actedBlocks s h g v.m,
          (rowOf t h g (32 * b)).scale = (quantised s h g v b).1 ∧
          (∀ j, (blockOf s h g v.m b)[j]?.all (fun e => (rowOf t h g e).fld v.D == (quantised s h g v b).2.1.getD j 0) = true) ∧
          (∀ e ∈ List.range h.vl, e / 32 = b → active s h g v.m e = false → (rowOf t h g e).fld v.D = 0) ∧
          ∀ e ∈ List.range h.vl, e / 32 = b →
            (rowOf t h g e).full = (rowOf s h g e).full ∧ (rowOf t h g e).tags = (rowOf s h g e).tags ∧
            ∀ j, (j < Fld.start v.D ∨ Fld.start v.D + Fld.width v.D ≤ j) → (e % 32 = 0 → j < 504) →
              (rowOf t h g e).data.getLsbD j = (rowOf s h g e).data.getLsbD j) ∧
        (∀ k, (∀ b ∈ actedBlocks s h g v.m, ∀ e ∈ List.range h.vl, e / 32 = b → s.elemKey g h.slot e ≠ k) →
          t.rowAt k = s.rowAt k) ∧
        ∀ a, t.memByte a = s.memByte a) ∧
    (Runs (.vscale v) s id h g → WellFormed (.vscale v) = true → ReadsFull s h g v.m [v.D] →
      s.scalesFull h g (s.activeEls h g v.m) = true →
      Unreserved s h g ((actedBlocks s h g v.m).map (32 * ·)) [15] →
      let d : Int := if v.bm = 1 then (h.reg v.bReg).toInt else v.x.toInt
      ∃ t, Completes (.vscale v) s t ∧
        t.hartAt id = some (h.raise ((actedBlocks s h g v.m).foldl (fun f b => f ||| rescaleFlags s h g v d b) 0)).advance ∧
        (∀ b ∈ actedBlocks s h g v.m,
          rowOf t h g (32 * b) = withField (rowOf s h g (32 * b)) 504 8 (rescaled (rowOf s h g (32 * b)).scale d)) ∧
        (∀ k, (∀ b ∈ actedBlocks s h g v.m, s.elemKey g h.slot (32 * b) ≠ k) → t.rowAt k = s.rowAt k) ∧
        ∀ a, t.memByte a = s.memByte a)

namespace Sys2Proof.Claims

/-! ## The matrix engines (R191 to R216) -/

/-- What a matrix instruction samples as it enters its queue: the row indices, depth or descriptor it names (R206). -/
def sampledRegs (h : Hart) : Instr → List Nat
  | .mma v => [(h.reg (v.x.extractLsb' 0 6)).toNat, (h.reg (v.x.extractLsb' 6 6)).toNat, (h.reg (v.x.extractLsb' 12 6)).toNat]
  | .mmas v =>
    [(h.reg (v.x.extractLsb' 0 6)).toNat, (h.reg (v.x.extractLsb' 6 6)).toNat, (h.reg (v.x.extractLsb' 12 6)).toNat,
      (h.reg (v.x.extractLsb' 18 6)).toNat]
  | .mmau v => [(h.reg (v.x.extractLsb' 6 6)).toNat]
  | .mlda o => [(h.reg o.a).toNat]
  | .msta o => [(h.reg o.a).toNat]
  | _ => []

/-- The row of row index q on core e of the gang (R193). -/
def gridKey (s : State) (h : Hart) (g : Gang) (e q : Nat) : Nat := s.indexKey g h.slot e q

/-- The mask bits a product samples as it enters its queue: of the 64 rows of A, the 64 columns of B or the K positions
from B's first row index, as the mask target says; none without a mask (R196, R206). -/
def sampledTags (s : State) (h : Hart) (g : Gang) : Instr → List Bool
  | .mma v => from' v (h.reg (v.x.extractLsb' 0 6)).toNat (h.reg (v.x.extractLsb' 12 6)).toNat
  | .mmas v => from' v (h.reg (v.x.extractLsb' 0 6)).toNat (h.reg (v.x.extractLsb' 12 6)).toNat
  | .mmau v =>
    from' v 0 ((h.adesc[2].extractLsb' 8 8).toNat * (h.adesc[2].extractLsb' 0 8).toNat * (h.adesc[0].extractLsb' 18 16).toNat)
  | _ => []
where
  /-- With A's first row index and K. -/
  from' (v : VForm) (qa depth : Nat) : List Bool :=
    let qb := (h.reg (v.x.extractLsb' 6 6)).toNat
    let some' (q n : Nat) : List Bool := (List.range n).map fun j => s.maskAt v.m (gridKey s h g v.mE (q + j))
    if v.m.en then
      match (v.fn4.extractLsb' 1 2).toNat with
      | 0 => some' qa 64
      | 1 => some' qb 64
      | _ => some' qb depth
    else []

/-- The words of bits [start, start + width) of a row marked full or empty. -/
def wordsMarked (r : Row) (start width : Nat) (full : Bool) : Row :=
  { r with full := if full then r.full ||| wordMask start width else r.full &&& ~~~wordMask start width }

/-- The flags f are those that a step (i, j) of a 64 by 64 computation raises. -/
def FlagsOf (f : BitVec 6) (x : Nat → Nat → BitVec 6) : Prop :=
  ∀ b, f.getLsbD b = true ↔ ∃ i j, i < 64 ∧ j < 64 ∧ (x i j).getLsbD b = true

/-- A queue entry that may commit: started, not doomed, every word it reads full and not poisoned, its destination not
reserved by another engine (R205, R207, R208). -/
abbrev Commits (s : State) (p : Nat) (m : MEntry) (rest : List MEntry) (h : Hart) (g : Gang) (t e : Nat) : Prop :=
  (s.coreAt p).mqueue = m :: rest ∧ m.core = p ∧ s.entryHart m = some (h, g) ∧ tileName m.instr = some (t, e) ∧
  m.started = true ∧ (s.coreAt p).frozen = false ∧ m.doomed = false ∧ s.operandsFull m false = true ∧
  s.storeHeld m h g = false ∧ Sound s

end Sys2Proof.Claims

/-- R191, R206: a matrix instruction whose tile has no report, whose engine's queue has room and whose hart's earlier
accesses are performed joins the end of the queue with what it samples: registers, modes, descriptors and mask bits, and
under MODE.DET the bytes of rows that its hart's buffered stores have written. No other hart, core, tile, row or byte changes, but that MSTA marks the words it will store empty. The model's choices it
rests on: log 19. -/
def Obligations.MatrixEntry : Prop :=
  ∀ (i : Instr) (s : State) (id : Nat) (h : Hart) (g : Gang) (t e : Nat),
    Runs i s id h g → WellFormed i = true → reportsTile i = true → tileName i = some (t, e) →
    s.report g h.slot t e = none → (s.coreAt (g.first + e)).mqueue.length < 8 → s.settledFor id h 3 = true → s.upsets = [] →
    (∀ o, i = .msta o → ∀ q ∈ coveredRows o (h.reg o.a).toNat, s.reserved (gridKey s h g e q) (Fld.words o.fld) = false) →
    ∃ u, Completes i s u ∧
      u.coreAt (g.first + e) = { s.coreAt (g.first + e) with mqueue := (s.coreAt (g.first + e)).mqueue ++
        [⟨id, g.first + e, i, sampledRegs h i, h.frm, h.fz, h.adesc, sampledTags s h g i, false, false, s.bufRows h⟩] } ∧
      (∀ p, p ≠ g.first + e → u.coreAt p = s.coreAt p) ∧ u.hartAt id = some h.advance ∧
      (∀ n, n ≠ id → u.hartAt n = s.hartAt n) ∧ (∀ a, u.memByte a = s.memByte a) ∧
      (∀ k x, u.tileWord k x = s.tileWord k x) ∧ (∀ k, u.tileAt k = s.tileAt k) ∧
      ∀ k, u.rowAt k =
        match i with
        | .msta o => if k ∈ (coveredRows o (h.reg o.a).toNat).map (gridKey s h g e)
            then wordsMarked (s.rowAt k) (Fld.start o.fld) (Fld.width o.fld) false else s.rowAt k
        | _ => s.rowAt k

/-- R208, R213 to R215: MDESC sets the bits its descriptor has and changes nothing else, and MDESC_RD reads it; MWAIT completes once nothing of
the hart is queued on the engines it names and no tile has a report; MCHK returns a tile's counts and marks and clears
them. -/
def Obligations.MatrixSupport : Prop :=
  ∀ (s : State) (id : Nat) (h : Hart) (g : Gang) (o : SForm),
    (∀ k : Fin 4, Runs (.mdesc o) s id h g → (o.ext.extractLsb' 0 2).toNat = k.val →
      let bits : W64 := if k.val = 0 then 0x3FFFFFFFF else if k.val = 3 then 0xFFFFFFFF else BitVec.allOnes 64
      Completes (.mdesc o) s (finishedWith s id { h with adesc := h.adesc.set k.val (h.reg o.a &&& bits) k.isLt })) ∧
    (∀ (k : Fin 4), Runs (.mdescRd o) s id h g → (o.ext.extractLsb' 0 2).toNat = k.val →
      Completes (.mdescRd o) s (finishedWith s id (wrote h o.d h.adesc[k]))) ∧
    (Runs (.mwait o) s id h g →
      (∀ e ∈ waitEngines g o, s.queuedOn id (g.first + e) none = false ∧
        ∀ t ∈ List.range (16 / g.h), s.report g h.slot t e = none) →
      Completes (.mwait o) s (finished s id)) ∧
    (Runs (.mchk o) s id h g → s.queuedOn id (g.first + o.mE) (some o.mT) = false →
      let k := tileOf g h.slot o.mT o.mE
      let x := s.tileAt k
      ∃ t, Completes (.mchk o) s t ∧
        t.hartAt id = some (wrote h o.d (BitVec.ofNat 64 (Min.min x.reruns (2 ^ 32 - 1) * 2 ^ 16 + Min.min x.discarded 255 * 2 ^ 8 +
          (if x.poisoned then 2 else 0) + if x.failed then 1 else 0))).advance ∧
        t.tileAt k = ⟨x.inUse, false, false, 0, 0⟩ ∧ (∀ n, n ≠ k → t.tileAt n = s.tileAt n) ∧ SameStores s t)

/-- R207, R216: MATRIX_START starts the head of an engine's queue once the first chunk's words are full. MATRIX_COMMIT
of a started head, when its checks agree, takes it off the queue: a product leaves in every word of its tile the value
of the product there, MLDA the row's slot widened, MZERO zeros, and no other tile changes; MSTA leaves in every slot of
its rows the tile's word narrowed, marks its words full and changes no tile. The flags of a product and of MSTA wait for
their hart's next boundary. The model's choices it rests on: log 19. -/
def Obligations.MatrixEngine : Prop :=
  (∀ (s : State) (m : MEntry) (rest : List MEntry),
    (s.coreAt s.who).mqueue = m :: rest → m.started = false → (s.coreAt s.who).frozen = false →
    s.operandsFull m true = true →
    ∃ t, Completes .matrixStart s t ∧ (t.coreAt s.who).mqueue = { m with started := true } :: rest ∧
      (∀ p, p ≠ s.who → t.coreAt p = s.coreAt p) ∧ t.harts = s.harts ∧ SameStores s t) ∧
  ∀ (s : State) (p : Nat) (m : MEntry) (rest : List MEntry) (h : Hart) (g : Gang) (n e : Nat),
    Commits s p m rest h g n e →
    let k := tileOf g h.slot n e
    let key := gridKey s h g (p - g.first)
    let later (f : BitVec 6) : Hart := { h with mflags := h.mflags ||| f }
    ∃ t, Completes (.matrixCommit p .agree) s t ∧ (t.coreAt p).mqueue = rest ∧
      (∀ v, m.instr = .mma v ∨ m.instr = .mmas v ∨ m.instr = .mmau v →
        (∀ i j, i < 64 → j < 64 →
          t.tileWord k (64 * i + j) = BitVec.ofNat 32 (s.productWord m key v (s.tileWord k (64 * i + j)).toNat i j).1) ∧
        ∃ f, FlagsOf f (fun i j => (s.productWord m key v (s.tileWord k (64 * i + j)).toNat i j).2) ∧
          t.hartAt m.hart = some (later f)) ∧
      (∀ o, m.instr = .mlda o → t.hartAt m.hart = some h ∧ ∀ i j, i < 64 → j < 64 →
        t.tileWord k (64 * i + j) = BitVec.ofNat 32 (widenWord o.mRT m.fz
          (slotBits (s.operandRow m (key (m.regs.getD 0 0 + 64 * (j / slotsPerRow o) + i))) o.fld (rowTypeWidth o.mRT)
            (j % slotsPerRow o)))) ∧
      (∀ o, m.instr = .mzero o → t.hartAt m.hart = some h ∧ (∀ x, x < 4096 → t.tileWord k x = 0) ∧
        (t.tileAt k).inUse = !o.ext.getLsbD 21) ∧
      (∀ o, m.instr = .msta o → WellFormed m.instr = true →
        ((coveredRows o (m.regs.getD 0 0)).map key).Nodup →
        let slot (i j : Nat) : Nat × BitVec 6 :=
          narrowWord o.mRT (m.frm.extractLsb' 0 3).toNat m.fz (o.ext.getLsbD 25) (s.tileWord k (64 * i + j)).toNat
        let tw := rowTypeWidth o.mRT
        (∀ x, x < 4096 → t.tileWord k x = s.tileWord k x) ∧
        (∀ i j, i < 64 → j < 64 →
          slotBits (t.rowAt (key (m.regs.getD 0 0 + 64 * (j / slotsPerRow o) + i))) o.fld tw (j % slotsPerRow o) =
            (slot i j).1 % 2 ^ tw) ∧
        (∀ q ∈ coveredRows o (m.regs.getD 0 0), (t.rowAt (key q)).full = (s.rowAt (key q)).full ||| wordMask (Fld.start o.fld) (Fld.width o.fld)) ∧
        (∀ x, (∀ q ∈ coveredRows o (m.regs.getD 0 0), key q ≠ x) → t.rowAt x = s.rowAt x) ∧
        (∀ a, t.memByte a = s.memByte a) ∧ ∃ f, FlagsOf f (fun i j => (slot i j).2) ∧ t.hartAt m.hart = some (later f)) ∧
      (∀ l x, l ≠ k → x < 4096 → t.tileWord l x = s.tileWord l x) ∧
      ((∀ o, m.instr ≠ .msta o) → SameStores s t)

/-- R198: a word of an unmasked integer product is the old word plus the sum of the operands' products, modulo 2^32, or
clamped to the signed range; the operands come from the rows, with what their hart had buffered laid over them. -/
def Obligations.IntegerProduct : Prop :=
  ∀ (s : State) (m : MEntry) (key : Nat → Nat) (v : VForm) (c i j : Nat),
    m.instr = .mma v → isInt v.ty = true → v.m.en = false → 0 < m.depth →
    let a (k : Nat) : Int := ival v.ty v.ew (slotBits (s.operandRow m (key (m.regs.getD 0 0 + 64 * (k / v.perRow) + i))) v.A v.ew (k % v.perRow))
    let b (k : Nat) : Int := ival v.ty v.ew (slotBits (s.operandRow m (key (m.regs.getD 1 0 + 64 * (k / v.perRow) + j))) v.B v.ew (k % v.perRow))
    (s.productWord m key v c i j).1 =
      (fits (v.fn4.getLsbD 0) 1 32 (ival 1 32 c + ((List.range m.depth).map fun k => a k * b k).sum)).1

namespace Sys2Proof.Claims

/-! ## Vector memory (R226 to R233) -/

/-- First bit, width and address of element e of a vector load or store, and whether the address is in a row. -/
def vectorAccess (s : State) (h : Hart) (g : Gang) : Instr → Option (SForm × Nat × Nat × (Nat → W64) × Bool)
  | .vld o => some (o, Fld.start o.fld, Fld.width o.fld, unit o, false)
  | .vst o => some (o, Fld.start o.fld, Fld.width o.fld, unit o, false)
  | .vldff o => some (o, Fld.start o.fld, Fld.width o.fld, unit o, false)
  | .vlds o => some (o, Fld.start o.fld, Fld.width o.fld, stride o, false)
  | .vsts o => some (o, Fld.start o.fld, Fld.width o.fld, stride o, false)
  | .vldx o => some (o, Fld.start o.fld, Fld.width o.fld, index o, true)
  | .vstx o => some (o, Fld.start o.fld, Fld.width o.fld, index o, true)
  | .rld o => some (o, 0, 512, row o, false)
  | .rst o => some (o, 0, 512, row o, false)
  | _ => none
where
  /-- sa plus the element's bytes times e. -/
  unit (o : SForm) (e : Nat) : W64 := h.reg o.a + BitVec.ofNat 64 (Fld.width o.fld / 8 * e)
  /-- sa plus sb times e. -/
  stride (o : SForm) (e : Nat) : W64 := h.reg o.a + h.reg o.b * BitVec.ofNat 64 e
  /-- sa plus the index field of the row. -/
  index (o : SForm) (e : Nat) : W64 := h.reg o.a + BitVec.ofNat 64 ((rowOf s h g e).fld o.vIndex)
  /-- sa plus 64 bytes a row. -/
  row (o : SForm) (e : Nat) : W64 := h.reg o.a + BitVec.ofNat 64 (64 * e)

/-- The vector loads. -/
def isVectorLoad : Instr → Bool
  | .vld _ => true
  | .vlds _ => true
  | .vldx _ => true
  | .vldff _ => true
  | .rld _ => true
  | _ => false

/-- The vector stores. -/
def isVectorStore : Instr → Bool
  | .vst _ => true
  | .vsts _ => true
  | .vstx _ => true
  | .rst _ => true
  | _ => false

/-- What the access of element e gives: under .rep, outside MODE.DET, the bytes of a replica that holds its line (R247);
another device's answer `ans e`; else the bytes at its home, the hart's own stores among them. `none` is poisoned data. -/
def given (s : State) (h : Hart) (g : Gang) (rep : Bool) (n : Nat) (pa : Nat → Nat) (ans : Nat → Option (BitVec 512))
    (e : Nat) : Option Nat :=
  match if rep && !h.det then s.replicaOf h g e (pa e) else none with
  | some r => some (takeBits r.data (8 * (pa e % 64)) (8 * n))
  | none =>
    if s.home (pa e) = .remote then (ans e).map fun v => v.toNat % 2 ^ (8 * n)
    else if s.physPoison (pa e) n then none
    else some (s.loadVal h (pa e) n)

/-- What the accesses of a load give, element by element: with `seq` each sees what the lower ones write to the hart's own
rows (R231). -/
def seen (h : Hart) (g : Gang) (start width : Nat) (rep seq : Bool) (pa : Nat → Nat) (ans : Nat → Option (BitVec 512)) :
    State → List Nat → List (Nat × Nat)
  | _, [] => []
  | s, e :: l =>
    let v := (given s h g rep (width / 8) pa ans e).getD 0
    (e, v) :: seen h g start width rep seq pa ans (if seq then s.writeRow (s.elemKey g h.slot e) start width v else s) l

/-- The lowest listed element that fails, with its cause (R229). -/
def lowest (fails : Nat → Option Cause) (es : List Nat) : Option (Nat × Cause) :=
  es.findSome? fun e => (fails e).map fun c => (e, c)

/-- The elements performed: all, or those below the one that fails (R229). -/
def below (bad : Option (Nat × Cause)) (es : List Nat) : List Nat :=
  match bad with
  | some x => es.filter fun e => decide (e < x.1)
  | none => es

/-- The hart at the end of a vector access: its instruction completed, or the convoy stopped at the element that fails, with
that element's address (R229). -/
def endedAt (h : Hart) (bad : Option (Nat × Cause)) (va : Nat → W64) : Hart :=
  match bad with
  | some x => stoppedAt h x.2 (va x.1) (some x.1)
  | none => h.advance

/-- Why the access of element e fails, if it does, in the TLB of the element's core. -/
abbrev accessFails (s : State) (h : Hart) (g : Gang) (n : Nat) (k : Access) (va : Nat → W64) (e : Nat) : Option Cause :=
  failureOf s (s.agentOf h (g.elemCore e - g.first)) (va e) n k 0

/-- Nothing of an instruction of hart `id` is kept or outstanding at other devices for its elements. -/
abbrev NothingKept (s : State) (id : Nat) : Prop := ∀ r ∈ s.remotes, r.hart = id → r.dest.isSome = true

/-- The bytes an element's store carries: bits [start, start + width) of its row. -/
def carried (s : State) (h : Hart) (g : Gang) (start width e : Nat) : List Byte :=
  leBytes (width / 8) (takeBits (rowOf s h g e).data start width)

end Sys2Proof.Claims

/-- R227 to R230, R232: a vector load marks the words it loads empty in every element it performs, changes no other row and
no byte, and sends each of these its value; under .ord an element sees what the lower ones write (R231), under .rep a
replica may give it (R247), and one on another device gives the answer (R246). It performs every element that acts, or
those below the lowest that fails, by its access or by poisoned data: there the convoy stops with the cause and the
element's address, but VLDFF, unless that is the first element that acts, sets VL to the element and VSTAT.FFVL and goes
on; without a failure it clears FFVL. Elements on another device that are not answered yet are asked for, and the hart
waits. The model's choices it rests on: log 12, 26. -/
def Obligations.VectorLoads : Prop :=
  ∀ (i : Instr) (s : State) (id : Nat) (h : Hart) (g : Gang) (o : SForm) (start width : Nat) (va : Nat → W64) (ix : Bool)
    (pa : Nat → Nat) (ans : Nat → Option (BitVec 512)),
    Runs i s id h g → WellFormed i = true → isVectorLoad i = true →
    vectorAccess s h g i = some (o, start, width, va, ix) → Sound s → Apart s h g →
    ReadsFull s h g o.mask (if ix then [o.vIndex] else []) →
    Unreserved s h g (acted s h g o.mask) (Fld.wordsOf start width) → s.keep = false → s.elemOrder = [] →
    let es := acted s h g o.mask
    let n := width / 8
    let near := lowest (accessFails s h g n .load va) es
    (∀ e ∈ below near es,
      s.access (s.agentOf h (g.elemCore e - g.first)) (va e) .load 0 = .ok (pa e) ∧ s.accessHeld id (pa e) n = false) →
    ((∀ e ∈ below near es, if s.home (pa e) = .remote
        then o.ext.getLsbD 19 = false ∧ h.drain = [] ∧ h.buf = [] ∧ s.answerOf id (pa e) (.read n) (e + 1) = some (ans e)
        else s.answerOf id (pa e) (.read n) (e + 1) = none) →
      let rep := o.ext.getLsbD 18
      let bad := lowest (fun e => match accessFails s h g n .load va e with
        | some c => some c
        | none => if given s h g rep n pa ans e = none then some .poison else none) es
      let first := match i with | .vldff _ => true | _ => false
      let sent : Hart := { h with
        vfills := (seen h g start width rep (o.ext.getLsbD 19) pa ans s (below bad es)).map fun x =>
          ⟨s.elemKey g h.slot x.1, start, width, x.2⟩ }
      ∃ t, exec i s = .next t ∧ RowsBecome s t h g (below bad es) (fun _ r => wordsMarked r start width false) ∧
        t.hartAt id = some (match bad with
          | none => ({ sent with vstat := if first then h.vstat &&& 1 else h.vstat } : Hart).advance
          | some x =>
            if first = true ∧ es.head? ≠ some x.1
            then ({ sent with vl := x.1, vstat := (h.vstat &&& 1) ||| 2 } : Hart).advance
            else stoppedAt sent x.2 (va x.1) (some x.1))) ∧
    (o.ext.getLsbD 19 = false → NothingKept s id → (∃ e ∈ below near es, s.home (pa e) = .remote) →
      ∃ t, exec i s = .next t ∧ SameStores s t ∧ t.hartAt id = some { h with waiting := true } ∧
        t.remotes = s.remotes ++ ((below near es).filter fun e => s.home (pa e) == .remote).map fun e =>
          ⟨s.serial, s.portOf (pa e), false, false, false, id, pa e, .read n, false, none, e + 1, none⟩)

/-- R227 to R229, R231, R232, R235: a vector store performs every element that acts, or those below the lowest whose access
fails, where the convoy stops with the cause and the element's address. To memory a plain one leaves every
element's bytes with the hart, in element order, to drain; one with an order, its hart settled, is performed at once:
the bytes at an element's address are then those of its row, where no other element stores, and every byte elsewhere
reads as before. To local stores, plain or with an order, the stored bits of the rows become those of the elements'
rows, where no other element stores, and every other bit, full/empty bit and tag stays. To another device the bytes go
out on its port in element order. Under MODE.DET a plain one that fits joins the commit buffer (R248). The model's
choices it rests on: log 12, and log 26 for the order of the elements. -/
def Obligations.VectorStores : Prop :=
  ∀ (i : Instr) (s : State) (id : Nat) (h : Hart) (g : Gang) (o : SForm) (start width : Nat) (va : Nat → W64) (ix : Bool)
    (pa : Nat → Nat),
    Runs i s id h g → WellFormed i = true → isVectorStore i = true →
    vectorAccess s h g i = some (o, start, width, va, ix) → Sound s → s.elemOrder = [] →
    ReadsFull s h g o.mask (if ix then [o.vIndex] else []) →
    (∀ e ∈ acted s h g o.mask, ∀ x ∈ Fld.wordsOf start width, (rowOf s h g e).full.getLsbD x = true) →
    let n := width / 8
    let bad := lowest (accessFails s h g n .store va) (acted s h g o.mask)
    let es := below bad (acted s h g o.mask)
    (∀ e ∈ es, s.access (s.agentOf h (g.elemCore e - g.first)) (va e) .store 0 = .ok (pa e) ∧
      s.accessHeld id (pa e) n = false ∧ s.storeReserved (pa e) n = false ∧ s.ownDrain h (pa e) n = false ∧
      s.pageMoving (pa e) = false) →
    (o.so = 0 ∨ s.settledFor id h (o.ext.extractLsb' 15 3).toNat = true) → s.remoteOut id true = false →
    s.lines.length + es.length ≤ 24576 →
    ((∀ e ∈ es, ∃ a, s.home (pa e) = .mem a) → o.so = 0 → h.det = false →
      ∃ t, Completes i s t ∧ SameStores s t ∧
        t.hartAt id = some (endedAt { h with drain := h.drain ++ es.map fun e =>
          ⟨s.serial, o.ext.getLsbD 19, pa e, carried s h g start width e⟩ } bad va)) ∧
    ((∀ e ∈ es, ∃ a, s.home (pa e) = .mem a) → o.so ≠ 0 →
      ∃ t, Completes i s t ∧ t.hartAt id = some (endedAt h bad va) ∧ (∀ k, t.rowAt k = s.rowAt k) ∧
        (∀ e ∈ es, ∀ a, s.home (pa e) = .mem a →
          (∀ e' ∈ es, e' ≠ e → ∀ j j', j < n → j' < n → s.redirect (pa e' % 2 ^ 46 + j') ≠ s.redirect (a + j)) →
          ∀ j, j < n → t.memByte (a + j) = (carried s h g start width e).getD j 0) ∧
        ∀ b, (∀ e ∈ es, ∀ j, j < n → s.redirect b ≠ s.redirect (pa e % 2 ^ 46 + j)) → t.memByte b = s.memByte b) ∧
    ((∀ e ∈ es, ∃ p off, s.home (pa e) = .ls p off) → (o.so = 0 → h.det = false) →
      ∃ t, Completes i s t ∧ t.hartAt id = some (endedAt h bad va) ∧ (∀ a, t.memByte a = s.memByte a) ∧
        (∀ k, (t.rowAt k).full = (s.rowAt k).full ∧ (t.rowAt k).tags = (s.rowAt k).tags) ∧
        (∀ e ∈ es, ∀ p off, s.home (pa e) = .ls p off →
          (∀ e' ∈ es, e' ≠ e → ∀ p' off', s.home (pa e') = .ls p' off' →
            s.lsRow p' (off' / 64) ≠ s.lsRow p (off / 64) ∨ off' % 64 ≠ off % 64) →
          takeBits (t.rowAt (s.lsRow p (off / 64))).data (8 * (off % 64)) width = takeBits (rowOf s h g e).data start width) ∧
        ∀ k b, (∀ e ∈ es, ∀ p off, s.home (pa e) = .ls p off → k = s.lsRow p (off / 64) →
            b < 8 * (off % 64) ∨ 8 * (off % 64) + width ≤ b) →
          (t.rowAt k).data.getLsbD b = (s.rowAt k).data.getLsbD b) ∧
    ((∀ e ∈ es, s.home (pa e) = .remote ∧ s.linksDown.getLsbD (s.portOf (pa e)) = false) → (o.so = 0 → h.det = false) →
      ∃ t, Completes i s t ∧ SameStores s t ∧ t.hartAt id = some (endedAt h bad va) ∧
        t.outbox = s.outbox ++ es.map fun e => ⟨s.portOf (pa e), pa e, carried s h g start width e⟩) ∧
    (o.so = 0 → h.det = true → h.buf.length + n * es.length ≤ 16384 →
      ∃ t, Completes i s t ∧ SameStores s t ∧
        t.hartAt id = some (endedAt (es.foldl (fun h' e => s.bufStore h' (pa e) (carried s h g start width e)) h) bad va))

namespace Sys2Proof.Claims

/-! ## Atomics (R253 to R260) -/

/-- The new value of an atomic's n bytes (R258): the old value x, the operand v, for ACAS the new value w. -/
def atomicValue (fn n x v w : Nat) : Nat :=
  let signed (y : Nat) : Int := if 2 ^ (8 * n - 1) ≤ y then (y : Int) - 2 ^ (8 * n) else y
  match fn with
  | 0 => (x + v) % 2 ^ (8 * n)
  | 1 => ((fmtOf 2).result 0 false (((fmtOf 2).value x).add 0 ((fmtOf 2).value v))).1
  | 2 => if signed x ≤ signed v then x else v
  | 3 => if signed v ≤ signed x then x else v
  | 4 => Min.min x v
  | 5 => Max.max x v
  | 6 => x &&& v
  | 7 => x ||| v
  | 8 => x ^^^ v
  | 9 => v
  | _ => if x = v then w else x

/-- The hart with register d empty, its value still to come from elsewhere. -/
def emptied (h : Hart) (d : Reg) : Hart :=
  if d.toNat = 0 then h
  else
    { h with
      full := h.full &&& ~~~BitVec.twoPow 64 d.toNat
      poison := h.poison &&& ~~~BitVec.twoPow 64 d.toNat }

/-- A register cut to n bytes. -/
def cut (h : Hart) (n : Nat) (r : Reg) : W64 := BitVec.ofNat 64 ((h.reg r).toNat % 2 ^ (8 * n))

/-- The request of element e of a VAMO (R257): F is the operand, for ACAS the new value with sd the compare value; a
returning one comes back to F. -/
def elementRequest (s : State) (id : Nat) (h : Hart) (g : Gang) (o : SForm) (va : Nat → W64) (pa : Nat → Nat) (e : Nat) :
    AtomReq :=
  let x : W64 := BitVec.ofNat 64 ((rowOf s h g e).fld o.amoF)
  let fn := (o.ext.extractLsb' 0 4).toNat
  let n := Fld.width o.amoF / 8
  ⟨id, fn, pa e, n, if fn = 10 then cut h n o.d else x, if fn = 10 then x else 0, s.serial, o.ext.getLsbD 11, e,
    if o.ext.getLsbD 4 then .posted
    else .field (s.elemKey g h.slot e) (Fld.start o.amoF) (Fld.width o.amoF) e (va e)⟩

/-- The hart's earlier accesses that an atomic of this scope and order to these addresses waits for are performed: every
load; and for a release or a message send, everything (R239, R243, R261). -/
def AtomicFree (s : State) (id : Nat) (h : Hart) (g : Gang) (order scope : Nat) (pas : List Nat) : Prop :=
  s.remoteOut id true = false ∧
  ((2 ≤ order ∨ (order ≠ 0 ∧ ∃ pa ∈ pas, ∃ p off, s.home pa = .ls p off ∧ p ≠ g.first)) → s.settledFor id h scope = true)

end Sys2Proof.Claims

/-- R254, R256, R257, R259: AMO and VAMO send their requests to the homes, with the operands cut to the size; a
returning AMO empties sd. One to another device goes out on its port. A returning VAMO marks F empty in its elements and
completes at its instruction once every result is back; a posted one completes when its requests are sent. The model's
choices it rests on: log 12, 33. -/
def Obligations.AtomicRequests : Prop :=
  ∀ (s : State) (id : Nat) (h : Hart) (g : Gang) (o : SForm),
    let order := (o.ext.extractLsb' 8 3).toNat
    let scope := (o.ext.extractLsb' 5 3).toNat
    let posted := o.ext.getLsbD 4
    (∀ pa, Runs (.amo o) s id h g → WellFormed (.amo o) = true → (h.reg o.a).toNat % 2 ^ o.so.toNat = 0 →
      s.access (s.agentOf h) (h.reg o.a) .atomic 0 = .ok pa → AtomicFree s id h g order scope [pa] →
      s.ownDrain h pa (2 ^ o.so.toNat) = false → h.det = false →
      let n := 2 ^ o.so.toNat
      let fn := (o.ext.extractLsb' 0 4).toNat
      let v := cut h n o.b
      let v' := cut h n (o.ext.extractLsb' 11 6)
      ∃ t, Completes (.amo o) s t ∧ SameStores s t ∧ t.hartAt id = some (if posted then h else emptied h o.d).advance ∧
        (s.home pa ≠ .remote →
          t.atoms = s.atoms ++ [⟨id, fn, pa, n, v, v', s.serial, false, 0, if posted then .posted else .reg o.d (h.reg o.a)⟩]) ∧
        (s.home pa = .remote → t.atoms = s.atoms ∧
          ∃ r ∈ t.remotes, r.hart = id ∧ r.port = s.portOf pa ∧ r.pa = pa ∧ r.op = .atomic fn n v v' ∧ r.posted = posted ∧
            r.answer = none ∧ (posted = false → r.dest = some (o.d, h.reg o.a)))) ∧
    (∀ pa : Nat → Nat, Runs (.vamo o) s id h g → WellFormed (.vamo o) = true → h.sent = none → Sound s → Apart s h g →
      h.det = false → ReadsFull s h g o.amoMask [o.amoIndex] →
      (∀ e ∈ acted s h g o.amoMask, ∀ x ∈ Fld.words o.amoF, (rowOf s h g e).full.getLsbD x = true) →
      Unreserved s h g (acted s h g o.amoMask) (Fld.words o.amoF) →
      let es := acted s h g o.amoMask
      let va (e : Nat) : W64 := h.reg o.a + BitVec.ofNat 64 ((rowOf s h g e).fld o.amoIndex)
      (∀ e ∈ es, (va e).toNat % (Fld.width o.amoF / 8) = 0 ∧
        s.access (s.agentOf h (g.elemCore e - g.first)) (va e) .atomic 0 = .ok (pa e) ∧ s.home (pa e) ≠ .remote ∧
        s.ownDrain h (pa e) (Fld.width o.amoF / 8) = false) →
      AtomicFree s id h g order scope (es.map pa) →
      ∃ t, Completes (.vamo o) s t ∧ t.atoms = s.atoms ++ es.map (elementRequest s id h g o va pa) ∧
        (posted = true → SameStores s t ∧ t.hartAt id = some h.advance) ∧
        (posted = false →
          RowsBecome s t h g es (fun _ r => wordsMarked r (Fld.start o.amoF) (Fld.width o.amoF) false) ∧
          t.hartAt id = some { h with sent := some (h.vl, none), lost := [], waiting := true })) ∧
    ∀ e, Runs (.vamo o) s id h g → h.sent = some (e, none) → h.lost = [] → s.hasReturning id = false → NothingKept s id →
      Sound s → Apart s h g → h.det = false →
      ∃ t, Completes (.vamo o) s t ∧ t.hartAt id = (finished s id).hartAt id ∧ t.mem = s.mem ∧ t.atoms = s.atoms ∧
        RowsBecome s t h g ((acted s h g o.amoMask).filter (· < e)) fun _ r =>
          if posted then r else wordsMarked r (Fld.start o.amoF) (Fld.width o.amoF) true

/-- R254, R258: when a home performs an atomic, the bytes become the function of the old value and the operand, no other
byte or row changes, the request is gone, and a returning atomic's old value is on its way to its register or its field.
Under MODE.DET an AMO is performed at its instruction (R277). The model's choices it rests on: log 4, 12. -/
def Obligations.AtomicPerform : Prop :=
  (∀ (s : State) (r : AtomReq) (h : Hart),
    s.atoms[s.who]? = some r → s.atomReady s.who r = true → s.physPoison r.pa r.size = false →
    s.hartAt r.hart = some h → (r.size = 4 ∨ r.size = 8) → r.v.toNat < 2 ^ (8 * r.size) →
    r.v'.toNat < 2 ^ (8 * r.size) → (r.fn = 1 → r.size = 4) → s.lines.length < 24576 →
    let done (t : State) (old : Nat) : Prop :=
      t.atoms = s.atoms.eraseIdx s.who ∧ (∀ n, n ≠ r.hart → t.hartAt n = s.hartAt n) ∧
      (∀ d va, r.dest = .reg d va → t.hartAt r.hart = some { h with fills := h.fills ++ [⟨d, BitVec.ofNat 64 old, false⟩] }) ∧
      (∀ k st wd e va, r.dest = .field k st wd e va → t.hartAt r.hart = some { h with vfills := h.vfills ++ [⟨k, st, wd, old⟩] }) ∧
      (r.dest = .posted → t.hartAt r.hart = some h)
    (∀ a, s.home r.pa = .mem a → a % r.size = 0 →
      let old := leNat ((List.range r.size).map fun j => s.memByte (a + j))
      ∃ t, Completes .homeAtomicPerform s t ∧ done t old ∧ (∀ k, t.rowAt k = s.rowAt k) ∧
        leNat ((List.range r.size).map fun j => t.memByte (a + j)) = atomicValue r.fn r.size old r.v.toNat r.v'.toNat ∧
        ∀ b, (∀ j, j < r.size → s.redirect b ≠ s.redirect (a + j)) → t.memByte b = s.memByte b) ∧
    ∀ p off, s.home r.pa = .ls p off → off % r.size = 0 → s.upsets = [] →
      let old := takeBits (s.rowAt (s.lsRow p (off / 64))).data (8 * (off % 64)) (8 * r.size)
      ∃ t, Completes .homeAtomicPerform s t ∧ done t old ∧ (∀ a, t.memByte a = s.memByte a) ∧
        ∀ k, t.rowAt k = if k = s.lsRow p (off / 64)
          then withField (s.rowAt k) (8 * (off % 64)) (8 * r.size) (atomicValue r.fn r.size old r.v.toNat r.v'.toNat)
          else s.rowAt k) ∧
  ∀ (s : State) (id : Nat) (h : Hart) (g : Gang) (o : SForm) (pa a : Nat),
    Runs (.amo o) s id h g → WellFormed (.amo o) = true → (h.reg o.a).toNat % 2 ^ o.so.toNat = 0 →
    s.access (s.agentOf h) (h.reg o.a) .atomic 0 = .ok pa → s.home pa = .mem a → a % 2 ^ o.so.toNat = 0 →
    AtomicFree s id h g (o.ext.extractLsb' 8 3).toNat (o.ext.extractLsb' 5 3).toNat [pa] →
    s.ownDrain h pa (2 ^ o.so.toNat) = false → h.det = true → s.pageMoving pa = false →
    s.accessHeld id pa (2 ^ o.so.toNat) = false → s.physPoison pa (2 ^ o.so.toNat) = false → s.lines.length < 24576 →
    let n := 2 ^ o.so.toNat
    let old := leNat ((List.range n).map fun j => s.memByte (a + j))
    ∃ t, Completes (.amo o) s t ∧ t.atoms = s.atoms ∧ (∀ k, t.rowAt k = s.rowAt k) ∧
      t.hartAt id = some (if o.ext.getLsbD 4 then h else awaits h o.d (BitVec.ofNat 64 old)).advance ∧
      leNat ((List.range n).map fun j => t.memByte (a + j)) =
        atomicValue (o.ext.extractLsb' 0 4).toNat n old (cut h n o.b).toNat (cut h n (o.ext.extractLsb' 11 6)).toNat ∧
      ∀ b, (∀ j, j < n → s.redirect b ≠ s.redirect (a + j)) → t.memByte b = s.memByte b

namespace Sys2Proof.Claims

/-! ## Full/empty words (R264 to R268) -/

/-- A full/empty access: kind (0 LDF, 1 LDFE, 2 STE, 3 STF), address, words. -/
def feAccess (h : Hart) : Instr → Option (SForm × Nat × W64 × Nat)
  | .ldf o => some (o, 0, addr o, words o)
  | .ldfe o => some (o, 1, addr o, words o)
  | .ste o => some (o, 2, addr o, words o)
  | .stf o => some (o, 3, addr o, words o)
  | _ => none
where
  /-- sa plus disp16. -/
  addr (o : SForm) : W64 := h.reg o.a + (o.ext.extractLsb' 0 16).signExtend 64
  /-- One or two words. -/
  words (o : SForm) : Nat := if o.so = 2 then 1 else 2

/-- No request that arrived before this one of hart `id`, and waits at an overlapping word that is now in its state, is to
be served first (R266). -/
abbrev FirstInLine (s : State) (id pa n : Nat) : Prop := s.servedBefore (s.placeOf id) pa n = false

/-- The row after a full/empty access at byte offset `off` of it: LDFE marks the words empty; STE and STF write the value and
mark them full. -/
def afterFe (kind off n v : Nat) (r : Row) : Row :=
  match kind with
  | 0 => r
  | 1 => wordsMarked r (8 * off) (32 * n) false
  | _ => wordsMarked (withField r (8 * off) (32 * n) v) (8 * off) (32 * n) true

/-- A full/empty access of hart `id` to a local store of this device, aligned, translated and not held. -/
def FeAt (i : Instr) (s : State) (id : Nat) (h : Hart) (g : Gang) (o : SForm) (kind : Nat) (va : W64) (n pa p off : Nat) :
    Prop :=
  Runs i s id h g ∧ WellFormed i = true ∧ feAccess h i = some (o, kind, va, n) ∧ va.toNat % (4 * n) = 0 ∧
  s.access (s.agentOf h) va (if kind < 2 then .load else .store) 0 = .ok pa ∧ s.home pa = .ls p off ∧
  off % (4 * n) = 0 ∧ s.accessHeld id pa (4 * n) = false ∧ s.physPoison pa (4 * n) = false ∧ s.upsets = [] ∧
  (2 ≤ kind → s.settledFor id h (o.ext.extractLsb' 17 3).toNat = true ∧ s.storeReserved pa (4 * n) = false)

/-- One that may be performed: its words in the state it waits for, and none before it. -/
def FeReady (i : Instr) (s : State) (id : Nat) (h : Hart) (g : Gang) (o : SForm) (kind : Nat) (va : W64) (n pa p off : Nat) :
    Prop :=
  FeAt i s id h g o kind va n pa p off ∧ s.isRefused id h = false ∧ FirstInLine s id pa (4 * n) ∧
  (kind ≠ 3 → ∀ b ∈ s.lsFull p off n, b = (kind != 2))

end Sys2Proof.Claims

/-- R264, R265, R266: LDF and LDFE find their words full, send the value to sd, and LDFE marks the words empty; STE
finds them empty, STF finds them in any state, and both store and mark them full; no other row changes and the request
is no longer parked. FE_WAIT_SERVE does the same for a hart that waits at an LDF, LDFE or STE; so does
WAIT_TIMEOUT_EXPIRE, for service wins over the timeout (R267). R255: a request that finds a word in the other state
parks as the newest arrival, or is refused by a full table, and the hart waits. The model's choices it rests on: log 4.
-/
def Obligations.FullEmpty : Prop :=
  ∀ (i : Instr) (s : State) (id : Nat) (h : Hart) (g : Gang) (o : SForm) (kind : Nat) (va : W64) (n pa p off : Nat),
    (FeReady i s id h g o kind va n pa p off →
      ∃ t, Completes i s t ∧
        (kind ≠ 3 → s.who = id → h.waiting = true → h.current = some i →
          Completes .feWaitServe s t ∧ Completes .waitTimeoutExpire s t) ∧
        (∀ k, t.rowAt k = if k = s.lsRow p (off / 64)
          then afterFe kind (off % 64) n ((h.reg o.d).toNat % 2 ^ (32 * n)) (s.rowAt k) else s.rowAt k) ∧
        (∀ a, t.memByte a = s.memByte a) ∧ (∀ q ∈ t.parks, q.hart ≠ id) ∧
        t.hartAt id = some (if kind < 2 then awaits h o.d
          (BitVec.ofNat 64 (takeBits (s.rowAt (s.lsRow p (off / 64))).data (8 * (off % 64)) (32 * n))) else h).advance) ∧
    (FeAt i s id h g o kind va n pa p off → kind ≠ 3 → (∃ b ∈ s.lsFull p off n, b = (kind == 2)) → s.parkOf id = none →
      (o.ext.getLsbD 16 = true → h.det = true ∨ h.reg o.b ≠ 0) →
      ∃ t, Completes i s t ∧ SameStores s t ∧
        t.parks = s.parks ++ [⟨id, pa, 4 * n, if kind = 2 then 1 else 0, s.tableFull (some p), s.serial, none⟩] ∧
        ∃ h', t.hartAt id = some h' ∧ h'.waiting = true ∧ h'.conv = h.conv ∧ SameRegs [] h h')

/-- R268: FESET of a range that lies in one local store of this device marks exactly the words of the range full or
empty and changes nothing else; R270: STWK of a hart whose stores have been performed stores its value at once, to
memory or to a local store, and changes no other byte, bit or mark. -/
def Obligations.MarksAndWakes : Prop :=
  (∀ (s : State) (id : Nat) (h : Hart) (g : Gang) (o : SForm) (p off : Nat) (pa : Nat → Nat),
    Runs (.feset o) s id h g → WellFormed (.feset o) = true → (h.reg o.a).toNat % 4 = 0 → off % 4 = 0 →
    (∀ j, j < (h.reg o.b).toNat →
      s.access (s.agentOf h) (h.reg o.a + BitVec.ofNat 64 (4 * j)) .store 0 = .ok (pa j) ∧
      s.home (pa j) = .ls p (off + 4 * j)) →
    (o.so = 0 → s.settledFor id h (o.ext.extractLsb' 17 3).toNat = true) → s.upsets = [] →
    s.coreHeld id (pa 0) = false →
    ∃ t, Completes (.feset o) s t ∧ t.hartAt id = some h.advance ∧ (∀ n, n ≠ id → t.hartAt n = s.hartAt n) ∧
      (∀ k, (t.rowAt k).data = (s.rowAt k).data ∧ (t.rowAt k).tags = (s.rowAt k).tags) ∧
      (∀ a, t.memByte a = s.memByte a) ∧
      (∀ j, j < (h.reg o.b).toNat →
        (t.rowAt (s.lsRow p ((off + 4 * j) / 64))).full.getLsbD ((off + 4 * j) % 64 / 4) = decide (o.so = 0)) ∧
      ∀ k x, (∀ j, j < (h.reg o.b).toNat → k = s.lsRow p ((off + 4 * j) / 64) → x ≠ (off + 4 * j) % 64 / 4) →
        (t.rowAt k).full.getLsbD x = (s.rowAt k).full.getLsbD x) ∧
  ∀ (s : State) (id : Nat) (h : Hart) (g : Gang) (o : SForm) (pa : Nat),
    Runs (.stwk o) s id h g → WellFormed (.stwk o) = true → (h.reg o.a).toNat % 2 ^ o.so.toNat = 0 →
    s.access (s.agentOf h) (h.reg o.a) .store 0 = .ok pa → s.settledFor id h (o.ext.extractLsb' 0 3).toNat = true →
    s.accessHeld id pa (2 ^ o.so.toNat) = false → s.pageMoving pa = false → s.storeReserved pa (2 ^ o.so.toNat) = false →
    let n := 2 ^ o.so.toNat
    (∀ a, s.home pa = .mem a → a % n = 0 → s.lines.length < 24576 →
      ∃ t, Completes (.stwk o) s t ∧ t.hartAt id = some h.advance ∧
        (∀ j, j < n → t.memByte (a + j) = byteOf (h.reg o.b) j) ∧
        (∀ b, (∀ j, j < n → s.redirect b ≠ s.redirect (a + j)) → t.memByte b = s.memByte b) ∧
        ∀ k, t.rowAt k = s.rowAt k) ∧
    ∀ p off, s.home pa = .ls p off → s.upsets = [] →
      ∃ t, Completes (.stwk o) s t ∧ t.hartAt id = some h.advance ∧ (∀ a, t.memByte a = s.memByte a) ∧
        ∀ k, t.rowAt k = if k = s.lsRow p (off / 64)
          then withField (s.rowAt k) (8 * (off % 64)) (8 * n) ((h.reg o.b).toNat % 2 ^ (8 * n)) else s.rowAt k

namespace Sys2Proof.Claims

/-! ## Waiting on an address, barriers, the deque (R269 to R276) -/

/-- The condition of a WAITA on a value x of n bytes and sb (R269). -/
def waitMet (cc n x y : Nat) : Bool :=
  let signed (z : Nat) : Int := if 2 ^ (8 * n - 1) ≤ z then (z : Int) - 2 ^ (8 * n) else z
  match cc with
  | 0 => x == y
  | 1 => x != y
  | 2 => signed x < signed y
  | 3 => signed y ≤ signed x
  | 4 => x < y
  | _ => y ≤ x

end Sys2Proof.Claims

/-- R269, R271: a WAITA on this device's memory or local stores whose condition holds sends the value to sd and leaves
no parked request; WATCH_REEVALUATE does the same for a hart that waits at it. One whose condition does not hold parks
and waits. The model's choices it rests on: log 4. -/
def Obligations.AddressWaits : Prop :=
  ∀ (s : State) (id : Nat) (h : Hart) (g : Gang) (o : SForm) (pa : Nat),
    Runs (.waita o) s id h g → WellFormed (.waita o) = true → (h.reg o.a).toNat % 2 ^ o.so.toNat = 0 →
    s.access (s.agentOf h) (h.reg o.a) .load 0 = .ok pa → s.home pa ≠ .remote →
    s.accessHeld id pa (2 ^ o.so.toNat) = false → s.physPoison pa (2 ^ o.so.toNat) = false → s.lines.length < 24576 →
    let met := waitMet (o.ext.extractLsb' 0 3).toNat (2 ^ o.so.toNat) (s.loadVal h pa (2 ^ o.so.toNat))
      ((h.reg o.b).toNat % 2 ^ (8 * 2 ^ o.so.toNat))
    (met = true → s.isRefused id h = false →
      ∃ t, Completes (.waita o) s t ∧
        (s.who = id → h.waiting = true → h.current = some (.waita o) → Completes .watchReevaluate s t) ∧
        t.hartAt id = some (awaits h o.d (BitVec.ofNat 64 (s.loadVal h pa (2 ^ o.so.toNat)))).advance ∧
        (∀ q ∈ t.parks, q.hart ≠ id) ∧ SameStores s t) ∧
    (met = false → s.parkOf id = none →
      (o.ext.getLsbD 3 = true → h.det = true ∨ h.reg (o.ext.extractLsb' 4 6) ≠ 0) →
      ∃ t, Completes (.waita o) s t ∧ SameStores s t ∧
        (∃ x, t.parks = s.parks ++ [⟨id, pa, 2 ^ o.so.toNat, 2, x, s.serial, none⟩]) ∧
        ∃ h', t.hartAt id = some h' ∧ h'.waiting = true ∧ h'.conv = h.conv ∧ SameRegs [] h h')

/-- R272, R273: the last hart of a gang, or of a cluster barrier's count, to arrive completes the phase: it returns with
the number of the phase that completed, every other hart that waits there has its release with that number, a hart that
does not wait there is unchanged, and the phase number has moved on. A hart whose release has come leaves the barrier
with the number of the phase, by BARRIER_RELEASE too. The model's choices it rests on: log 11. -/
def Obligations.Barriers : Prop :=
  ∀ (s : State) (id : Nat) (h : Hart) (g : Gang) (o : SForm),
    (Runs (.barGang o) s id h g → h.released = none → h.barrier = none → s.settledFor id h 1 = true →
      (g.live &&& ~~~(g.arr ||| (1#4 <<< h.slot))) = 0 → g.live ≠ 0 → h.slot < 4 →
      let waits (n : Hart) : Prop := n.gang = h.gang ∧ ∃ x, n.barrier = some (none, x)
      ∃ t, Completes (.barGang o) s t ∧
        t.gangAt h.gang = some { g with arr := 0, phase := g.phase + 1 } ∧
        t.hartAt id = some (wrote h o.d (BitVec.ofNat 64 g.phase.toNat)).advance ∧
        (∀ j n, j ≠ id → s.hartAt j = some n → waits n → t.hartAt j = some { n with released := some g.phase.toNat }) ∧
        (∀ j, j ≠ id → (∀ e ∈ s.harts, e.1 = j → ¬waits e.2) → t.hartAt j = s.hartAt j) ∧
        (∀ k, k ≠ h.gang → t.gangAt k = s.gangAt k) ∧ SameStores s t) ∧
    (Runs (.barClus o) s id h g → h.released = none → h.barrier = none → s.settledFor id h 2 = true →
      let n := (h.reg o.a).toNat
      let k := (g.first / 24 * 16 + h.queue) * 32 + n % 32
      let b := s.barAt k
      (if b.arrived = [] then n / 256 % 256 else b.count) ≤ b.arrived.length + 1 →
      ∃ t, Completes (.barClus o) s t ∧ t.barAt k = ⟨0, [], b.phase + 1⟩ ∧
        t.hartAt id = some (wrote h o.d (BitVec.ofNat 64 (b.phase % 256))).advance ∧
        (∀ j x, j ≠ id → j ∈ b.arrived → s.hartAt j = some x → t.hartAt j = some { x with released := some (b.phase % 256) }) ∧
        (∀ j, j ≠ id → j ∉ b.arrived → t.hartAt j = s.hartAt j) ∧
        (∀ m, m ≠ k → t.barAt m = s.barAt m) ∧ SameStores s t) ∧
    ∀ (i : Instr) (p : Nat), (i = .barGang o ∨ i = .barClus o) → Executes i s id h g → h.barrier.isSome = true →
      h.released = some p →
      let u := finishedWith s id { wrote h o.d (BitVec.ofNat 64 p) with barrier := none, released := none }
      Completes i s u ∧ (s.who = id → h.waiting = true → h.current = some i → Completes .barrierRelease s u)

/-- R274: when a barrier's timeout expires, the waiting hart leaves the barrier with 2^63 plus the current phase number
in sd and its arrival is withdrawn. R255: PARK_RETRY takes a refused request back, so that its hart sends it again as a
new arrival. R267, R269: when the timeout of a waiting LDF, LDFE or STE whose words are not in its state runs out, the
request is withdrawn and the convoy stops there with WAIT_TIMEOUT; that of a WAITA ends the wait with the value at the
address. The model's choices it rests on: log 6, 11. -/
def Obligations.Timeouts : Prop :=
  (∀ (s : State) (h : Hart) (g : Gang) (o : SForm),
    s.hartAt s.who = some h → s.gangAt h.gang = some g → h.waiting = true → h.det = false → h.released = none →
    o.ext.getLsbD 0 = true →
    let left (phase : Nat) : Hart := ({ wrote h o.d (BitVec.ofNat 64 (2 ^ 63 + phase)) with barrier := none } : Hart).advance
    (∀ n, h.current = some (.barGang o) → h.barrier = some (none, n) → h.slot < 4 →
      ∃ t, Completes .barrierTimeout s t ∧
        t.gangAt h.gang = some { g with arr := g.arr &&& ~~~(1#4 <<< h.slot) } ∧
        t.hartAt s.who = some (left g.phase.toNat) ∧ SameStores s t) ∧
    ∀ k n, h.current = some (.barClus o) → h.barrier = some (some k, n) →
      ∃ t, Completes .barrierTimeout s t ∧
        t.barAt k = { s.barAt k with arrived := (s.barAt k).arrived.filter fun j => j != s.who } ∧
        t.hartAt s.who = some (left ((s.barAt k).phase % 256)) ∧ SameStores s t) ∧
  (∀ (s : State) (p : Park) (h : Hart), s.who < 0x1000000 → s.parkOf s.who = some p → s.hartAt s.who = some h →
    p.refused = true → h.det = false →
    ∃ t, Completes .parkRetry s t ∧ t.parks = (s.parks.filter fun q => q.hart != s.who) ∧ t.asleep = [] ∧
      t.harts = s.harts ∧ SameStores s t) ∧
  (∀ (i : Instr) (s : State) (id : Nat) (h : Hart) (g : Gang) (c : Conv) (o : SForm) (kind : Nat) (va : W64)
      (n pa p off : Nat),
    FeAt i s id h g o kind va n pa p off → kind ≠ 3 → (∃ b ∈ s.lsFull p off n, b = (kind == 2)) → h.conv = some c →
    o.ext.getLsbD 16 = true → h.det = false → s.who = id → h.waiting = true → h.current = some i →
    ∃ t h', Completes .waitTimeoutExpire s t ∧ t.hartAt id = some h' ∧
      h'.conv = some { c with idx := c.idx + 1, stop := some ⟨c.idx, some .waitTimeout, va, none, false⟩ } ∧
      SameRegs [] h h' ∧ (∀ q ∈ t.parks, q.hart ≠ id) ∧ SameStores s t) ∧
  ∀ (s : State) (id : Nat) (h : Hart) (g : Gang) (o : SForm) (pa : Nat),
    Runs (.waita o) s id h g → WellFormed (.waita o) = true → (h.reg o.a).toNat % 2 ^ o.so.toNat = 0 →
    s.access (s.agentOf h) (h.reg o.a) .load 0 = .ok pa → s.home pa ≠ .remote →
    s.accessHeld id pa (2 ^ o.so.toNat) = false → s.physPoison pa (2 ^ o.so.toNat) = false → s.lines.length < 24576 →
    o.ext.getLsbD 3 = true → h.det = false → s.who = id → h.waiting = true → h.current = some (.waita o) →
    ∃ t, Completes .waitTimeoutExpire s t ∧
      t.hartAt id = some (awaits h o.d (BitVec.ofNat 64 (s.loadVal h pa (2 ^ o.so.toNat)))).advance ∧
      (∀ q ∈ t.parks, q.hart ≠ id) ∧ SameStores s t

/-- R275, R276: DQPUSH to a deque of fewer than 64 gives the entry to the oldest waiting DQPOP, or else puts it at the
tail, and returns 0; to a full one it returns 1. DQPOP sends the entry a push gave it, or else the tail entry, to sd;
with .nb it sends 2^63 when the deque is empty. DQSTEAL sends the head entry of the victim's deque, or 2^63 when it is
empty. -/
def Obligations.Deques : Prop :=
  ∀ (s : State) (id : Nat) (h : Hart) (g : Gang) (o : SForm),
    (Runs (.dqpush o) s id h g → s.settledFor id h 2 = true →
      let q := (s.coreAt g.first).deque
      let v := (h.reg o.a).extractLsb' 0 63
      ∃ t, Completes (.dqpush o) s t ∧ t.hartAt id = some (wrote h o.d (if q.length < 64 then 0 else 1)).advance ∧
        SameStores s t ∧
        (64 ≤ q.length → (t.coreAt g.first).deque = q ∧ t.parks = s.parks) ∧
        (q.length < 64 → s.waitingPop g.first = none → (t.coreAt g.first).deque = q ++ [v] ∧ t.parks = s.parks) ∧
        ∀ x, q.length < 64 → s.waitingPop g.first = some x → (t.coreAt g.first).deque = q ∧
          t.parks = s.parks.map fun y => if y.serial = x.serial then { y with got := some v } else y) ∧
    (Runs (.dqpop o) s id h g →
      let sent (x : W64) : Option Hart := some (awaits h o.d x).advance
      (∀ p x, s.parkOf id = some p → p.got = some x →
        ∃ t, Completes (.dqpop o) s t ∧ t.hartAt id = sent (x.setWidth 64) ∧ SameStores s t ∧
          (t.coreAt g.first).deque = (s.coreAt g.first).deque ∧ ∀ q ∈ t.parks, q.hart ≠ id) ∧
      ((s.parkOf id).bind Park.got = none →
        (∀ q x, (s.coreAt g.first).deque = q ++ [x] → s.isRefused id h = false →
          ∃ t, Completes (.dqpop o) s t ∧ (t.coreAt g.first).deque = q ∧ t.hartAt id = sent (x.setWidth 64) ∧
            SameStores s t ∧ ∀ q ∈ t.parks, q.hart ≠ id) ∧
        ((s.coreAt g.first).deque = [] → o.ext.getLsbD 0 = true →
          ∃ t, Completes (.dqpop o) s t ∧ t.hartAt id = sent 0x8000000000000000 ∧ SameStores s t))) ∧
    (Runs (.dqsteal o) s id h g →
      let p := s.coreOfLcid (h.reg o.a).toNat
      s.coreMoving p = false → s.gangAway p = false →
      ∃ t, Completes (.dqsteal o) s t ∧ (t.coreAt p).deque = (s.coreAt p).deque.drop 1 ∧
        t.hartAt id = some (awaits h o.d (match (s.coreAt p).deque.head? with
          | some x => x.setWidth 64
          | none => 0x8000000000000000)).advance ∧ SameStores s t)

namespace Sys2Proof.Claims

/-! ## The copy engines (R280 to R302) -/

/-- The rows of a hart's grant on core e of its gang, by row index (R193), are all different. -/
def Spread (s : State) (h : Hart) (g : Gang) (e : Nat) : Prop := ((List.range (h.rowLimit g)).map (gridKey s h g e)).Nodup

/-- The eight doublewords of a record at pa (R282). -/
def recordAt (s : State) (pa : Nat) : List W64 := (List.range 8).map fun j => BitVec.ofNat 64 (s.physVal (pa + 8 * j) 8)

/-- Bytes a to a + n of memory hold the little-endian bytes of v, and every byte elsewhere reads as before. -/
def OnlyStored (s t : State) (a n : Nat) (v : W64) : Prop :=
  (∀ j, j < n → t.memByte (a + j) = byteOf v j) ∧
  ∀ b, (∀ j, j < n → s.redirect b ≠ s.redirect (a + j)) → t.memByte b = s.memByte b

/-- The record that core p's engine begins next is c, and nothing holds the engine. -/
abbrev BeginsNext (s : State) (p : Nat) (c : CRec) : Prop :=
  (s.coreAt p).copies.find? (fun c => c.words.isNone) = some c ∧ s.coreMoving p = false ∧
  SMap.find (s.coreAt p).errs c.ch = none

/-- The record of channel ch of core p's engine whose lines land is c, fetched as r, and nothing holds the engine. -/
abbrev Lands (s : State) (p ch : Nat) (c : CRec) (r : List W64) : Prop :=
  s.coreMoving p = false ∧ s.activeRec p ch = some (c, r) ∧ c.ch = ch

/-- The records of core p's engine after c has become c'. -/
def recsWith (s : State) (p : Nat) (c c' : CRec) : List CRec :=
  (s.coreAt p).copies.map fun x => if x.serial = c.serial then c' else x

/-- The records of core p's engine without c. -/
def recsLess (s : State) (p : Nat) (c : CRec) : List CRec := (s.coreAt p).copies.filter fun x => x.serial != c.serial

/-- Channel ch of core p is in error with the record at addr, for a reason, and holds no record (R292). -/
def ChannelFails (s t : State) (p ch addr reason : Nat) : Prop :=
  (t.coreAt p).copies = ((s.coreAt p).copies.filter fun x => x.ch != ch) ∧
  SMap.find (t.coreAt p).errs ch = some ⟨addr, reason⟩

/-- The doubleword at address a of memory. -/
def dwordAt (s : State) (a : Nat) : W64 := BitVec.ofNat 64 (leNat ((List.range 8).map fun j => s.memByte (a + j)))

end Sys2Proof.Claims

/-- R294 to R298: CPUSH puts a record at the end of its core's queue, drops its entry of the parameter cache and empties
sd; CSTAT returns the channel's state; CWAIT with nothing queued and no error completes; CKILL empties its channel,
clears its error and returns how many it abandoned; CKILL_REL drops the cache entry and clears OWN of a record in
memory; XROW copies whole rows, marks them full and changes no other row and no tag. -/
def Obligations.CopyInstructions : Prop :=
  ∀ (s : State) (id : Nat) (h : Hart) (g : Gang) (o : SForm),
    let p := g.first + o.cE
    let k := s.coreAt p
    (∀ pa, Runs (.cpush o) s id h g → (h.reg o.a).toNat % 64 = 0 →
      s.access (s.agentOf h) (h.reg o.a) .atomic 0 = .ok pa → k.copies.length < 64 → s.settledFor id h 3 = true →
      ∃ t, Completes (.cpush o) s t ∧ t.hartAt id = some (emptied h o.d).advance ∧ SameStores s t ∧
        t.coreAt p = { k with
          pcache := k.pcache.filter fun x => x.addr != (h.reg o.a).toNat
          copies := k.copies ++ [⟨s.serial, id, h.queue, g.first, (h.reg o.a).toNat, o.cCh, h.xctl.getLsbD 4,
            if o.d = 0 then none else some o.d, none, 0, [], false⟩] } ∧
        ∀ q, q ≠ p → t.coreAt q = s.coreAt q) ∧
    (Runs (.cstat o) s id h g →
      Completes (.cstat o) s (finishedWith s id (wrote h o.d (BitVec.ofNat 64
        ((k.copies.filter fun c => c.ch == o.cCh).length * 2 ^ 52 +
          match SMap.find k.errs o.cCh with
          | some e => 2 ^ 63 + e.addr / 64 * 64 + e.reason
          | none => 0))))) ∧
    (Runs (.cwait o) s id h g → h.cwait = none →
      (∀ ch, ch < 8 → (o.ext.getLsbD 5 = true ∨ ch = o.cCh) → (∀ c ∈ k.copies, c.ch ≠ ch) ∧ SMap.find k.errs ch = none) →
      Completes (.cwait o) s (finished s id)) ∧
    (Runs (.ckill o) s id h g →
      ∃ t h', Completes (.ckill o) s t ∧ t.hartAt id = some h' ∧ h'.conv = h.advance.conv ∧ SameRegs [o.d] h h' ∧
        (o.d ≠ 0 → h'.reg o.d = BitVec.ofNat 64 (k.copies.filter fun c => c.ch == o.cCh).length) ∧
        (t.coreAt p).copies = (k.copies.filter fun c => c.ch != o.cCh) ∧ SMap.find (t.coreAt p).errs o.cCh = none ∧
        ((∀ c ∈ k.copies, c.ch ≠ o.cCh) → SameStores s t)) ∧
    (∀ pa a, Runs (.ckillRel o) s id h g → (h.reg o.a).toNat % 64 = 0 →
      s.access (s.agentOf h) (h.reg o.a) .atomic 0 = .ok pa → s.home pa = .mem a → a % 8 = 0 →
      s.settledFor id h 3 = true → s.accessHeld id pa 8 = false →
      s.ownFree p h.queue pa = true → s.physPoison pa 8 = false → s.lines.length < 24576 →
      ∃ t, Completes (.ckillRel o) s t ∧ t.hartAt id = some h.advance ∧ (∀ x, t.rowAt x = s.rowAt x) ∧
        t.coreAt p = { k with pcache := k.pcache.filter fun x => x.addr != (h.reg o.a).toNat } ∧
        OnlyStored s t a 8 (dwordAt s a &&& 0x7FFFFFFFFFFFFFFF)) ∧
    (Runs (.xrow o) s id h g → Sound s → Spread s h g o.cE →
      let qd := (h.reg o.d).toNat
      let qs := (h.reg o.a).toNat
      let n := (h.reg o.b).toNat
      let key := gridKey s h g o.cE
      (∀ j, j < n → (s.rowAt (key (qs + j))).full = 0xFFFF ∧ s.reserved (key (qd + j)) (List.range 16) = false) →
      ∃ t, Completes (.xrow o) s t ∧ t.hartAt id = some h.advance ∧ (∀ a, t.memByte a = s.memByte a) ∧
        (∀ j, j < n → t.rowAt (key (qd + j)) = ⟨(s.rowAt (key (qs + j))).data, 0xFFFF, (s.rowAt (key (qd + j))).tags⟩) ∧
        ∀ x, (∀ j, j < n → key (qd + j) ≠ x) → t.rowAt x = s.rowAt x)

/-- R285, R290, R292: COPY_RECORD_BEGIN of a record in memory that passes the checks begins it with the words it holds
and fills CPUSH's register with 0, and marks empty exactly the local-store words it will write; one that fails a check
puts its channel in error with the lowest failing reason, clears OWN and fills CPUSH's register with it. A record reached
through NEXT is begun from the parameter cache when that keeps it, and ends the chain when its OWN is clear. R286, R287: a
line of a copy from memory lands: every destination byte of the line, in memory or in a local store, becomes its source
byte, the local-store words are marked full, and no other byte, bit or mark changes; a source address that fails, or a
poisoned source, puts the channel in error. R288: a record whose lines have landed writes its completion word, or, not
pinned, has OWN cleared, or both, and leaves the channel; with NEXT the record it names follows. The model's choices it
rests on: log 31. -/
def Obligations.CopyEngine : Prop :=
  (∀ (s : State) (c : CRec) (pa : Nat),
    BeginsNext s s.who c → c.chained = false → s.access c.agent (BitVec.ofNat 64 c.addr) .copyRead 0 = .ok pa →
    (∀ j, j < 8 → (∃ a, s.home (pa + 8 * j) = .mem a) ∧ s.physPoison (pa + 8 * j) 8 = false) →
    let r := recordAt s pa
    (s.recordReason c r = none → s.markHeld s.who c r = false → s.markReserved r = false → s.snapshotReads c r = [] →
      s.upsets = [] →
      ∃ t, Completes .copyRecordBegin s t ∧ (∀ a, t.memByte a = s.memByte a) ∧
        (t.coreAt s.who).copies =
          recsWith s s.who c { c with words := some r, off := Rec.nextLine r 0, snap := s.snapshot s.who c r } ∧
        (∀ d h, c.status = some d → s.hartAt c.hart = some h →
          t.hartAt c.hart = some { h with fills := h.fills ++ [⟨d, 0, false⟩] }) ∧
        (∀ x, (t.rowAt x).data = (s.rowAt x).data ∧ (t.rowAt x).tags = (s.rowAt x).tags) ∧
        (∀ n j off, n < Rec.len r → Rec.dkind r ≠ 0 → Rec.dest r n = .ls j off →
          (t.rowAt (s.lsRow (s.coreOfLcid j) (off.toNat / 64))).full.getLsbD (off.toNat % 64 / 4) = false) ∧
        ∀ x w, (Rec.dkind r = 0 ∨ ∀ n j off, n < Rec.len r → Rec.dest r n = .ls j off →
            x = s.lsRow (s.coreOfLcid j) (off.toNat / 64) → w ≠ off.toNat % 64 / 4) →
          (t.rowAt x).full.getLsbD w = (s.rowAt x).full.getLsbD w) ∧
    ∀ n a, s.recordReason c r = some n → (∀ x ∈ (s.coreAt s.who).copies, x.ch = c.ch → x.serial = c.serial) →
      s.access c.agent (BitVec.ofNat 64 c.addr) .atomic 0 = .ok pa → s.home pa = .mem a → a % 8 = 0 →
      s.ownFree s.who c.queue pa = true → s.lines.length < 24576 →
      ∃ t, Completes .copyRecordBegin s t ∧ ChannelFails s t s.who c.ch c.addr n ∧ (∀ x, t.rowAt x = s.rowAt x) ∧
        OnlyStored s t a 8 (dwordAt s a &&& 0x7FFFFFFFFFFFFFFF) ∧
        ∀ d h, c.status = some d → s.hartAt c.hart = some h →
          t.hartAt c.hart = some { h with fills := h.fills ++ [⟨d, BitVec.ofNat 64 (2 ^ 63 + n), false⟩] }) ∧
  (∀ (s : State) (c : CRec) (x : PCache),
    BeginsNext s s.who c → c.chained = true → s.ownOut s.who c.queue = false →
    (s.coreAt s.who).pcache.find? (fun y => y.queue == c.queue && y.addr == c.addr) = some x →
    (Rec.own x.words = false →
      ∃ t, Completes .copyRecordBegin s t ∧ (t.coreAt s.who).copies = recsLess s s.who c ∧ SameStores s t ∧ t.harts = s.harts) ∧
    (s.recordReason c x.words = none → Rec.dkind x.words = 0 → s.snapshotReads c x.words = [] →
      ∃ t, Completes .copyRecordBegin s t ∧ SameStores s t ∧ t.harts = s.harts ∧
        (t.coreAt s.who).copies = recsWith s s.who c
          { c with words := some x.words, off := Rec.nextLine x.words 0, snap := s.snapshot s.who c x.words })) ∧
  (∀ (s : State) (p ch : Nat) (c : CRec) (r : List W64) (src dst from' : Nat → Nat),
    Lands s p ch c r → c.off < Rec.len r → c.snap = [] → s.lines.length + 128 ≤ 24576 →
    (∀ n ∈ Rec.inLine r c.off,
      s.spotPa c.agent .copyRead (Rec.source r n) = .ok (src n) ∧ s.home (src n) = .mem (from' n) ∧
      s.physPoison (src n) 1 = false ∧ s.spotPa c.agent .copyWrite (Rec.dest r n) = .ok (dst n)) →
    let landed := recsWith s p c { c with off := Rec.nextLine r (c.off + 1), snap := s.readAhead p c r (Rec.inLine r c.off) }
    (∀ to' : Nat → Nat,
      (∀ n ∈ Rec.inLine r c.off, s.home (dst n) = .mem (to' n) ∧ s.pageMoving (dst n) = false) →
      (∀ n ∈ Rec.inLine r c.off, ∀ m ∈ Rec.inLine r c.off, n ≠ m → s.redirect (to' n) ≠ s.redirect (to' m)) →
      ∃ t, Completes (.copyLineLand p ch) s t ∧
        (∀ n ∈ Rec.inLine r c.off, t.memByte (to' n) = s.memByte (from' n)) ∧
        (∀ b, (∀ n ∈ Rec.inLine r c.off, s.redirect b ≠ s.redirect (to' n)) → t.memByte b = s.memByte b) ∧
        (∀ x, t.rowAt x = s.rowAt x) ∧ t.harts = s.harts ∧ (t.coreAt p).copies = landed) ∧
    ∀ (q : Nat) (off : Nat → Nat),
      (∀ n ∈ Rec.inLine r c.off, s.home (dst n) = .ls q (off n) ∧ s.coreHeld (engineId p ch) (dst n) = false ∧
        s.storeReserved (dst n) 1 = false) →
      (∀ n ∈ Rec.inLine r c.off, ∀ m ∈ Rec.inLine r c.off, n ≠ m → off n ≠ off m) → s.upsets = [] →
      let row (n : Nat) : Nat := s.lsRow q (off n / 64)
      ∃ t, Completes (.copyLineLand p ch) s t ∧
        (∀ n ∈ Rec.inLine r c.off, takeBits (t.rowAt (row n)).data (8 * (off n % 64)) 8 = (s.memByte (from' n)).toNat ∧
          (t.rowAt (row n)).full.getLsbD (off n % 64 / 4) = true) ∧
        (∀ k b, (∀ n ∈ Rec.inLine r c.off, k = row n → b / 8 ≠ off n % 64) →
          (t.rowAt k).data.getLsbD b = (s.rowAt k).data.getLsbD b) ∧
        (∀ k w, (∀ n ∈ Rec.inLine r c.off, k = row n → w ≠ off n % 64 / 4) →
          (t.rowAt k).full.getLsbD w = (s.rowAt k).full.getLsbD w) ∧
        (∀ k, (t.rowAt k).tags = (s.rowAt k).tags) ∧ (∀ a, t.memByte a = s.memByte a) ∧ t.harts = s.harts ∧
        (t.coreAt p).copies = landed) ∧
  (∀ (s : State) (p ch : Nat) (c : CRec) (r : List W64) (n : Nat) (rest : List Nat),
    Lands s p ch c r → c.off < Rec.len r → Rec.inLine r c.off = n :: rest →
    (∀ m, s.spotPa c.agent .copyRead (Rec.source r n) = .error m →
      ∃ t, Completes (.copyLineLand p ch) s t ∧ ChannelFails s t p ch c.addr m) ∧
    ((∀ m ∈ n :: rest, ∃ pa a, s.spotPa c.agent .copyRead (Rec.source r m) = .ok pa ∧ s.home pa = .mem a) → c.snap = [] →
      (∃ m ∈ n :: rest, ∀ pa, s.spotPa c.agent .copyRead (Rec.source r m) = .ok pa → s.physPoison pa 1 = true) →
      ∃ t, Completes (.copyLineLand p ch) s t ∧ ChannelFails s t p ch c.addr 10)) ∧
  ∀ (s : State) (p ch : Nat) (c : CRec) (r : List W64) (pa a pw w : Nat),
    Lands s p ch c r → Rec.len r ≤ c.off →
    let chain := recsLess s p c ++ if Rec.next r = 0 then []
      else [{ c with addr := 64 * Rec.next r, words := none, off := 0, snap := [], chained := true }]
    let word : Prop := s.access c.agent (Rec.caddr r) .copyWrite 0 = .ok pw ∧ s.home pw = .mem w ∧ w % 4 = 0 ∧
      s.pageMoving pw = false
    let own : Prop := s.access c.agent (BitVec.ofNat 64 c.addr) .atomic 0 = .ok pa ∧ s.home pa = .mem a ∧ a % 8 = 0 ∧
      s.ownFree p c.queue pa = true ∧ s.physPoison pa 8 = false ∧ s.lines.length < 24576
    let ends (t : State) : Prop := Completes (.copyRecordComplete p ch) s t ∧ (t.coreAt p).copies = chain ∧ t.harts = s.harts ∧
      ∀ x, t.rowAt x = s.rowAt x
    (Rec.cwen r = true → Rec.pin r = true → word → ∃ t, ends t ∧ OnlyStored s t w 4 (BitVec.ofNat 64 (Rec.cval r))) ∧
    (Rec.cwen r = false → Rec.pin r = false → own → ∃ t, ends t ∧ OnlyStored s t a 8 (dwordAt s a &&& 0x7FFFFFFFFFFFFFFF)) ∧
    (Rec.cwen r = false → Rec.pin r = true → ∃ t, ends t ∧ ∀ b, t.memByte b = s.memByte b) ∧
    (Rec.cwen r = true → Rec.pin r = false → word → own → (s.physStore pw 4 (Rec.cval r)).ownPa c = some pa →
      (∀ i j, i < 4 → j < 8 → s.redirect (w + i) ≠ s.redirect (a + j)) →
      ∃ t, ends t ∧ (∀ j, j < 4 → t.memByte (w + j) = byteOf (BitVec.ofNat 64 (Rec.cval r)) j) ∧
        (∀ j, j < 8 → t.memByte (a + j) = byteOf (dwordAt s a &&& 0x7FFFFFFFFFFFFFFF) j) ∧
        ∀ b, (∀ i, i < 4 → s.redirect b ≠ s.redirect (w + i)) → (∀ j, j < 8 → s.redirect b ≠ s.redirect (a + j)) →
          t.memByte b = s.memByte b)

namespace Sys2Proof.Claims

/-! ## The Pantry (R303 to R323) -/

/-- The registers from r on, n of them. -/
def regsFrom (r n : Nat) : List Reg := (List.range n).map fun j => BitVec.ofNat 6 (r + j)

/-- The fields of a pattern that are bound, by number (R308). -/
def bound (o : SForm) : List Nat := (List.range o.pK).filter fun j => o.pCode j == 3

/-- What a PCOPY, PTAKE or PCNT asks for: the form, and the register that names its row, in the row form (R309, R313). -/
def asking : Instr → Option (SForm × Option Nat)
  | .pcopy o => some (o, if o.ext.getLsbD 21 then some o.pRes else none)
  | .ptake o => some (o, if o.ext.getLsbD 21 then some o.pRes else none)
  | .pcnt o => some (o, none)
  | _ => none

/-- The registers a request empties: its status register and, in the scalar form, those of its bound fields. -/
def emptiedBy (i : Instr) (o : SForm) (row : Option Nat) : List Reg :=
  o.d :: if row.isNone && (match i with | .pcnt _ => false | _ => true) then regsFrom o.pRes (bound o).length else []

/-- The Pantry page at va names an enabled region that takes tuples of the request's fields (R304, R310). -/
abbrev Names (s : State) (h : Hart) (o : SForm) (x : Xl) : Prop :=
  s.translate (s.agentOf h) (h.reg o.a) = some x ∧ Pte.type x.leaf = 1 ∧ x.en = true ∧ o.pK ≤ x.nf + 1

/-- The row of a row form: aligned, translated, in a local store (R309). -/
def RowAt (s : State) (h : Hart) (k : Access) (r : Option Nat) (pa : Option Nat) : Prop :=
  match r with
  | none => pa = none
  | some r => ∃ a p off, (h.reg (BitVec.ofNat 6 r)).toNat % 64 = 0 ∧
      s.access (s.agentOf h) (h.reg (BitVec.ofNat 6 r)) k 0 = .ok a ∧ s.home a = .ls p off ∧ pa = some a

/-- The request of a Pantry instruction names this region and, in the row form, this row: as they were checked when its
convoy issued, or, where an earlier instruction of the convoy decides them, as they are now (R55, R310). -/
def AsksFor (s : State) (h : Hart) (o : SForm) (k : Access) (r : Option Nat) (region : Nat) (pa : Option Nat) : Prop :=
  (∀ a, pa = some a → a % 64 = 0 ∧ ∃ p off, s.home a = .ls p off) ∧ pa.isSome = r.isSome ∧
  match h.conv.bind fun c => c.pages.getD c.idx none with
  | some x => x = (region, pa)
  | none => ∃ x, Names s h o x ∧ Pte.region x.leaf = region ∧ RowAt s h k r pa

/-- Message m carries request i of hart id to the home slice of its first value in the region (R306, R311). -/
abbrev Carries (s : State) (m : PMsg) (id : Nat) (i : Instr) (region : Nat) (vals : List W64) : Prop :=
  m.hart = id ∧ m.instr = i ∧ m.region = region ∧ m.vals = vals ∧ m.serial = s.serial ∧
  m.slice = Region.home region (s.region region) (vals.getD 0 0) ∧ m.refused = false ∧ m.stale = false

/-- Outside MODE.DET a request may be sent: fewer than four are outstanding (R311), and the hart's earlier accesses are
performed (R318). -/
abbrev PantryFree (s : State) (id : Nat) (h : Hart) : Prop :=
  h.det = false ∧ h.preqs.length < 4 ∧ h.drain = [] ∧ s.postedAtoms id = false ∧ s.remoteOut id true = false

end Sys2Proof.Claims

/-- R308, R309, R311, R313: outside MODE.DET, PCOPY, PTAKE, PCNT, PDEP and PCNL send their request to the region's home
slice and go on: a request is outstanding, its status register and bound registers, or the words of its row's bound
fields, are empty, and nothing else changes. A PCNL with no such request answers 3 at once. The model's choices it rests
on: log 34. -/
def Obligations.PantryRequests : Prop :=
  (∀ (i : Instr) (s : State) (id : Nat) (h : Hart) (g : Gang) (o : SForm) (row : Option Nat) (pa : Option Nat) (n : Nat),
    Runs i s id h g → WellFormed i = true → asking i = some (o, row) → PantryFree s id h → AsksFor s h o .store row n pa →
    (∀ a, pa = some a → s.coreHeld id a = false ∧ s.boundReserved o a = false) → s.upsets = [] →
    ∃ t h' m p, Completes i s t ∧ t.hartAt id = some h' ∧ t.pmsgs = s.pmsgs ++ [m] ∧
      Carries s m id i n ((regsFrom o.b.toNat o.pV).map h.reg) ∧
      h'.preqs = h.preqs ++ [p] ∧ p.serial = s.serial ∧ p.instr = i ∧ p.status = some o.d ∧ p.rowPa = pa ∧
      h'.conv = h.advance.conv ∧ SameRegs [] h h' ∧
      (∀ r, h'.isFull r = if r ≠ 0 ∧ r ∈ emptiedBy i o row then false else h.isFull r) ∧
      (∀ a, t.memByte a = s.memByte a) ∧
      (∀ k, (t.rowAt k).data = (s.rowAt k).data ∧ (t.rowAt k).tags = (s.rowAt k).tags) ∧
      (row = none → ∀ k, t.rowAt k = s.rowAt k) ∧
      ∀ a q off, pa = some a → s.home a = .ls q off → ∀ k w, w < 16 →
        (t.rowAt k).full.getLsbD w = if k = s.lsRow q (off / 64) ∧ w / 2 ∈ bound o then false else (s.rowAt k).full.getLsbD w) ∧
  (∀ (s : State) (id : Nat) (h : Hart) (g : Gang) (o : SForm) (n : Nat),
    Runs (.pdep o) s id h g → WellFormed (.pdep o) = true → o.ext.getLsbD 21 = false → PantryFree s id h →
    AsksFor s h o .load none n none →
    ∃ t h' m, Completes (.pdep o) s t ∧ t.hartAt id = some h' ∧ t.pmsgs = s.pmsgs ++ [m] ∧
      Carries s m id (.pdep o) n ((regsFrom o.b.toNat o.pK).map h.reg) ∧
      h'.preqs.length = h.preqs.length + 1 ∧ SameRegs [] h h' ∧
      (∀ r, h'.isFull r = if r ≠ 0 ∧ o.ext.getLsbD 20 = true ∧ r = o.d then false else h.isFull r) ∧ SameStores s t) ∧
  (∀ (s : State) (id : Nat) (h : Hart) (g : Gang) (o : SForm) (n : Nat) (pa : Nat),
    Runs (.pdep o) s id h g → WellFormed (.pdep o) = true → o.ext.getLsbD 21 = true → PantryFree s id h →
    AsksFor s h o .load (some o.b.toNat) n (some pa) → s.accessHeld id pa 64 = false →
    s.physPoison pa (8 * o.pK) = false →
    ∃ t h' m, Completes (.pdep o) s t ∧ t.hartAt id = some h' ∧ t.pmsgs = s.pmsgs ++ [m] ∧
      Carries s m id (.pdep o) n
        ((List.range o.pK).map fun j => BitVec.ofNat 64 (s.loadVal h (pa + 8 * j) 8)) ∧
      SameRegs [] h h' ∧ SameStores s t) ∧
  ∀ (s : State) (id : Nat) (h : Hart) (g : Gang) (o : SForm),
    Runs (.pcnl o) s id h g → WellFormed (.pcnl o) = true → PantryFree s id h →
    let target (p : PReq) : Bool := isGet p.instr && p.status == some (o.ext.extractLsb' 0 6)
    ((∀ p ∈ h.preqs, target p = false) → Completes (.pcnl o) s (finishedWith s id (wrote h o.d 3))) ∧
    ∀ p, h.preqs.find? target = some p →
      ∃ t h' m, Completes (.pcnl o) s t ∧ t.hartAt id = some h' ∧ t.pmsgs = s.pmsgs ++ [m] ∧ m.hart = id ∧
        m.instr = .pcnl o ∧ m.vals = [BitVec.ofNat 64 p.serial] ∧ m.region = p.region ∧
        m.slice = Region.home p.region (s.region p.region) (p.vals.getD 0 0) ∧
        (∀ r, h'.isFull r = if r ≠ 0 ∧ r = o.d then false else h.isFull r) ∧ SameRegs [] h h' ∧ SameStores s t

namespace Sys2Proof.Claims

/-- Message n is the next of its hart to arrive at its slice, and not stale or refused; its region is enabled. -/
abbrev Arrives (s : State) (m : PMsg) : Prop :=
  s.pmsgs[s.who]? = some m ∧ m.refused = false ∧ m.stale = false ∧ (s.region m.region).getLsbD 63 = true ∧
  ∀ e ∈ s.pmsgs.take s.who, e.hart = m.hart → e.slice = m.slice → e.refused = true

/-- The stored tuples a request may be served with. -/
def served (s : State) (m : PMsg) : List (Nat × Tuple) :=
  s.tuples.filter fun t => t.1 == m.slice && t.2.region == m.region && m.fits t.2.fields

/-- The parked deposits of a request's region at its slice, in park order. -/
def deposits (s : State) (m : PMsg) : List PMsg :=
  s.pparks.filter fun d => d.slice == m.slice && d.region == m.region && match d.instr with | .pdep _ => true | _ => false

/-- The parked requests that a deposit is offered to and that it matches, in park order (R315). -/
def waiting (s : State) (m : PMsg) : List PMsg :=
  s.pparks.filter fun q => q.slice == m.slice && q.region == m.region && isGet q.instr && q.fits m.vals

/-- Bytes that a list of tuples takes (R307). -/
def bytesOf (l : List (Nat × Tuple)) : Nat := (l.map fun t => 8 * (t.2.fields.length + 1)).sum

/-- The region's tuples at the slice, with one more of these values, fit its storage there (R303, R307). -/
abbrev Room (s : State) (m : PMsg) (tuples : List (Nat × Tuple)) (vals : List W64) : Prop :=
  bytesOf (tuples.filter fun t => t.1 == m.slice && t.2.region == m.region) + 8 * (vals.length + 1) ≤
    4096 * ((s.region m.region).extractLsb' 0 8).toNat

/-- The slice's table of 256 parked messages has room (R316). -/
abbrev TableRoom (s : State) (m : PMsg) : Prop := (s.pparks.filter fun q => q.slice == m.slice).length < 256

/-- The tuples without the one of this age, taken from a request's region and slice. -/
def taken (s : State) (m : PMsg) (age : Nat) : List (Nat × Tuple) :=
  s.tuples.filter fun y => !(y.1 == m.slice && y.2.region == m.region && y.2.age == age)

/-- The message is served: it is no longer in flight, and no row or byte changes. -/
def Serves (s t : State) : Prop :=
  Completes .pantryMessageServe s t ∧ t.pmsgs = s.pmsgs.eraseIdx s.who ∧ SameStores s t

/-- No earlier request of the host waits (R386). -/
abbrev HostFree (s : State) : Prop := s.hostQ = [] ∧ s.hostHeld = false

/-- A value matches a field's code: exact, within a range natural or signed, any (R308). -/
def fieldMatches (sr : Bool) (code : Nat) (lo hi f : W64) : Bool :=
  match code with
  | 1 => f == lo
  | 2 => if sr then decide (lo.toInt ≤ f.toInt ∧ f.toInt ≤ hi.toInt) else decide (lo.toNat ≤ f.toNat ∧ f.toNat ≤ hi.toNat)
  | _ => true

/-- Place of the values of field j among those of the pattern, which come in field order. -/
def valuePlace (o : SForm) (j : Nat) : Nat :=
  ((List.range j).map fun n => match o.pCode n with | 1 => 1 | 2 => 2 | _ => 0).sum

end Sys2Proof.Claims

/-- R308, R312, R313, R315 to R317, R305: a PTAKE or PCOPY is answered with the oldest matching tuple, stored or of a
parked deposit, which a PTAKE takes: parked deposits then enter the storage that is free, or their tuple counts as
accepted; one that matches nothing is answered with 1 under .nb and with 3 at a timeout of 0, and else parks, or is
refused by a full table. PCNT answers with the number of matches. A deposit goes to the parked requests it matches, up to
the first PTAKE, which takes it; else it is stored; without room it is answered with 1 under .nb, and else parks. PCNL
withdraws its parked target. A refused message is sent again; a reply writes the status and the bound fields, to
registers or to the words of a row, which become full; a timeout withdraws a parked request with status 3; a region is
disabled with its tuples, its parked requests answered with status 4 and its parked deposits accepted, or enabled, or the
write is refused. A tuple matches when every field does. The model's choices it rests on: log 34. -/
def Obligations.PantryService : Prop :=
  (∀ (s : State) (m : PMsg) (o : SForm) (x : Nat × Tuple), Arrives s m → x ∈ served s m →
    (∀ y ∈ served s m, x.2.age < y.2.age ∨ y = x) →
    let answered (t : State) : Prop := Serves s t ∧ t.preplies = s.preplies ++ [⟨m.serial, m.hart, 0, x.2.fields⟩]
    ((∀ d ∈ deposits s m, m.fits d.vals = true → x.2.age < d.age) → m.instr = .pcopy o →
      ∃ t, answered t ∧ t.tuples = s.tuples ∧ t.pparks = s.pparks) ∧
    (deposits s m = [] → m.instr = .ptake o →
      ∃ t, answered t ∧ t.tuples = taken s m x.2.age ∧ t.pparks = s.pparks) ∧
    ∀ d, deposits s m = [d] → x.2.age < d.age → d.posted = true → m.instr = .ptake o → Room s m (taken s m x.2.age) d.vals →
      ∃ t, answered t ∧ t.tuples = taken s m x.2.age ++ [(m.slice, ⟨m.region, d.age, d.vals⟩)] ∧
        t.pparks = (s.pparks.filter fun q => q.serial != d.serial) ∧
        ∀ h, s.hartAt d.hart = some h →
          t.hartAt d.hart = some { h with preqs := h.preqs.filter fun p => p.serial != d.serial }) ∧
  (∀ (s : State) (m d : PMsg) (o : SForm), Arrives s m → deposits s m = [d] → m.fits d.vals = true → d.posted = true →
    (∀ y ∈ served s m, d.age < y.2.age) →
    let answered (t : State) : Prop :=
      Serves s t ∧ t.preplies = s.preplies ++ [⟨m.serial, m.hart, 0, d.vals⟩] ∧ t.tuples = s.tuples
    (m.instr = .pcopy o → ∃ t, answered t ∧ t.pparks = s.pparks) ∧
    (m.instr = .ptake o → ∃ t, answered t ∧ t.pparks = (s.pparks.filter fun q => q.serial != d.serial) ∧
      ∀ h, s.hartAt d.hart = some h →
        t.hartAt d.hart = some { h with preqs := h.preqs.filter fun p => p.serial != d.serial })) ∧
  (∀ (s : State) (m : PMsg) (o : SForm), Arrives s m → served s m = [] → (∀ d ∈ deposits s m, m.fits d.vals = false) →
    (m.instr = .pcopy o ∨ m.instr = .ptake o) →
    let stays (t : State) : Prop := Completes .pantryMessageServe s t ∧ t.tuples = s.tuples ∧ t.harts = s.harts ∧ SameStores s t
    (o.ext.getLsbD 20 = true → ∃ t, stays t ∧ Serves s t ∧ t.preplies = s.preplies ++ [⟨m.serial, m.hart, 1, []⟩] ∧
      t.pparks = s.pparks) ∧
    (o.ext.getLsbD 20 = false → m.timeout = some 0 → s.detHart m.hart = false →
      ∃ t, stays t ∧ Serves s t ∧ t.preplies = s.preplies ++ [⟨m.serial, m.hart, 3, []⟩] ∧ t.pparks = s.pparks) ∧
    (o.ext.getLsbD 20 = false → m.timeout ≠ some 0 → TableRoom s m →
      ∃ t, stays t ∧ Serves s t ∧ t.preplies = s.preplies ∧ t.pparks = s.pparks ++ [m]) ∧
    (o.ext.getLsbD 20 = false → m.timeout ≠ some 0 → ¬TableRoom s m →
      ∃ t, stays t ∧ t.preplies = s.preplies ∧ t.pparks = s.pparks ∧
        t.pmsgs = s.pmsgs.eraseIdx s.who ++ [{ m with refused := true }])) ∧
  (∀ (s : State) (m : PMsg) (o : SForm), Arrives s m → m.instr = .pcnt o →
    ∃ t, Serves s t ∧ t.tuples = s.tuples ∧ t.pparks = s.pparks ∧ t.preplies = s.preplies ++ [⟨m.serial, m.hart,
      BitVec.ofNat 64 ((served s m).length + ((deposits s m).filter fun d => m.fits d.vals).length), []⟩]) ∧
  (∀ (s : State) (m : PMsg) (o : SForm), Arrives s m → m.instr = .pdep o →
    let d : PMsg := { m with age := s.pages }
    let nb (status : W64) : List PReply := if o.ext.getLsbD 20 then [⟨m.serial, m.hart, status, []⟩] else []
    let given (l : List PMsg) : List PReply := l.map fun q => ⟨q.serial, q.hart, 0, m.vals⟩
    (∀ before p after take, waiting s m = before ++ p :: after → p.instr = .ptake take →
      (∀ q ∈ before, ∃ c, q.instr = .pcopy c) →
      ∃ t, Serves s t ∧ t.tuples = s.tuples ∧ t.preplies = s.preplies ++ given (before ++ [p]) ++ nb 0 ∧
        ∀ q, q ∈ t.pparks ↔ q ∈ s.pparks ∧ ∀ w ∈ before ++ [p], q.serial ≠ w.serial) ∧
    ((∀ q ∈ waiting s m, ∃ c, q.instr = .pcopy c) →
      (Room s m s.tuples m.vals →
        ∃ t, Serves s t ∧ t.tuples = s.tuples ++ [(m.slice, ⟨m.region, s.pages, m.vals⟩)] ∧ t.pages = s.pages + 1 ∧
          t.preplies = s.preplies ++ given (waiting s m) ++ nb 0 ∧
          ∀ q, q ∈ t.pparks ↔ q ∈ s.pparks ∧ ∀ w ∈ waiting s m, q.serial ≠ w.serial) ∧
      (¬Room s m s.tuples m.vals → o.ext.getLsbD 20 = true →
        ∃ t, Serves s t ∧ t.tuples = s.tuples ∧ t.preplies = s.preplies ++ given (waiting s m) ++ nb 1) ∧
      (¬Room s m s.tuples m.vals → o.ext.getLsbD 20 = false → waiting s m = [] → TableRoom s m →
        ∃ t, Serves s t ∧ t.tuples = s.tuples ∧ t.preplies = s.preplies ∧ t.pparks = s.pparks ++ [d]))) ∧
  (∀ (s : State) (m : PMsg) (o : SForm) (serial : Nat), s.pmsgs[s.who]? = some m → m.refused = false → m.instr = .pcnl o →
    (∀ e ∈ s.pmsgs.take s.who, e.hart = m.hart → e.slice = m.slice → e.refused = true) →
    m.vals = [BitVec.ofNat 64 serial] → serial < 2 ^ 64 →
    (∀ q, s.pparks.find? (fun q => q.serial == serial) = some q →
      ∃ t, Completes .pantryMessageServe s t ∧ t.tuples = s.tuples ∧ SameStores s t ∧
        t.pparks = (s.pparks.filter fun q => q.serial != serial) ∧
        t.preplies = s.preplies ++ [⟨q.serial, q.hart, 2, []⟩, ⟨m.serial, m.hart, 0, []⟩]) ∧
    ((∀ q ∈ s.pparks, q.serial ≠ serial) → (∀ q ∈ s.pmsgs, q.serial ≠ serial) →
      ∃ t, Serves s t ∧ t.tuples = s.tuples ∧ t.pparks = s.pparks ∧
        t.preplies = s.preplies ++ [⟨m.serial, m.hart, 1, []⟩])) ∧
  (∀ (m : PMsg) (o : SForm) (fields : List W64), (m.instr = .pcopy o ∨ m.instr = .ptake o ∨ m.instr = .pcnt o) →
    m.vals.length = o.pV → fields.length = o.pK →
    (m.fits fields = true ↔ ∀ j, j < o.pK → fieldMatches (o.ext.getLsbD 19) (o.pCode j) (m.vals.getD (valuePlace o j) 0)
      (m.vals.getD (valuePlace o j + 1) 0) (fields.getD j 0) = true)) ∧
  (∀ (s : State) (m : PMsg), s.pmsgs[s.who]? = some m → m.refused = true →
    ∃ t, Completes .pantryRefuseRetry s t ∧ t.pmsgs = s.pmsgs.eraseIdx s.who ++ [{ m with refused := false }] ∧
      t.harts = s.harts ∧ SameStores s t) ∧
  (∀ (s : State) (r : PReply) (h : Hart) (p : PReq) (d : Reg) (o : SForm),
    s.preplies[s.who]? = some r → s.hartAt r.hart = some h →
    h.preqs.find? (fun p => p.serial == r.serial) = some p → p.status = some d → p.rowPa = none → h.det = false →
    (p.instr = .pcopy o ∨ p.instr = .ptake o) → o.pRes + (bound o).length ≤ 64 →
    ∃ t h', Completes .pantryReply s t ∧ t.hartAt r.hart = some h' ∧
      t.preplies = (s.preplies.filter fun x => x.serial != r.serial) ∧
      h'.preqs = (h.preqs.filter fun x => x.serial != r.serial) ∧ (d ≠ 0 → h'.reg d = r.status ∧ h'.isFull d = true) ∧
      (∀ n, n < (bound o).length → BitVec.ofNat 6 (o.pRes + n) ≠ d → o.pRes + n ≠ 0 →
        h'.reg (BitVec.ofNat 6 (o.pRes + n)) = (if r.status = 0 then r.fields.getD ((bound o).getD n 0) 0 else 0) ∧
        h'.isFull (BitVec.ofNat 6 (o.pRes + n)) = true) ∧
      SameRegs (d :: regsFrom o.pRes (bound o).length) h h' ∧ SameStores s t) ∧
  (∀ (s : State) (r : PReply) (h : Hart) (p : PReq) (d : Reg) (o : SForm) (pa q off : Nat),
    s.preplies[s.who]? = some r → s.hartAt r.hart = some h →
    h.preqs.find? (fun p => p.serial == r.serial) = some p → p.status = some d → p.rowPa = some pa → h.det = false →
    (p.instr = .pcopy o ∨ p.instr = .ptake o) → o.pK ≤ 8 → s.home pa = .ls q off → off % 64 = 0 →
    s.storeReserved pa 64 = false → s.coreMoving q = false → s.upsets = [] →
    ∃ t h', Completes .pantryReply s t ∧ t.hartAt r.hart = some h' ∧
      h'.preqs = (h.preqs.filter fun x => x.serial != r.serial) ∧ (d ≠ 0 → h'.reg d = r.status ∧ h'.isFull d = true) ∧
      SameRegs [d] h h' ∧ (∀ a, t.memByte a = s.memByte a) ∧
      (∀ k, k ≠ s.lsRow q (off / 64) → t.rowAt k = s.rowAt k) ∧
      (∀ j, j < 8 → takeBits (t.rowAt (s.lsRow q (off / 64))).data (64 * j) 64 =
        if j ∈ bound o ∧ r.status = 0 then (r.fields.getD j 0).toNat
        else takeBits (s.rowAt (s.lsRow q (off / 64))).data (64 * j) 64) ∧
      ∀ n, n < 16 → (t.rowAt (s.lsRow q (off / 64))).full.getLsbD n =
        (decide (n / 2 ∈ bound o) || (s.rowAt (s.lsRow q (off / 64))).full.getLsbD n)) ∧
  (∀ (s : State) (id : Nat) (d : Reg) (h : Hart) (p : PReq) (m : PMsg), s.hartAt id = some h → h.det = false →
    h.preqs.find? (fun p => isGet p.instr && p.timeout.isSome && p.status == some d) = some p →
    s.pparks.find? (fun m => m.serial == p.serial) = some m →
    ∃ t, Completes (.pantryTimeout id d.toNat) s t ∧ t.preplies = s.preplies ++ [⟨m.serial, m.hart, 3, []⟩] ∧
      (∀ q ∈ t.pparks, q.serial ≠ p.serial) ∧ SameStores s t) ∧
  ∀ (s : State) (n : Nat) (v : W64), n < 256 → HostFree s → s.dev.recov = false →
    let fields : W64 := v &&& 0x0000000000FFFCFF
    let cap := (v.extractLsb' 0 8).toNat
    let discards (t : State) : Prop :=
      (∀ x ∈ t.tuples, x.2.region ≠ n) ∧ (∀ m ∈ t.pparks, m.region ≠ n) ∧
      (t.preplies = s.preplies ++
        (s.pparks.filter fun m => m.region == n && !m.posted).map fun m => ⟨m.serial, m.hart, 4, []⟩) ∧
      ∀ id h, s.hartAt id = some h → t.hartAt id = some { h with preqs := h.preqs.filter fun p =>
        !(s.pparks.any fun m => m.region == n && m.posted && m.serial == p.serial) }
    let writes (t : State) (e : W64) : Prop := Completes (.prgnWrite n v) s t ∧ t.region n = e ∧
      (∀ k, k ≠ n → t.region k = s.region k) ∧ SameStores s t
    (v.getLsbD 63 = false → ∃ t, writes t fields ∧ discards t) ∧
    (v.getLsbD 63 = true → 1 ≤ cap → cap ≤ 128 → (∀ sl, sl < 128 → s.sliceCaps n v sl ≤ 128) →
      ∃ t, writes t (fields ||| 0x8000000000000000) ∧ t.tuples = s.tuples ∧ t.pparks = s.pparks) ∧
    (v.getLsbD 63 = true → (cap = 0 ∨ 128 < cap ∨ ∃ sl, sl < 128 ∧ 128 < s.sliceCaps n v sl) →
      ∃ t, writes t (fields ||| 0x4000000000000000) ∧
        ((s.region n).getLsbD 63 = true → discards t) ∧
        ((s.region n).getLsbD 63 = false → t.tuples = s.tuples ∧ t.pparks = s.pparks))

namespace Sys2Proof.Claims

/-! ## The Cellar (R324 to R349) -/

/-- Doublewords at va, va + 8, … of this device's memory, when every one is aligned, may be loaded, is not held and holds no
poison. -/
def dwords (s : State) (id : Nat) (h : Hart) (va : W64) (n : Nat) : Option (List W64) :=
  ((List.range n).mapM fun j => one (va + BitVec.ofNat 64 (8 * j)))
where
  /-- One doubleword. -/
  one (a : W64) : Option W64 :=
    match s.access (s.agentOf h) a .load 0 with
    | .ok pa =>
      match s.home pa with
      | .mem _ =>
        if a.toNat % 8 = 0 && !s.accessHeld id pa 8 && !s.physPoison pa 8 then some (BitVec.ofNat 64 (s.physVal pa 8)) else none
      | _ => none
    | .error _ => none

/-- Bits [hi:lo] of doubleword n of a node. -/
def part (ws : List W64) (n hi lo : Nat) : Nat := (ws.getD n 0).toNat / 2 ^ lo % 2 ^ (hi + 1 - lo)

/-- A node breaks none of R328's conditions. -/
def nodeOk (ws : List W64) : Bool :=
  part ws 0 63 58 == 0 && part ws 0 55 48 == 0 && part ws 2 63 52 == 0 && part ws 2 6 0 == 0 && part ws 3 3 0 == 0 &&
  part ws 1 63 32 != 0 && ((part ws 0 56 56 == 1) == (part ws 2 51 7 == 0)) &&
  decide (part ws 0 47 0 + part ws 1 63 32 ≤ 2 ^ 48)

/-- The walk of R328 with k nodes to read: the address it ends at, if it meets no fault. -/
def walked (rd : W64 → Nat → Option (List W64)) (bnd : Bool) (pos lh : Nat) : Nat → W64 → Option W64
  | 0, _ => none
  | k + 1, n =>
    match rd n 4 with
    | none => none
    | some ws =>
      if !nodeOk ws then none
      else if pos < part ws 0 47 0 then
        if part ws 0 56 56 = 1 then none else walked rd bnd pos lh k (BitVec.ofNat 64 (part ws 2 51 7 * 128))
      else
        let off := pos - part ws 0 47 0
        let len := part ws 1 63 32
        if len ≤ off || part ws 3 63 52 < lh then none
        else
          match rd (BitVec.ofNat 64 (part ws 3 51 4 * 16 + 16 * (lh * ((len + 63) / 64) + off / 64))) 2 with
          | none => none
          | some es =>
            if part es (if bnd then 1 else 0) 0 0 = 0 then none
            else if bnd then some (BitVec.ofNat 64 (part es 1 51 9 * 512))
            else some (BitVec.ofNat 64 (part es 0 51 15 * 32768 + 256 * (off % 64)))

/-- What a walk from a leaf gives hart id; the hart's own stores on the way are not seen. -/
def walkOf (s : State) (id : Nat) (h : Hart) (bnd : Bool) (leaf pos lh : W64) : Option W64 :=
  if leaf.toNat % 128 = 0 then walked (dwords s id h) bnd pos.toNat lh.toNat 32 leaf else none

/-- The walker keeps no node and reads every one at its home (R330). -/
abbrev NoNodes (s : State) : Prop := s.nodes = [] ∧ s.keep = false

/-- BF16 value d at pa, as a load of the hart gives it. -/
def bf16 (s : State) (h : Hart) (pa d : Nat) : Nat := s.loadVal h (pa + 8 * (d / 4)) 8 / 2 ^ (16 * (d % 4)) % 65536

/-- The score bound of a page (R334) from a query at q and a bounds entry at e: its pattern and flags. -/
def scoreBound (s : State) (h : Hart) (q e : Nat) : Nat × BitVec 6 :=
  let step (acc : Nat × BitVec 6) (d : Nat) : Nat × BitVec 6 :=
    let x := boundMul h.fz (bf16 s h q d) (bf16 s h e d)
    let y := boundMul h.fz (bf16 s h q d) (bf16 s h e (128 + d))
    let r := boundAdd h.fz acc.1 (pickType 2 32 true x.1 y.1)
    (r.1, acc.2 ||| x.2 ||| y.2 ||| r.2)
  let r := (List.range 128).foldl step (0, 0)
  if (fmtOf 2).isNan r.1 then (0x7FC00000, 0) else (r.1, r.2 &&& (fOF ||| fUF ||| fNX))

/-- n bytes at va: aligned to n, translated through core c of the gang, in memory, not held and not poisoned. -/
def Span (s : State) (id : Nat) (h : Hart) (c : Nat) (va : W64) (n pa : Nat) : Prop :=
  va.toNat % n = 0 ∧ s.access (s.agentOf h c) va .load 0 = .ok pa ∧ s.accessHeld id pa n = false ∧
  ∀ j, j < n / 8 → (∃ a, s.home (pa + 8 * j) = .mem a) ∧ s.physPoison (pa + 8 * j) 8 = false

end Sys2Proof.Claims

/-- R328, R331, R332, R334, R225: a walk that meets no fault ends at the page or bounds address: CWALK sends it to sd,
VCWALK marks D empty in every element that acts and sends each its address, CELLAR_WALK_SERVE the same for a hart that
waits; VCBOUND writes every acted element's score bound; PAGE_WALK of an address that misses enters its translation into
the TLBs of the core and of its cluster, where they have room. The model's choices it rests on: log 7, 35. -/
def Obligations.CellarWalks : Prop :=
  (∀ (s : State) (id : Nat) (h : Hart) (g : Gang) (o : SForm) (x : W64),
    Runs (.cwalk o) s id h g → WellFormed (.cwalk o) = true → NoNodes s →
    walkOf s id h (o.ext.getLsbD 6) (h.reg o.a) (h.reg o.b) (h.reg (o.ext.extractLsb' 0 6)) = some x →
    ∃ t, Completes (.cwalk o) s t ∧ t.hartAt id = some (awaits h o.d x).advance ∧ SameStores s t ∧
      (s.who = id → h.waiting = true → h.current = some (.cwalk o) → Completes .cellarWalkServe s t)) ∧
  (∀ (s : State) (id : Nat) (h : Hart) (g : Gang) (v : VForm) (x : Nat → W64),
    Runs (.vcwalk v) s id h g → WellFormed (.vcwalk v) = true → NoNodes s → Sound s → Apart s h g →
    ReadsFull s h g v.m (if v.bm = 1 then [v.A] else [v.A, v.B]) →
    Unreserved s h g (acted s h g v.m) (Fld.words v.D) →
    (∀ e ∈ acted s h g v.m, walkOf s id h (v.fn4.getLsbD 2)
      (if v.bm = 1 then h.reg v.bReg else BitVec.ofNat 64 ((rowOf s h g e).fld v.B))
      (BitVec.ofNat 64 ((rowOf s h g e).fld v.A)) (h.reg (v.x.extractLsb' 0 6)) = some (x e)) →
    ∃ t, Completes (.vcwalk v) s t ∧
      RowsBecome s t h g (acted s h g v.m) (fun _ r => wordsMarked r (Fld.start v.D) (Fld.width v.D) false) ∧
      t.hartAt id = some ({ h with vfills := (acted s h g v.m).map fun e =>
        ⟨s.elemKey g h.slot e, Fld.start v.D, Fld.width v.D, (x e).toNat⟩ } : Hart).advance ∧
      (s.who = id → h.waiting = true → h.current = some (.vcwalk v) → Completes .cellarWalkServe s t)) ∧
  (∀ (s : State) (id : Nat) (h : Hart) (g : Gang) (v : VForm) (q : Nat) (pa : Nat → Nat),
    Runs (.vcbound v) s id h g → WellFormed (.vcbound v) = true → Sound s → Apart s h g → ReadsFull s h g v.m [v.A] →
    Unreserved s h g (acted s h g v.m) (Fld.words v.D) → Span s id h 0 (h.reg v.bReg) 256 q →
    s.lines.length + 1 + (acted s h g v.m).length ≤ 24576 →
    (∀ e ∈ acted s h g v.m, Span s id h (g.elemCore e - g.first) (BitVec.ofNat 64 ((rowOf s h g e).fld v.A)) 512 (pa e)) →
    ∃ t, Completes (.vcbound v) s t ∧
      LaneDone ⟨v.m, [v.A], fun e _ => [(v.D, (scoreBound s h q (pa e)).1)], fun _ => none,
        fun e _ => (scoreBound s h q (pa e)).2⟩ s id h g t) ∧
  ∀ (s : State) (id : Nat) (va : W64) (h : Hart) (x : Xl), s.hartAt id = some h →
    let a := s.agentOf h
    let entry (core : Option Nat) : Tlb := ⟨a.core / 24, core, a.queue,
      va.toNat / 2 ^ Pte.logSize x.leaf * 2 ^ Pte.logSize x.leaf, 2 ^ Pte.logSize x.leaf, x.leaf, x.en, x.nf⟩
    s.tlbHit a.core a.queue va.toNat = none → s.walkXl a.queue va.toNat = some x →
    (s.tlb.filter fun e => e.core == some a.core).length < 1024 →
    (s.tlb.filter fun e => e.core.isNone && e.cluster == a.core / 24).length < 16384 →
    ∃ t, Completes (.pageWalk id va) s t ∧ t.harts = s.harts ∧ SameStores s t ∧
      t.tlb = entry (some a.core) :: entry none :: s.tlb

namespace Sys2Proof.Claims

/-- The address of the map doubleword of position q in layer group lg (R336). -/
def mapAddr (c : Canvas) (lg q : Nat) : W64 := BitVec.ofNat 64 (c.base + 8 * ((lg * (64 * ((c.len + 63) / 64)) + q) / 64))

/-- Every map doubleword of the positions in groups lo to hi may be written and lies in this device's memory. -/
def MapThere (s : State) (h : Hart) (c : Canvas) (ps : Nat → Prop) (lo hi : Nat) : Prop :=
  ∀ lg q, lo ≤ lg → lg ≤ hi → ps q → ∃ pa a, s.access (s.agentOf h) (mapAddr c lg q) .store 0 = .ok pa ∧ s.home pa = .mem a

/-- The posted requests l of hart id set, or clear, exactly the bits of the positions in groups lo to hi (R336, R342). -/
def Marks (s : State) (id : Nat) (h : Hart) (l : List AtomReq) (clear : Bool) (c : Canvas) (ps : Nat → Prop) (lo hi : Nat) :
    Prop :=
  (∀ a ∈ l, a.hart = id ∧ a.fn = (if clear then 6 else 7) ∧ a.size = 8 ∧ a.dest = .posted) ∧
  (∀ lg q, lo ≤ lg → lg ≤ hi → ps q →
    ∃ a ∈ l, s.access (s.agentOf h) (mapAddr c lg q) .store 0 = .ok a.pa ∧ a.v.getLsbD (q % 64) = !clear) ∧
  ∀ a ∈ l, ∀ b, b < 64 → a.v.getLsbD b = !clear →
    ∃ lg q, lo ≤ lg ∧ lg ≤ hi ∧ ps q ∧ q % 64 = b ∧ s.access (s.agentOf h) (mapAddr c lg q) .store 0 = .ok a.pa

/-- A canvas descriptor at va, well formed, in this device's memory (R335, R337). -/
def CanvasAt (s : State) (id : Nat) (h : Hart) (va : W64) (c : Canvas) : Prop :=
  va.toNat % 64 = 0 ∧ ∃ ws, dwords s id h va 8 = some ws ∧ canvasOf ws = some c

/-- A confidence reaches the threshold (R339, R340). -/
def confident (v : VForm) (tau x : Nat) : Bool :=
  if v.ty = 0 then decide (tau ≤ x)
  else !(fmtOf v.ty).isNan x && !(fmtOf v.ty).isNan tau && decide ((fmtOf v.ty).keyEq tau ≤ (fmtOf v.ty).keyEq x)

/-- How many positions an UNMK commits of the masked ones (R340). -/
def commits (p : Policy) (v : VForm) (xs : List Nat) : Nat :=
  let n := if p.th then (xs.filter (confident v p.tau)).length else (Min.min p.share 256 * xs.length + 255) / 256
  Min.min (Min.min (Max.max n p.nmin) p.nmax) xs.length

/-- Pset of R342 for the committed elements. -/
def Marked (p : Policy) (len : Nat) (cset : List Nat) (round q : Nat) : Prop :=
  if p.fe = true ∧ (round + 1) % p.period = 0 then q < len
  else ∃ i ∈ cset, q = p.p0 + i ∨ (p.re = true ∧ q < len ∧ q ≤ p.p0 + i + p.radius ∧ p.p0 + i ≤ q + p.radius)

end Sys2Proof.Claims

/-- R340, R342, R345, R346: UNMK whose checks pass commits the best positions, no more and no fewer than the policy
says: their tokens are written, their mask tag cleared, tc marks them among all elements below VL, sd is sent their
number, and posted requests set the map bits of R342 (outside MODE.DET, under which they are performed at once); with FE
the round counter goes up by one. VCDIRTY writes the map bits of its elements to td, and .clr clears them and no other
bit; CDIRTY posts the setting or clearing of a block of bits. The model's choices it rests on: log 35. -/
def Obligations.Unmasking : Prop :=
  (∀ (s : State) (id : Nat) (h : Hart) (g : Gang) (v : VForm) (c : Canvas) (rd : Nat),
    Runs (.unmk v) s id h g → WellFormed (.unmk v) = true → Sound s → Apart s h g → ReadsFull s h g v.m [v.A, v.B] →
    Unreserved s h g (actives s h g v.m) (Fld.words v.D) → h.det = false → h.buf = [] → s.settledFor id h 3 = true →
    s.lines.length < 24576 → s.migs = [] → s.heldAt = [] →
    let p := h.policy (v.x.extractLsb' 3 6).toNat
    CanvasAt s id h p.desc c → p.lg0 ≤ c.nlg → (p.re = true → p.radius ≠ 0) → (p.fe = true → p.period ≠ 0) → p.clean = true →
    (∀ e ∈ actives s h g v.m, p.p0 + e < c.len) →
    (p.fe = true → ∃ pa, s.access (s.agentOf h) p.desc .atomic 0 = .ok pa ∧
      s.access (s.agentOf h) (p.desc + 16) .atomic 0 = .ok (pa + 16) ∧ s.home (pa + 16) = .mem rd ∧ rd % 4 = 0 ∧
      s.pageMoving (pa + 16) = false ∧ s.accessHeld id (pa + 16) 4 = false ∧ s.physPoison (pa + 16) 4 = false) →
    (∀ cset : List Nat, (∀ e ∈ cset, e ∈ actives s h g v.m) → MapThere s h c (Marked p c.len cset c.round) p.lg0 c.nlg) →
    ∃ (t : State) (cset : List Nat) (l : List AtomReq), Completes (.unmk v) s t ∧
      cset.length = commits p v ((actives s h g v.m).map (fieldA s h g v)) ∧ cset.Nodup ∧
      (∀ e ∈ cset, e ∈ actives s h g v.m) ∧
      (∀ e ∈ cset, ∀ k ∈ actives s h g v.m, k ∉ cset →
        ranksBefore (rankOf s h g v e) (rankOf s h g v k) = true ∨ (rankOf s h g v e = rankOf s h g v k ∧ e < k)) ∧
      (∀ e, e < h.vl → t.rowAt (s.elemKey g h.slot e) =
        withTag (if e ∈ cset then withTag (withField (rowOf s h g e) (Fld.start v.D) (Fld.width v.D) ((rowOf s h g e).fld v.B))
          v.m.tag false else rowOf s h g e) (v.x.extractLsb' 0 3) (decide (e ∈ cset))) ∧
      (∀ k, (∀ e, e < h.vl → s.elemKey g h.slot e ≠ k) → t.rowAt k = s.rowAt k) ∧
      t.hartAt id = some (reducedTo h 0 (actives s h g v.m == []) (v.x.extractLsb' 9 6) (BitVec.ofNat 64 cset.length)).advance ∧
      t.atoms = s.atoms ++ l ∧ Marks s id h l false c (Marked p c.len cset c.round) p.lg0 c.nlg ∧
      (p.fe = false → ∀ a, t.memByte a = s.memByte a) ∧
      (p.fe = true → OnlyStored s t rd 4 (BitVec.ofNat 64 ((c.round + 1) % 2 ^ 32)))) ∧
  (∀ (s : State) (id : Nat) (h : Hart) (g : Gang) (v : VForm) (c : Canvas) (pa a : Nat → Nat),
    Runs (.vcdirty v) s id h g → WellFormed (.vcdirty v) = true → Sound s → Apart s h g → ReadsFull s h g v.m [v.A] →
    h.buf = [] → h.drain = [] → s.hasPosted id h = false → s.remotes = [] → CanvasAt s id h (h.reg v.bReg) c →
    s.lines.length + (acted s h g v.m).length ≤ 24576 →
    let lg := (h.reg (v.x.extractLsb' 0 6)).toNat
    let clr := v.fn4.getLsbD 2
    (clr = true → s.settledFor id h 3 = true) →
    let pos (e : Nat) : Nat := (rowOf s h g e).fld v.A
    lg ≤ c.nlg →
    (∀ e ∈ acted s h g v.m, pos e < c.len ∧
      s.access (s.agentOf h) (mapAddr c lg (pos e)) (if clr then .atomic else .load) 0 = .ok (pa e) ∧
      s.home (pa e) = .mem (a e) ∧ a e % 8 = 0 ∧ s.accessHeld id (pa e) 8 = false ∧ s.physPoison (pa e) 8 = false ∧
      s.pageMoving (pa e) = false) →
    (∀ e ∈ acted s h g v.m, ∀ k ∈ acted s h g v.m, e ≠ k → s.redirect (a e) ≠ s.redirect (a k) ∨ pos e % 64 ≠ pos k % 64) →
    ∃ t, Completes (.vcdirty v) s t ∧ t.hartAt id = some h.advance ∧
      (∀ e ∈ acted s h g v.m, t.rowAt (s.elemKey g h.slot e) =
        withTag (rowOf s h g e) v.dTag ((dwordAt s (a e)).getLsbD (pos e % 64))) ∧
      (∀ k, (∀ e ∈ acted s h g v.m, s.elemKey g h.slot e ≠ k) → t.rowAt k = s.rowAt k) ∧
      (clr = false → ∀ x, t.memByte x = s.memByte x) ∧
      (clr = true → (∀ e ∈ acted s h g v.m, (dwordAt t (a e)).getLsbD (pos e % 64) = false) ∧
        (∀ e ∈ acted s h g v.m, ∀ b, b < 64 →
          (∀ k ∈ acted s h g v.m, s.redirect (a k) ≠ s.redirect (a e) ∨ pos k % 64 ≠ b) →
          (dwordAt t (a e)).getLsbD b = (dwordAt s (a e)).getLsbD b) ∧
        ∀ x, (∀ e ∈ acted s h g v.m, ∀ j, j < 8 → s.redirect x ≠ s.redirect (a e + j)) → t.memByte x = s.memByte x)) ∧
  ∀ (s : State) (id : Nat) (h : Hart) (g : Gang) (o : SForm) (c : Canvas),
    Runs (.cdirty o) s id h g → WellFormed (.cdirty o) = true → h.det = false → h.buf = [] → s.settledFor id h 3 = true →
    CanvasAt s id h (h.reg o.a) c →
    let n := (o.ext.extractLsb' 0 16).toNat + 1
    let lo := (o.ext.extractLsb' 16 6).toNat
    let hi := (o.ext.extractLsb' 22 6).toNat
    let block (q : Nat) : Prop := (h.reg o.b).toNat ≤ q ∧ q < (h.reg o.b).toNat + n
    lo ≤ hi → hi ≤ c.nlg → (h.reg o.b).toNat + n ≤ c.len → MapThere s h c block lo hi →
    ∃ t l, Completes (.cdirty o) s t ∧ t.hartAt id = some h.advance ∧ t.atoms = s.atoms ++ l ∧
      Marks s id h l (o.so == 1) c block lo hi ∧ SameStores s t

namespace Sys2Proof.Claims

/-! ## Traps, returns and ends (R362, R366 to R375) -/

/-- The bits [51:2] of an address. -/
def aligned (x : W64) : W64 := x &&& 0x000FFFFFFFFFFFFC

/-- h' is h in its handler (R368): the user handler, or the privileged one; registers, VL and the loop registers are as
they were, and the other handler's trap registers too; the flags of matrix results committed meanwhile join FST, whose
other bits stay; the flags its convoy changed from 0 to 1, with these, join the pending watch set, outside a handler
(R372). -/
def Entered (h h' : Hart) (user : Bool) (code : Nat) (addr : W64) (k : Nat) (tval : W64) : Prop :=
  SameRegs [] h h' ∧ SameLoops h h' ∧ h'.fst = h.fst ||| h.mflags ∧ h'.frm = h.frm ∧ h'.vstat = h.vstat ∧ SameVector h h' ∧
  h'.conv = none ∧ h'.ci = 0 ∧ h'.entry = .landing ∧
  (let new := ((h.conv.map Conv.raised).getD 0) ||| (h.mflags &&& ~~~h.fst)
   (h'.pwatch, h'.pwatchPc) =
    if h.uh = true ∨ h.ph = true ∨ new = 0 then (h.pwatch, h.pwatchPc)
    else ((if h.pwatchPc = h.pc then h.pwatch else 0) ||| new, h.pc)) ∧
  if user then
    (h'.uh, h'.tcode, h'.tpc, h'.tci, h'.tval) = (true, BitVec.ofNat 8 code, aligned addr, BitVec.ofNat 2 k, tval) ∧
    h'.pc = h.uhpc ∧ h'.view = h.view ∧
    (h'.ph, h'.ppv, h'.ptcode, h'.ptpc, h'.ptci, h'.ptval) = (h.ph, h.ppv, h.ptcode, h.ptpc, h.ptci, h.ptval)
  else
    (h'.ph, h'.ppv, h'.ptcode, h'.ptpc, h'.ptci, h'.ptval) =
      (true, h.view, BitVec.ofNat 8 code, aligned addr, BitVec.ofNat 2 k, tval) ∧
    h'.pc = h.tvec ∧ h'.view = true ∧ (h'.uh, h'.tcode, h'.tpc, h'.tci, h'.tval) = (h.uh, h.tcode, h.tpc, h.tci, h.tval)

/-- A trap of the user class is taken by the user handler (R368). -/
abbrev UserHandled (h : Hart) (user : Bool) : Prop := user = true ∧ h.view = false ∧ h.uh = false ∧ h.uhpc ≠ 0

/-- The queue's launch is ended with a status, a convoy address, a value and a HARTID (R373). -/
def Ended (t : State) (q : Nat) (la : Launch) (e : Nat × W64 × W64 × Nat) : Prop :=
  t.launchAt q = some { la with ending := some e } ∧ (t.lqAt q).state = 5

/-- After a trap with these values: the handler that R368 gives, or with none the end of the launch. -/
def Trapped (s t : State) (id : Nat) (h : Hart) (user : Bool) (code : Nat) (addr : W64) (k : Nat) (tval : W64) : Prop :=
  SameStores s t ∧
  (UserHandled h user → ∃ h', t.hartAt id = some h' ∧ Entered h h' true code addr k tval) ∧
  (¬ UserHandled h user → h.ph = false → h.tvec ≠ 0 → ∃ h', t.hartAt id = some h' ∧ Entered h h' false code addr k tval) ∧
  (¬ UserHandled h user → (h.ph = true ∨ h.tvec = 0) →
    (∃ h', t.hartAt id = some h' ∧ SameSpecial h h') ∧
    ∀ la, s.launchAt h.queue = some la → la.ending = none → Ended t h.queue la (code, addr, tval, h.hartid))

/-- Instruction k of a convoy is one that the gang's shape and the hart's view allow (R55). -/
def RightAt (h : Hart) (g : Gang) (l : List (Parcel × Except Reject Instr)) (k : Nat) : Prop :=
  ∃ p i, l[k]? = some (p, .ok i) ∧ shapeIllegal h g i = false ∧ lacksRight h i = false

/-- Instruction i at index k of a convoy writes a word that an earlier one reads (R51). -/
def WritesRead (h : Hart) (is : List Instr) (k : Nat) (i : Instr) : Prop :=
  ∃ j i', j < k ∧ is[j]? = some i' ∧ (footAfter h (is.take k) i).breaks (footAfter h (is.take j) i') = true

/-- The rule of R52 that instruction i at index k of a convoy breaks: 1, 2 or 3. -/
def Breach (h : Hart) (is : List Instr) (k : Nat) (i : Instr) : Nat → Prop
  | 1 => WritesRead h is k i
  | 2 => ¬ WritesRead h is k i ∧ ∃ i' ∈ is.take k, isTransfer i' = true
  | 3 => ¬ WritesRead h is k i ∧ (∀ i' ∈ is.take k, isTransfer i' = false) ∧ k = 1 ∧ ∃ i' ∈ is, isSystem i' = true
  | _ => False

/-- A source register that makes its convoy trap at issue: poisoned, or empty with policy 1, and written by no earlier
instruction of the convoy (R66, R68). -/
def badSource (h : Hart) (before : List Instr) (x : Reg × Bool) : Bool :=
  !(before.any fun i => (foot h i).dst.contains x.1) && (h.isPoisoned x.1 || (x.2 && !h.isFull x.1))

/-- The instructions of the Cellar, of whose registers no rule asks for bit 17 in an EMPTY_TRAP's value. -/
def ofCellar : Instr → Bool
  | .vcbound _ => true
  | .vcwalk _ => true
  | .vcdirty _ => true
  | .unmk _ => true
  | _ => false

/-- Instruction i is the one that hart id has come to in its convoy, and the gang's shape and the hart's view allow it. -/
abbrev Comes (i : Instr) (s : State) (id : Nat) (h : Hart) (g : Gang) : Prop :=
  isEvent i = false ∧ s.cur = some id ∧ s.hartAt id = some h ∧ s.gangAt h.gang = some g ∧ h.conv.isSome = true ∧
  stopped h = false ∧ shapeIllegal h g i = false ∧ lacksRight h i = false

end Sys2Proof.Claims

/-- R366, R368: a convoy that stopped at instruction k with a cause is left with VSTART at the stop's element, or as it
was, and its trap is entered with the cause's code, the convoy's address, k and the cause's value, by the user or the
privileged handler as R368 says; with no handler the launch ends and no trap register changes; the flags the convoy
raised stay as the pending watch set (R372). At issue the first of these traps: an undefined or illegal instruction, or
one that lacks the right (R55); CONVOY_RULE, with the rule that is broken (R51 to R54); POISON or EMPTY_TRAP of a source
register, with the value marked or the register's number, bit 17 set in the V form (R66, R68, R135). An instruction the
hart has come to stops at a poisoned register with POISON, at a field or row found empty at issue with EMPTY_TRAP, and
with VL above VLMAX with VL_RANGE (R190). The model's choices it rests on: log 10, 16, 24, 37. -/
def Obligations.TrapEntry : Prop :=
  (∀ (s : State) (h : Hart) (c : Conv) (k : Nat) (cause : Cause) (tval : W64) (e : Option Nat) (b : Bool),
    s.hartAt s.who = some h → h.conv = some c → c.instrs.length ≤ c.idx → c.stop = some ⟨k, some cause, tval, e, b⟩ →
    ∃ t, Completes .convoyRetire s t ∧
      Trapped s t s.who { h with vstart := e.getD h.vstart } cause.user cause.code h.pc k tval) ∧
  (∀ (s : State) (id : Nat) (h : Hart) (g : Gang) (line : Nat), s.pick s.who = some (id, h) → s.hartAt id = some h →
    s.gangAt h.gang = some g → h.conv = none → s.fetchAt h = (s, .ok line) →
    let l := Line.convoy line h.pc
    let is := decoded l
    let trap (c : Cause) (k : Nat) (v : W64) : Prop :=
      ∃ t, Completes .convoyIssue s t ∧ Trapped s t id h c.user c.code h.pc k v
    (∀ k p x, h.ci ≤ k → (∀ j, h.ci ≤ j → j < k → RightAt h g l j) → l[k]? = some (p, x) →
      ((∃ e, x = .error e) → trap .illegalOp k (p.setWidth 64)) ∧
      ∀ i, x = .ok i → (shapeIllegal h g i = true → trap .illegalOp k (p.setWidth 64)) ∧
        (shapeIllegal h g i = false → lacksRight h i = true → trap .priv k 0)) ∧
    ((∀ j, h.ci ≤ j → j < l.length → RightAt h g l j) →
      (∀ k i r, is[k]? = some i → (∀ j i' r', j < k → is[j]? = some i' → ¬ Breach h is j i' r') → Breach h is k i r →
        trap .convoyRule k (BitVec.ofNat 64 r)) ∧
      ((∀ j i r, is[j]? = some i → ¬ Breach h is j i r) →
        (∀ i ∈ is, s.valueCheck h g i = none ∧ s.addressCheck h i = none ∧
          ∀ x, tileName i = some x → s.report g h.slot x.1 x.2 = none) →
        ∀ k p i pre r pol post, h.ci ≤ k → l[k]? = some (p, .ok i) → (foot h i).src = pre ++ (r, pol) :: post →
          (∀ j i', h.ci ≤ j → j < k → is[j]? = some i' → ∀ x ∈ (foot h i').src, badSource h (is.take j) x = false) →
          (∀ x ∈ pre, badSource h (is.take k) x = false) → badSource h (is.take k) (r, pol) = true →
          if h.isPoisoned r = true then trap .poison k (h.poisonValue r)
          else trap .emptyTrap k (BitVec.ofNat 64 (r.toNat +
            if p.toNat % 4 = 2 ∧ p.toNat / 4 % 256 < 0xA0 ∧ ofCellar i = false then 2 ^ 17 else 0))))) ∧
  ∀ (i : Instr) (s : State) (id : Nat) (h : Hart) (g : Gang), Comes i s id h g →
    (∀ pre r pol post, (foot h i).src = pre ++ (r, pol) :: post → (∀ x ∈ pre, h.isPoisoned x.1 = false) →
      h.isPoisoned r = true → Stops i s id h .poison (h.poisonValue r) none) ∧
    ((∀ x ∈ (foot h i).src, h.isFull x.1 = true ∧ h.isPoisoned x.1 = false) → (∀ r ∈ (foot h i).dst, h.isFull r = true) →
      s.registerCheck h g i = none →
      (∀ v, s.verdict id h g i = some v → Stops i s id h .emptyTrap v (some h.vstart)) ∧
      (s.verdict id h g i = none → h.lateBreach i = false → isVector i = true → h.vlmax g < h.vl →
        Stops i s id h .vlRange (BitVec.ofNat 64 h.vl) none))

/-- R362, R369 to R371: BRK and SVC take their traps with the sequential successor, index 0 and the immediate; URET and
ERET return to the saved pc and index, ERET to the saved view; YIELD lets siblings issue first; EXIT of a hart with
nothing outstanding ends it, by HART_END too, and its slot is live no more; exit.fail ends the launch. -/
def Obligations.TrapsAndEnds : Prop :=
  ∀ (s : State) (id : Nat) (h : Hart) (g : Gang),
    (∀ imm : BitVec 12, Runs (.brk imm) s id h g →
      ∃ t, Completes (.brk imm) s t ∧ Trapped s t id h true 0x12 (linkOf h) 0 (imm.setWidth 64)) ∧
    (∀ imm : BitVec 12, Runs (.svc imm) s id h g →
      ∃ t, Completes (.svc imm) s t ∧ Trapped s t id h false 0x13 (linkOf h) 0 (imm.setWidth 64)) ∧
    (Runs .uret s id h g → h.view = false ∧ h.uh = true ∧
      Completes .uret s (finishedWith s id { h with
        pc := h.tpc, ci := h.tci.toNat, entry := .trapReturn, pwatch := if h.tpc = h.pwatchPc then h.pwatch else 0
        uh := false })) ∧
    (Runs .eret s id h g → h.view = true ∧
      Completes .eret s (finishedWith s id { h with
        pc := h.ptpc, ci := h.ptci.toNat, entry := .trapReturn, pwatch := if h.ptpc = h.pwatchPc then h.pwatch else 0
        view := h.ppv, ph := false })) ∧
    (Runs .yield s id h g → Completes .yield s (finishedWith s id { h with yielded := true })) ∧
    (Runs .exit s id h g → s.quiet id h = true → h.pantryBusy = false → h.slot < 4 →
      ∃ t, Completes .exit s t ∧
        (s.who = id → h.waiting = true → h.current = some .exit → Completes .hartEnd s t) ∧
        t.hartAt id = none ∧ (∀ a, t.memByte a = s.memByte a) ∧
        ((∃ e ∈ s.harts, e.1 ≠ id ∧ e.2.gang = h.gang) →
          (∀ x ∈ s.gangs, x.2.queue = h.queue → ∃ e ∈ s.harts, e.1 ≠ id ∧ e.2.gang = x.1) →
          (∀ k, t.rowAt k = s.rowAt k) ∧
          ∃ g', t.gangAt h.gang = some g' ∧ g'.live = g.live &&& ~~~BitVec.twoPow 4 h.slot)) ∧
    (∀ la, Runs .exitFail s id h g → s.launchAt h.queue = some la → la.ending = none →
      ∃ t, Completes .exitFail s t ∧ SameStores s t ∧
        Ended t h.queue la (if (1 ≤ h.ptcode.toNat ∧ h.ptcode.toNat ≤ 0x13) ∨ h.ptcode = 0x15 then h.ptcode.toNat else 0x22,
          h.ptpc, h.ptval, h.hartid))

namespace Sys2Proof.Claims

/-- The instructions that need the privileged view (R55, R70, R371, R374). -/
def privileged : Instr → Bool
  | .eret => true
  | .exitFail => true
  | .launch _ => true
  | .preempt _ => true
  | .ctxsv _ => true
  | .ctxld _ => true
  | .migr _ => true
  | .lcidset _ => true
  | .tlbinv _ => true
  | .tlbinva _ => true
  | .crd _ r => hidden r.toNat
  | .cwr _ r => hidden r.toNat
  | _ => false
where
  /-- Control registers that the unprivileged view does not have. -/
  hidden (r : Nat) : Bool := r = 0x070 || r = 0x071 || (0x080 ≤ r && r ≤ 0x084) || (0x090 ≤ r && r ≤ 0x09F)

/-- Nothing beside: the harts are in key order, no page moves, no migration is under way. -/
abbrev Still (s : State) : Prop := SMap.sorted s.harts = true ∧ s.mq.moving = none ∧ s.migs = []

/-- Instruction i does nothing but answer v in register d (R374). -/
def Answers (i : Instr) (s : State) (id : Nat) (h : Hart) (d : Reg) (v : Nat) : Prop :=
  ∃ t, Completes i s t ∧ t.hartAt id = some (wrote h d (BitVec.ofNat 64 v)).advance ∧ SameStores s t ∧ t.lqs = s.lqs ∧
    t.gangs = s.gangs ∧ t.lcids = s.lcids ∧ t.migs = s.migs ∧ t.cores = s.cores

/-! ## The context area (R365) -/

/-- The context area of n cores, of which `at' e off` is byte off of core e's region, lies in memory: 64 KiB page i of core
e's region at page `page e i`, all at different places. -/
abbrev AreaIn (s : State) (at' : Nat → Nat → Nat) (n : Nat) (page : Nat → Nat → Nat) : Prop :=
  0 < n ∧
  (∀ e off, e < n → off < 0x400000 → s.home (at' e off) = .mem (65536 * page e (off / 65536) + off % 65536)) ∧
  ∀ e e' i i', e < n → e' < n → i < 64 → i' < 64 →
    s.redirectPage s.redirects.length (page e i) = s.redirectPage s.redirects.length (page e' i') → e = e' ∧ i = i'

/-- Row j of array a of core e of gang x. -/
def gangRow (s : State) (x : Gang) (e a j : Nat) : Nat := rowKey (x.first + e) (s.physArray (x.first + e) a) j

/-- Row l of core e's region holds the row r: data, full/empty bits and tags. -/
def HoldsRow (s : State) (at' : Nat → Nat → Nat) (e l : Nat) (r : Row) : Prop :=
  (∀ d, d < 8 → s.physVal (at' e (64 * l + 8 * d)) 8 = takeBits r.data (64 * d) 64) ∧
  s.physVal (at' e (0x200000 + 2 * l)) 2 = r.full.toNat ∧ s.physVal (at' e (0x210000 + l)) 1 = r.tags.toNat

/-- The harts of gang k of state s in slots of x, all different, and the cores of x held by it: it can be saved. -/
abbrev Savable (s : State) (k : Nat) (x : Gang) : Prop :=
  (∀ e, e < x.g → s.gangOn (x.first + e) = some (k, x) ∧ x.na ≤ 4 * (s.lanesOf (x.first + e)).length) ∧
  (x.h = 1 ∨ x.h = 2 ∨ x.h = 4) ∧
  (∀ id h, s.hartAt id = some h → h.gang = k →
    h.slot < x.h ∧ id = hartKey x.queue (x.ordinal * x.h + h.slot) ∧ h.rows ≤ 1024 / x.h ∧ h.buf.length ≤ 0x4000)

/-- The area holds gang k of state s as R365 lays it out: the header; of each hart the registers with the values of their
poison marks, the full/empty and poison masks, the pc with the view, the descriptors and the control registers; of each
core the rows of the grants. -/
def Saved (s t : State) (at' : Nat → Nat → Nat) (k : Nat) (x : Gang) : Prop :=
  t.physVal (at' 0 0x3FF000) 8 =
    x.queue % 16 + 2 ^ 4 * (x.g.log2 % 4) + 2 ^ 6 * (x.h.log2 % 4) + 2 ^ 8 * (x.na % 64) + 2 ^ 16 + 2 ^ 32 * (x.ordinal % 2 ^ 16) ∧
  (∀ id h, s.hartAt id = some h → h.gang = k →
    let dw (off : Nat) : Nat := t.physVal (at' 0 (0x260000 + 0x8000 * h.slot + off)) 8
    (∀ r : Reg, dw (8 * r.toNat) = if h.isPoisoned r then (h.poisonValue r).toNat else (h.reg r).toNat) ∧
    dw 0x200 = h.full.toNat ∧ dw 0x208 = h.poison.toNat ∧
    (h.pc.toNat % 4 = 0 → dw 0x210 = h.pc.toNat + if h.view then 1 else 0) ∧
    (∀ n : Fin 4, dw (0x220 + 8 * n.val) = (h.adesc[n]).toNat) ∧
    ∀ r, r < 0xA0 → Legal.crNumber (BitVec.ofNat 12 r) = true →
      dw (0x400 + 8 * r) = (s.ctlRead { h with fst := h.fst ||| h.mflags } x r).toNat) ∧
  ∀ e n a j, e < x.g → n < x.h → a < x.na → x.vbase n ≤ j → j < x.vbase n + s.slotRows x n →
    HoldsRow t at' e (j * x.na + a) (s.rowAt (gangRow s x e a j))

/-- Core p is as R360 leaves it: its rows, tiles and deque are cleared. -/
def Cleared (t : State) (p : Nat) : Prop :=
  (∀ k, k / 32768 = p → t.rowAt k = Row.clear) ∧ (∀ w, w / 65536 = p → SMap.getD t.tileWords w 0 = 0) ∧
  (∀ n, n / 16 = p → t.tileAt n = Tile.free) ∧ (t.coreAt p).deque = []

/-- The harts and rows of gang x, on its new cores, are as the area gives them in state s (R365): each slot whose
full/empty mask has bit 0 set holds a hart. -/
def Loaded (s t : State) (at' : Nat → Nat → Nat) (x : Gang) : Prop :=
  (∀ n, n < x.h →
    let dw (off : Nat) : Nat := s.physVal (at' 0 (0x260000 + 0x8000 * n + off)) 8
    (dw 0x200).testBit 0 = true → ∃ h, t.hartAt (hartKey x.queue (x.ordinal * x.h + n)) = some h ∧
      (∀ r : Reg, r ≠ 0 → h.reg r = BitVec.ofNat 64 (dw (8 * r.toNat))) ∧
      h.full = BitVec.ofNat 64 (dw 0x200) ∧ h.poison = BitVec.ofNat 64 (dw 0x208) ∧
      h.pc = aligned (BitVec.ofNat 64 (dw 0x210)) ∧ h.view = (dw 0x210).testBit 0 ∧
      (h.vl, h.vstart, h.rows) = (dw 0x400 % 2 ^ 18, dw 0x408 % 2 ^ 18, s.areaRows at' x n) ∧
      (∀ n : Fin 4, h.adesc[n] = BitVec.ofNat 64 (dw (0x220 + 8 * n.val)))) ∧
  ∀ e n a j, e < x.g → n < x.h → a < x.na → x.vbase n ≤ j → j < x.vbase n + s.areaRows at' x n →
    HoldsRow s at' e (j * x.na + a) (t.rowAt (gangRow s x e a j))

end Sys2Proof.Claims

/-- R55: in the unprivileged view a privileged instruction, or a CRD or CWR of a register that view does not have, does
nothing: its convoy stops there with PRIV and value 0, for the trap of R368. The model's choices it rests on: log 16. -/
def Obligations.Privilege : Prop :=
  ∀ (i : Instr) (s : State) (id : Nat) (h : Hart) (g : Gang) (c : Conv),
    s.cur = some id → s.hartAt id = some h → s.gangAt h.gang = some g → h.conv = some c → c.idx = 0 → c.stop = none →
    h.view = false → privileged i = true →
    ∃ t h', exec i s = .next t ∧ t.hartAt id = some h' ∧
      h'.conv = some { c with idx := 1, stop := some ⟨0, some .priv, 0, none, false⟩ } ∧ SameRegs [] h h' ∧ SameSpecial h h' ∧
      SameLoops h h' ∧ SameFlags h h' ∧ SameVector h h' ∧ SameStores s t ∧ t.lqs = s.lqs ∧ t.gangs = s.gangs

/-- R363, R374, R375: the privileged instructions. LAUNCH copies the record to the queue's slot TAIL and makes it
visible; PREEMPT stops the queue's launch; CTXSV saves a settled gang of another position in the layout of R365, frees the
position and leaves its cores cleared (R360), CTXLD loads a gang and its harts and rows from an area onto a position; MIGR
begins a move, and completes once it is over; LCIDSET exchanges two idle cores' LCIDs; TLBINV and TLBINVA remove
translations. Their sd values are those of the table, with every refusal: LAUNCH 1 and 2, CTXSV 1 to 3, CTXLD 1 to 3, MIGR
1, LCIDSET 1. A misaligned record or area stops with ALIGN. The model's choices it rests on: log 25, 39, 40. -/
def Obligations.Privileged : Prop :=
  ∀ (s : State) (id : Nat) (h : Hart) (g : Gang) (o : SForm),
    let va := h.reg o.a
    let sb := (h.reg o.b).toNat
    (∀ pa a, Runs (.launch o) s id h g → va.toNat % 128 = 0 → s.access (s.agentOf h) va .load 0 = .ok pa →
      s.home pa = .mem a → s.home (pa + 64) = .mem (a + 64) → s.settledFor id h 3 = true → s.accessHeld id pa 128 = false →
      s.physPoison pa 64 = false → s.physPoison (pa + 64) 64 = false →
      let l := s.lqAt sb
      let slot := l.base.toNat + 128 * (l.tail % 2 ^ l.size.toNat)
      (l.en = false → Answers (.launch o) s id h o.d 2) ∧
      (l.en = true → (l.tail + 1) % 2 ^ l.size.toNat = l.head % 2 ^ l.size.toNat → Answers (.launch o) s id h o.d 1) ∧
      ∀ b, h.buf = [] → s.lines.length + 2 ≤ 24576 → Still s → s.home slot = .mem b → s.home (slot + 64) = .mem (b + 64) →
        b % 128 = 0 → l.en = true → (l.tail + 1) % 2 ^ l.size.toNat ≠ l.head % 2 ^ l.size.toNat →
        ∃ t, Completes (.launch o) s t ∧ t.hartAt id = some (wrote h o.d 0).advance ∧
          (∀ j, j < 128 → t.memByte (b + j) = s.memByte (a + j)) ∧
          (∀ x, (∀ j, j < 128 → s.redirect x ≠ s.redirect (b + j)) → t.memByte x = s.memByte x) ∧
          (∀ k, t.rowAt k = s.rowAt k) ∧ (t.lqAt sb).tail = (l.tail + 1) % 2 ^ l.size.toNat ∧
          (t.lqAt sb).gates = l.gates ++ [(h.xctl.getLsbD 2, l.privok)]) ∧
    (Runs (.launch o) s id h g → va.toNat % 128 ≠ 0 → Stops (.launch o) s id h .align va none) ∧
    (Runs (.preempt o) s id h g →
      ∃ t v, Completes (.preempt o) s t ∧ t.hartAt id = some (wrote h o.d v).advance ∧ SameStores s t ∧
        (va.toNat ≤ 15 → ∀ la, s.launchAt va.toNat = some la →
          (s.lqAt va.toNat).state = 1 ∨ (s.lqAt va.toNat).state = 4 →
          if la.ctx = 0 then v = 2 ∧ (t.lqAt va.toNat).preempt = true
          else v = 0 ∧ (t.lqAt va.toNat).state = 2 ∧
            ∀ k x, s.gangAt k = some x → x.queue = va.toNat → t.gangAt k = some { x with stopping := true }) ∧
        ((15 < va.toNat ∨ s.launchAt va.toNat = none ∨ ((s.lqAt va.toNat).state ≠ 1 ∧ (s.lqAt va.toNat).state ≠ 4)) →
          v = 1 ∧ t.lqs = s.lqs)) ∧
    (Runs (.ctxsv o) s id h g →
      (va.toNat % 0x400000 ≠ 0 → Stops (.ctxsv o) s id h .align va none) ∧
      (va.toNat % 0x400000 = 0 →
        ((384 ≤ sb ∨ s.gangOn (s.coreOfLcid sb) = none) → Answers (.ctxsv o) s id h o.d 1) ∧
        ∀ k x, sb < 384 → s.gangOn (s.coreOfLcid sb) = some (k, x) →
          (k = h.gang → Answers (.ctxsv o) s id h o.d 2) ∧
          (k ≠ h.gang → x.queue ≠ h.queue → (s.lqAt x.queue).state ≠ 2 → (s.lqAt x.queue).state ≠ 3 →
            Answers (.ctxsv o) s id h o.d 3))) ∧
    (∀ k x pages page la, Runs (.ctxsv o) s id h g → va.toNat % 0x400000 = 0 → sb < 384 →
      s.gangOn (s.coreOfLcid sb) = some (k, x) → s.gangAt k = some x → k ≠ h.gang →
      (x.queue = h.queue ∨ (s.lqAt x.queue).state = 2 ∨ (s.lqAt x.queue).state = 3) →
      s.ctxPages h va x.g .store = .ok pages → s.settledFor id h 3 = true → s.committing (k / 65536) = false → Still s →
      (∀ e ∈ s.hartsOf k, e.2.waiting = false) → s.gangSettled k = true → s.launchAt x.queue = some la →
      ∃ t la' y, Completes (.ctxsv o) s t ∧ t.hartAt id = some (wrote h o.d 0).advance ∧
        t.launchAt x.queue = some la' ∧ la'.saved = la.saved ++ [y] ∧ y.gang = { x with stopping := false } ∧
        y.byCtxsv = true ∧ t.gangAt k = none ∧ (∀ e, e < x.g → Cleared t (x.first + e)) ∧
        (AreaIn s (pagedAddr pages) x.g page → Savable s k x → Saved s t (pagedAddr pages) k x ∧
          ∀ b, (∀ e i, e < x.g → i < 64 → s.redirect b / 65536 ≠ s.redirectPage s.redirects.length (page e i)) →
            t.memByte b = s.memByte b)) ∧
    (Runs (.ctxld o) s id h g → va.toNat % 0x400000 ≠ 0 → Stops (.ctxld o) s id h .align va none) ∧
    (∀ pa, Runs (.ctxld o) s id h g → va.toNat % 0x400000 = 0 →
      s.access (s.agentOf h) (va + 0x3FF000) .load 0 = .ok pa → s.settledFor id h 0 = true → s.accessHeld id pa 8 = false →
      s.physPoison pa 8 = false →
      (headerOk (s.areaVal pa 8) = false ∨ s.savedFor (s.areaVal pa 8) = none → Answers (.ctxld o) s id h o.d 1) ∧
      ∀ y pages, headerOk (s.areaVal pa 8) = true → s.savedFor (s.areaVal pa 8) = some y →
        s.ctxPages h va y.gang.g .load = .ok pages →
        let c := s.coreOfLcid sb
        let k := gangKey y.gang.queue y.gang.ordinal
        let x := { s.areaGang (pagedAddr pages) y.gang with first := c }
        (384 ≤ sb → Answers (.ctxld o) s id h o.d 2) ∧
        (sb < 384 → s.areaOk (pagedAddr pages) y.gang = false → Answers (.ctxld o) s id h o.d 1) ∧
        (sb < 384 → s.areaOk (pagedAddr pages) y.gang = true →
          ((c % y.gang.g ≠ 0 ∨ s.posNa c y.gang.g ≠ y.gang.na) → Answers (.ctxld o) s id h o.d 2) ∧
          (c % y.gang.g = 0 → s.posNa c y.gang.g = y.gang.na →
            (s.posFree c y.gang.g = false → Answers (.ctxld o) s id h o.d 3) ∧
            (s.posFree c y.gang.g = true → Still s → k ≠ h.gang →
              (∀ n, id ≠ hartKey y.gang.queue (y.gang.ordinal * y.gang.h + n)) →
              ∃ t, Completes (.ctxld o) s t ∧ t.hartAt id = some (wrote h o.d 0).advance ∧
                (∃ x', t.gangAt k = some x' ∧ { x' with stopping := false } = { x with stopping := false }) ∧
                (∀ a, t.memByte a = s.memByte a) ∧
                (∀ page, AreaIn s (pagedAddr pages) y.gang.g page → Loaded s t (pagedAddr pages) x))))) ∧
    (Runs (.migr o) s id h g → h.cwait = none →
      (384 ≤ va.toNat ∨ 384 ≤ sb ∨ s.gangOn (s.coreOfLcid va.toNat) = none ∨
        ∃ k x, s.gangOn (s.coreOfLcid va.toNat) = some (k, x) ∧
          (k = h.gang ∨ x.stopping = true ∨ s.canTake x (s.coreOfLcid sb) = false)) → Answers (.migr o) s id h o.d 1) ∧
    (∀ k x, Runs (.migr o) s id h g → h.cwait = none → va.toNat < 384 → sb < 384 →
      s.gangOn (s.coreOfLcid va.toNat) = some (k, x) → s.gangAt k = some x → k ≠ h.gang → x.stopping = false →
      s.canTake x (s.coreOfLcid sb) = true →
      ∃ t h', exec (.migr o) s = .next t ∧ t.migs = s.migs ++ [⟨k, x.g, x.first, s.coreOfLcid sb, false, []⟩] ∧
        t.gangAt k = some { x with stopping := true } ∧ t.hartAt id = some h' ∧ h'.waiting = true ∧ h'.cwait = some [k] ∧
        SameStores s t) ∧
    (∀ l, Runs (.migr o) s id h g → h.cwait = some l → (∀ m ∈ s.migs, m.gang ∉ l) →
      ∃ t, Completes (.migr o) s t ∧ t.hartAt id = some (wrote h o.d 0).advance ∧ SameStores s t) ∧
    (Runs (.lcidset o) s id h g →
      let p := s.coreOfLcid va.toNat
      let q := s.coreOfLcid sb
      (384 ≤ va.toNat ∨ 384 ≤ sb ∨ va.toNat / 24 ≠ sb / 24 ∨ s.posFree p 1 = false ∨ s.posFree q 1 = false →
        Answers (.lcidset o) s id h o.d 1) ∧
      (va.toNat < 384 → sb < 384 → va.toNat / 24 = sb / 24 → s.posFree p 1 = true → s.posFree q 1 = true →
        ∃ t, Completes (.lcidset o) s t ∧ t.hartAt id = some (wrote h o.d 0).advance ∧ t.lcidOf p = s.lcidOf q ∧
          t.lcidOf q = s.lcidOf p ∧ (∀ n, n ≠ p → n ≠ q → t.lcidOf n = s.lcidOf n) ∧ SameStores s t)) ∧
    (Runs (.tlbinv o) s id h g → s.settledFor id h 3 = true →
      Completes (.tlbinv o) s (finished { s with tlb := s.tlb.filter fun x =>
        !(((h.reg o.b).getLsbD 4 || x.queue == sb % 16) && decide (x.base ≤ va.toNat) && decide (va.toNat < x.base + x.size)) } id)) ∧
    (Runs (.tlbinva o) s id h g → s.settledFor id h 3 = true →
      Completes (.tlbinva o) s (finished { s with tlb := s.tlb.filter fun x =>
        !((h.reg o.b).getLsbD 4 || x.queue == sb % 16) } id))


namespace Sys2Proof.Claims

/-! ## Launch queues and the grid walker (R350 to R363) -/

/-- Queue q's launch is pre-empted: its state is 2 and its gangs stop (R363). -/
def Preempting (s t : State) (q : Nat) : Prop :=
  (t.lqAt q).state = 2 ∧ ∀ k x, s.gangAt k = some x → x.queue = q → t.gangAt k = some { x with stopping := true }

/-- The index of the loop at nesting position j in iteration l (R355): the positions after it vary faster. -/
def loopIndex (r : List W64) (l j : Nat) : Nat :=
  l / (((List.range (Lr.nl r - j)).map fun n => Lr.trip r (Lr.order r (j + 1 + n))).foldl (· * ·) 1) % Lr.trip r (Lr.order r j)

/-- h' is a hart that starts iteration l of a launch of queue q in slot k of gang x (R65, R70, R355, R356). -/
def Starts (s : State) (q : Nat) (la : Launch) (x : Gang) (k l : Nat) (h' : Hart) : Prop :=
  let r := la.record
  (h'.queue, h'.hartid, h'.gang, h'.slot, h'.iter) = (q, x.ordinal * x.h + k, gangKey q x.ordinal, k, l) ∧
  (h'.pc, h'.entry, h'.ci, h'.view, h'.conv) = (aligned (r.getD 0 0), .landing, 0, (r.getD 6 0).getLsbD 10, none) ∧
  let vlmax := x.g * x.na * (1024 / x.h)
  h'.rows = 1024 / x.h ∧
  h'.vl = (if (r.getD 7 0).toNat % 2 ^ 18 = 0 then vlmax else Min.min ((r.getD 7 0).toNat % 2 ^ 18) vlmax) ∧
  (h'.vstart, h'.fst, h'.frm, h'.vstat, h'.lc0, h'.lc1) = (0, 0, 0, 0, 0, 0) ∧
  (h'.la, h'.det, h'.tvec) = ((r.getD 6 0).getLsbD 7, (r.getD 6 0).getLsbD 8, (s.lqAt q).runTvec) ∧
  (h'.uhpc, h'.uwatch) = (aligned (r.getD 1 0), (r.getD 1 0).extractLsb' 52 6) ∧
  (h'.gangid, h'.ctxbase) = (x.gangid, r.getD 3 0) ∧ h'.reg 1 = r.getD 2 0 ∧ h'.reg 6 = BitVec.ofNat 64 l ∧
  (∀ j, j ≤ Lr.nl r → h'.reg (BitVec.ofNat 6 (2 + Lr.order r j)) = BitVec.ofNat 64 (loopIndex r l j)) ∧
  (∀ n, n < 4 → (∀ j, j ≤ Lr.nl r → Lr.order r j ≠ n) → h'.reg (BitVec.ofNat 6 (2 + n)) = 0) ∧
  (∀ d : Reg, d.toNat = 0 ∨ 7 ≤ d.toNat → h'.reg d = 0) ∧ ∀ d, h'.isFull d = true ∧ h'.isPoisoned d = false

/-- The harts of gang x, as it forms, start iterations from l on, one to a slot, as far as there are any (R183, R357). -/
def StartsAll (s t : State) (q : Nat) (la : Launch) (x : Gang) (l : Nat) : Prop :=
  (∀ k, k < x.h → l + k < la.total →
    ∃ h', t.hartAt (hartKey q (x.ordinal * x.h + k)) = some h' ∧ Starts s q la x k (l + k) h') ∧
  ∀ k, k < 4 → x.live.getLsbD k = decide (k < x.h ∧ l + k < la.total)

/-- The loops of a record have different positions in the nest, as a well formed one's do (R353). -/
abbrev Nested (r : List W64) : Prop :=
  ∀ i j, i ≤ Lr.nl r → j ≤ Lr.nl r → Lr.order r i = Lr.order r j → i = j

/-- Every position of queue q but the one of key k holds a hart, or an iteration remains for it once n have started, so
that no position is left (R357). -/
def OthersBusy (s : State) (q k : Nat) (la : Launch) (n : Nat) : Prop :=
  ∀ e ∈ s.gangs, e.2.queue = q → e.1 ≠ k →
    (∃ h ∈ s.harts, h.2.gang = e.1) ∨ (n < la.total ∧ s.gangAt e.1 = some e.2)

/-- The completion word of queue q is stored with a status, alone, and its message follows if it is on and not masked
(R351, R387). -/
def Reported (s t : State) (l : LQ) (a status : Nat) : Prop :=
  OnlyStored s t a 8 (BitVec.ofNat 64 (l.head % 65536 * 2 ^ 32 + status)) ∧
  t.msgs = s.msgs ++ (if l.msi && !(SMap.getD s.msix (2 * l.vec.toNat + 1) 0).getLsbD 32
    then [(SMap.getD s.msix (2 * l.vec.toNat) 0, SMap.getD s.msix (2 * l.vec.toNat + 1) 0 &&& 0xFFFFFFFF)] else [])

/-- The completion word of queue q lies at a in memory that is not moving. -/
abbrev WordAt (s : State) (l : LQ) (a : Nat) : Prop :=
  s.home l.cpl.toNat = .mem a ∧ a % 8 = 0 ∧ s.pageMoving l.cpl.toNat = false

/-- What R359 clears at the end of queue q's launch is gone: replicas, kept nodes and lines, cluster barriers, user
microcode and parameter caches. -/
def CleanedUp (s t : State) (q : Nat) : Prop :=
  (∀ r ∈ t.replicas, r.queue ≠ q) ∧ (∀ n ∈ t.nodes, n.queue ≠ q) ∧ (∀ b ∈ t.lbuf, b.queue ≠ q) ∧
  (∀ k, k / 32 % 16 = q → SMap.find t.bars k = none) ∧
  ∀ p, (∀ x ∈ (t.coreAt p).pcache, x.queue ≠ q) ∧
    ((s.coreAt p).ucodeOwner = some q → ∀ j, j < 1024 → SMap.find t.ucode (p * 1024 + j) = none)

/-- Queue q has gone past its record and is idle (R351). -/
def Passed (t : State) (q : Nat) (l : LQ) : Prop :=
  (t.lqAt q).head = (l.head + 1) % 2 ^ l.size.toNat ∧ (t.lqAt q).state = 0 ∧ (t.lqAt q).launch = none

end Sys2Proof.Claims

/-- R351, R353 to R358, R363, R401: a write to LQ.TAIL makes records visible with the queue's gate, and in recovery does
nothing; PREEMPT and RESUME change the state of a launch that runs or is pre-empted; an idle queue with a record starts
it, refuses a malformed one with LAUNCH_FORMAT or one without a layout with LAUNCH_LAYOUT, and completes an empty one; an
iteration goes to a free slot, under MODE.DET to the slot of its number, or a gang forms on the best free position and
its harts start, with the registers of R355; the first dispatch under MODE.DET forms every gang the launch will have, on
the best free positions, in the order of their first cores; the end of a phase delay lets its cluster be used. PREEMPT and
RESUME in another state are dropped. The model's choices it rests on: log 4, 36. -/
def Obligations.QueueEvents : Prop :=
  (∀ (s : State) (q : Nat) (v : W64), q < 16 → s.dev.recov = true → HostFree s →
    Completes (.lqTailWrite q v) s { s with asleep := [] }) ∧
  (∀ (s : State) (q : Nat) (v : W64), q < 16 → s.dev.recov = false → HostFree s →
    let l := s.lqAt q
    let ring := 2 ^ l.size.toNat
    ∃ t, Completes (.lqTailWrite q v) s t ∧ SameStores s t ∧
      t.lqAt q = { l with
        tail := v.toNat % 65536 % ring
        gates := l.gates ++ List.replicate ((v.toNat % 65536 % ring + ring - l.tail % ring) % ring) (l.xok, l.privok) } ∧
      ∀ n, n ≠ q → t.lqAt n = s.lqAt n) ∧
  (∀ (s : State), s.who < 16 →
    let l := s.lqAt s.who
    (∀ la, l.launch = some la → (l.state = 1 ∨ l.state = 4) → ∃ t, Completes .lqPreempt s t ∧ SameStores s t ∧
      if la.ctx = 0 then t.lqAt s.who = { l with preempt := true } else Preempting s t s.who) ∧
    ((l.launch = none ∨ (l.state ≠ 1 ∧ l.state ≠ 4)) → Completes .lqPreempt s { s with asleep := [] }) ∧
    (l.state ≠ 3 → Completes .lqResume s { s with asleep := [] }) ∧
    (l.state = 3 → ∃ t, Completes .lqResume s t ∧ SameStores s t ∧ t.lqAt s.who = { l with state := 4, resume := false })) ∧
  (∀ (s : State), s.pageMoving (s.lqAt s.who).cpl.toNat = false → s.dev.bootOk = true → s.dev.trip = false →
    let l := s.lqAt s.who
    let r := (List.range 16).map fun j => BitVec.ofNat 64 (s.physVal (l.base.toNat + 128 * (l.head % 2 ^ l.size.toNat) + 8 * j) 8)
    let gate := l.gates.headD (false, false)
    l.en = true → l.state = 0 → l.head % 2 ^ l.size.toNat ≠ l.tail % 2 ^ l.size.toNat →
    (Lr.formatOk r gate.1 gate.2 = true → Lr.total r ≠ 0 → s.badLayout r = false →
      ∃ t la, Completes .launchStart s t ∧ SameStores s t ∧
        t.lqAt s.who = { l with gates := l.gates.drop 1, runRoot := l.root, runTvec := l.tvec, state := 1, launch := some la } ∧
        la.record = r ∧ la.next = 0 ∧ la.total = Lr.total r ∧ la.ending = none ∧ la.saved = []) ∧
    ∀ a, WordAt s l a →
      (Lr.formatOk r gate.1 gate.2 = false → ∃ t, Completes .launchStart s t ∧ Reported s t l a 0x21 ∧ Passed t s.who l) ∧
      (Lr.formatOk r gate.1 gate.2 = true → Lr.total r = 0 →
        ∃ t, Completes .launchStart s t ∧ Reported s t l a 0 ∧ Passed t s.who l) ∧
      (Lr.formatOk r gate.1 gate.2 = true → Lr.total r ≠ 0 → s.badLayout r = true →
        ∃ t, Completes .launchStart s t ∧ Reported s t l a 0x20 ∧ Passed t s.who l)) ∧
  (∀ (s : State) (la : Launch) (x : Gang), s.launchAt s.who = some la → (s.lqAt s.who).state = 1 → la.next < la.total →
    Lr.det la.record = true → s.detSlotFree s.who la = true →
    let n := la.next % la.detHarts
    s.gangAt (gangKey s.who (n / Lr.h la.record)) = some x → x.ordinal = n / Lr.h la.record → x.h = Lr.h la.record →
    Nested la.record →
    ∃ t h', Completes .iterationDispatch s t ∧ SameStores s t ∧ t.hartAt (hartKey s.who n) = some h' ∧
      Starts s s.who la x (n % Lr.h la.record) la.next h' ∧ t.launchAt s.who = some { la with next := la.next + 1 }) ∧
  (∀ (s : State) (la : Launch), s.launchAt s.who = some la → (s.lqAt s.who).state = 1 → la.next < la.total →
    Lr.det la.record = false →
    (∀ x k, s.freeSlot s.who = some (x, k) → s.gangAt (gangKey s.who x.ordinal) = some x → k < 4 →
      Nested la.record →
      OthersBusy s s.who (gangKey s.who x.ordinal) la (la.next + 1) →
      ∃ t h' x', Completes .iterationDispatch s t ∧ SameStores s t ∧
        t.hartAt (hartKey s.who (x.ordinal * x.h + k)) = some h' ∧ Starts s s.who la x k la.next h' ∧
        t.launchAt s.who = some { la with next := la.next + 1 } ∧
        t.gangAt (gangKey s.who x.ordinal) = some x' ∧ x'.live = x.live ||| BitVec.twoPow 4 k) ∧
    (∀ c, s.freeSlot s.who = none → (s.choices la.record).head? = some c → s.phaseDone la (c / 24) = true →
      s.firstInLine s.who = true → Nested la.record →
      OthersBusy s s.who (gangKey s.who (s.newOrdinal s.who la)) la (la.next + Lr.h la.record) →
      (∀ k, k < Lr.h la.record → s.hartAt (hartKey s.who (s.newOrdinal s.who la * Lr.h la.record + k)) = none) →
      ∃ t x la', Completes .iterationDispatch s t ∧ SameStores s t ∧
        t.gangAt (gangKey s.who (s.newOrdinal s.who la)) = some x ∧
        (x.ordinal, x.g, x.h, x.na, x.first, x.gangid) =
          (s.newOrdinal s.who la, Lr.g la.record, Lr.h la.record, s.posNa c (Lr.g la.record), c, s.lcidOf c) ∧
        StartsAll s t s.who la x la.next ∧ t.launchAt s.who = some la' ∧ la'.next = Min.min (la.next + Lr.h la.record) la.total)) ∧
  (∀ (s : State) (la : Launch), s.launchAt s.who = some la → (s.lqAt s.who).state = 1 → la.next = 0 → 0 < la.total →
    Lr.det la.record = true → la.detHarts = 0 → s.firstInLine s.who = true → Nested la.record →
    let n := Lr.h la.record
    let cs := (s.choices la.record).take ((la.total + n - 1) / n)
    let sorted := (List.range 384).filter fun c => cs.contains c
    cs ≠ [] → (∀ c ∈ cs, s.phaseDone la (c / 24) = true) →
    ∃ t la', Completes .iterationDispatch s t ∧ SameStores s t ∧ t.launchAt s.who = some la' ∧
      la'.detHarts = sorted.length * n ∧ la'.next = Min.min (sorted.length * n) la.total ∧
      ∀ p c, sorted[p]? = some c → ∃ x, t.gangAt (gangKey s.who p) = some x ∧
        (x.ordinal, x.g, x.h, x.na, x.first, x.gangid) = (p, Lr.g la.record, n, s.posNa c (Lr.g la.record), c, s.lcidOf c) ∧
        StartsAll s t s.who la x (p * n)) ∧
  ∀ (s : State) (q n : Nat) (la : Launch), s.launchAt q = some la → n ∈ la.delayed →
    ∃ t la', Completes (.phaseDelayExpire q n) s t ∧ t.launchAt q = some la' ∧ n ∉ la'.delayed ∧ t.phaseDone la' n = true ∧
      SameStores s t

/-- R249, R250, R351, R359, R360, R363, R373: a launch with nothing left, or one that was ended, is cleaned up, writes its
completion word and leaves the queue idle past its record; the cores of an ended one's gangs are cleared; a pre-empted one
saves its settled gangs in the layout of R365, leaving their cores cleared, then reports status 0x14 and stops; a resumed
one places the first saved gang that a free position fits, as its area gives it, once no launch before it in line waits,
and with none left runs; a quantum ends, and the commit takes the harts in turn, writing their buffers, before the next
quantum begins. The model's choices it rests on: log 25, 46. -/
def Obligations.LaunchEnds : Prop :=
  (∀ (s : State) (la : Launch) (a : Nat), s.launchAt s.who = some la → WordAt s (s.lqAt s.who) a →
    let l := s.lqAt s.who
    (la.ending = none → l.state = 1 → s.launchDone s.who la = true →
      ∃ t, Completes .launchComplete s t ∧ Reported s t l a (if la.copyErr then 0x10 else 0) ∧ Passed t s.who l ∧
        CleanedUp s t s.who) ∧
    (∀ status pc v n, la.ending = some (status, pc, v, n) → status ≠ 0x14 → s.migs = [] →
      (∀ e ∈ s.cores, ∀ c ∈ e.2.copies, c.queue ≠ s.who) → (∀ y ∈ la.saved, ∀ c ∈ y.cores, c.copies = []) →
      s.ownInFlight s.who = false →
      (∀ e ∈ s.harts, e.2.waiting = false) → (∀ e ∈ s.gangs, e.2.queue = s.who → s.gangSettled e.1 = true) →
      ∃ t, Completes .launchComplete s t ∧ Reported s t l a status ∧ Passed t s.who l ∧ CleanedUp s t s.who ∧
        (∀ k x, s.gangAt k = some x → x.queue = s.who → ∀ e, e < x.g → Cleared t (x.first + e)) ∧
        ((t.lqAt s.who).fpc, (t.lqAt s.who).fval, (t.lqAt s.who).fhart) = (aligned pc, v, n) ∧
        (∀ e ∈ t.harts, e.2.queue ≠ s.who) ∧ ∀ e ∈ t.gangs, e.2.queue ≠ s.who)) ∧
  (∀ (s : State) (la : Launch), s.launchAt s.who = some la → (s.lqAt s.who).state = 2 → la.commit = none → Still s →
    (∀ e ∈ s.harts, e.2.waiting = false) →
    (∀ a, WordAt s (s.lqAt s.who) a → (∀ e ∈ s.gangs, e.2.queue ≠ s.who) →
      ∃ t, Completes .preemptionSave s t ∧ Reported s t (s.lqAt s.who) a 0x14 ∧ t.lqAt s.who = { s.lqAt s.who with state := 3 }) ∧
    ∀ k x page, (s.gangs.filter fun e => e.2.queue == s.who).find? (fun e => s.gangSettled e.1) = some (k, x) →
      s.gangAt k = some x →
      let at' := ctxAddr (Lr.ctx la.record) x
      ∃ t la' y, Completes .preemptionSave s t ∧ t.gangAt k = none ∧ t.launchAt s.who = some la' ∧
        la'.saved = la.saved ++ [y] ∧ y.gang = { x with stopping := false } ∧ y.byCtxsv = false ∧
        (∀ e, e < x.g → Cleared t (x.first + e)) ∧
        (AreaIn s at' x.g page → Savable s k x → Saved s t at' k x ∧
          ∀ b, (∀ e i, e < x.g → i < 64 → s.redirect b / 65536 ≠ s.redirectPage s.redirects.length (page e i)) →
            t.memByte b = s.memByte b)) ∧
  (∀ (s : State) (la : Launch), s.launchAt s.who = some la → (s.lqAt s.who).state = 4 →
    ((∀ y ∈ la.saved, y.byCtxsv = true) → ∃ t, Completes .gangResumePlace s t ∧ SameStores s t ∧
      t.lqAt s.who = { s.lqAt s.who with state := 1 }) ∧
    ((∃ y ∈ la.saved, y.byCtxsv = false) → s.firstInLine s.who = false → Completes .gangResumePlace s s) ∧
    ∀ pre y post c page, la.saved = pre ++ y :: post → y.byCtxsv = false → s.firstInLine s.who = true →
      (∀ z ∈ pre, z.byCtxsv = true ∨ s.areaFit la z = false ∨ s.resumePos la.record z.gang = none) →
      s.areaFit la y = true → s.resumePos la.record y.gang = some c → y.gang.queue = s.who →
      let at' := ctxAddr (Lr.ctx la.record) y.gang
      let x := { s.areaGang at' y.gang with first := c }
      ∃ t la', Completes .gangResumePlace s t ∧ t.gangAt (gangKey s.who y.gang.ordinal) = some x ∧
        t.launchAt s.who = some la' ∧ la'.saved = la.saved.filter (fun z => z.gang.ordinal != y.gang.ordinal) ∧
        (∀ a, t.memByte a = s.memByte a) ∧ (AreaIn s at' y.gang.g page → Loaded s t at' x)) ∧
  (∀ (s : State) (h : Hart), s.hartAt s.who = some h → h.det = true → h.qend = false → h.conv = none → h.qlim ≤ h.qcount →
    ∃ t, Completes .quantumEnd s t ∧ t.hartAt s.who = some { h with qend := true } ∧ SameStores s t) ∧
  ∀ (s : State) (la : Launch), s.launchAt s.who = some la → SMap.sorted s.harts = true →
    let mine := s.harts.filter fun e => e.2.queue == s.who
    (la.commit = none → s.commitReady s.who la = true →
      ∃ t, Completes .quantumCommit s t ∧ t.launchAt s.who = some { la with commit := some 0 } ∧ t.harts = s.harts ∧
        SameStores s t) ∧
    (∀ n, la.commit = some n → (∀ e ∈ mine, e.2.committing = false) →
      (∀ (id : Nat) (h : Hart) (f : Nat → Nat), mine.find? (fun e => decide (n ≤ e.2.hartid)) = some (id, h) →
        (∀ x ∈ h.buf, s.home x.1 = .mem (f x.1)) → s.bufHeld id h = false → s.lines.length + h.bufTouch.length ≤ 24576 →
        (h.buf.map fun x => s.redirect (f x.1)).Nodup →
        ∃ t, Completes .quantumCommit s t ∧
          t.hartAt id = some { h with buf := [], bufLines := [], bufTouch := [], qcount := 0, go := h.waiting } ∧
          t.launchAt s.who = some { la with commit := some (h.hartid + 1) } ∧
          (∀ x ∈ h.buf, t.memByte (f x.1) = x.2) ∧
          (∀ b, (∀ x ∈ h.buf, s.redirect b ≠ s.redirect (f x.1)) → t.memByte b = s.memByte b) ∧ ∀ k, t.rowAt k = s.rowAt k) ∧
      ((∀ e ∈ mine, e.2.hartid < n) → (∀ e ∈ mine, s.servedNow e.2 = false) →
        ∃ t, Completes .quantumCommit s t ∧ t.launchAt s.who = some { la with commit := none } ∧ SameStores s t ∧
          ∀ id h, s.hartAt id = some h → h.queue = s.who → h.blocked = false →
            t.hartAt id = some { h with qend := false, qlim := s.quantum h }))

namespace Sys2Proof.Claims

/-! ## A convoy's life (R36, R37, R66, R89, R102, R228, R235, R361, R372) -/

/-- LC0, LC1, the pc and how it is reached after a convoy that took no return: the transfer it took, else the loop check,
level 1 first (R86, R89). -/
def nextConvoy (h : Hart) (c : Conv) : W64 × W64 × W64 × Entry :=
  match c.target with
  | some t => (h.lc0, h.lc1, t &&& ~~~3#64, if t.toNat % 4 = 0 then .landing else .misaligned)
  | none =>
    let ends (lb le lc : W64) : Bool := lc != 0 && decide (lb.toNat ≤ h.pc.toNat) && h.pc == le
    if ends h.lb1 h.le1 h.lc1 && 1 < h.lc1.toNat then (h.lc0, h.lc1 - 1, h.lb1, .landing)
    else
      let lc1 : W64 := if ends h.lb1 h.le1 h.lc1 then 0 else h.lc1
      if ends h.lb0 h.le0 h.lc0 && 1 < h.lc0.toNat then (h.lc0 - 1, lc1, h.lb0, .landing)
      else (if ends h.lb0 h.le0 h.lc0 then 0 else h.lc0, lc1, c.succ, .sequential)

/-- A hart's priority for issue: the launch's, and 8 more in the privileged view (R361). -/
def priority (s : State) (h : Hart) : Nat :=
  (match s.launchAt h.queue with
    | some la => ((la.record.getD 6 0).extractLsb' 4 3).toNat
    | none => 0) + if h.view then 8 else 0

/-- Hart a issues no later than hart b (R361): one passed over in 15 slots first, the oldest of these; else the higher
priority, and of one priority the older. -/
def IssuesFirst (s : State) (a b : Hart) : Prop :=
  if 15 ≤ a.skips then b.skips < 15 ∨ a.age ≤ b.age
  else b.skips < 15 ∧ (priority s b < priority s a ∨ priority s b = priority s a ∧ a.age ≤ b.age)

/-- Whether the pending watch set is of the convoy at the pc and is used by it: a privileged handler's convoy neither
uses nor empties it (R372). -/
def pending (h : Hart) : Bool := h.pwatchPc == h.pc && !h.ph

/-- The flags a watch is judged on: those the convoy changed from 0 to 1, those that matrix results do now, and the
pending set (R372). -/
def newFlags (h : Hart) (c : Conv) : BitVec 6 :=
  c.raised ||| (h.mflags &&& ~~~h.fst) ||| if pending h then h.pwatch else 0

/-- n is hart h as its convoy c has retired: VSTART 0, the loop counters and the pc as `nextConvoy` says; the flags of
matrix results are in FST, and the convoy counts in the quantum (R248, R372). -/
def Retired (h n : Hart) (c : Conv) : Prop :=
  n.conv = none ∧ n.vstart = 0 ∧ n.ci = 0 ∧ (n.lc0, n.lc1, n.pc, n.entry) = nextConvoy h c ∧ n.vl = h.vl ∧
  (n.fst, n.mflags, n.frm, n.vstat) = (h.fst ||| h.mflags, 0, h.frm, h.vstat) ∧
  n.pwatch = (if pending h then 0 else h.pwatch) ∧ n.qcount = h.qcount + (if h.det then 1 else 0) ∧
  SameRegs [] h n ∧ SameSpecial h n ∧ (n.lb0, n.le0, n.lb1, n.le1) = (h.lb0, h.le0, h.lb1, h.le1) ∧
  (n.queue, n.hartid) = (h.queue, h.hartid)

/-- n is hart h as a convoy with a return has retired (R369, R372): the return has set the pc and index, and VSTART stays. -/
def Returned (h n : Hart) : Prop :=
  ∃ age, n = { h with
    conv := none, waiting := false, fst := h.fst ||| h.mflags, mflags := 0, age := age
    qcount := h.qcount + if h.det then 1 else 0 }

/-- A source field that makes its instruction trap (R135): policy 1, and in an active element a word empty that no earlier
instruction of the convoy writes. -/
def EmptyField (s : State) (h : Hart) (g : Gang) (m : Mask) (earlier : List Instr) (x : BitVec 15 × Bool × Bool) : Prop :=
  x.2.1 = true ∧ ∃ w ∈ Fld.words x.1, (∀ j ∈ earlier, w ∉ (foot h j).wcols) ∧
    ∃ e, e < Min.min h.vl (h.vlmax g) ∧ s.maskAt m (s.elemKey g h.slot e) = true ∧
      (s.rowAt (s.elemKey g h.slot e)).full.getLsbD w = false

end Sys2Proof.Claims

/-- R37, R52, R55, R361: of the harts on a core that may issue, none but those that yielded comes before the one that is
picked; it issues the convoy at its pc, with the verdict of R135 on each instruction's source fields, or takes the trap of
its checks; LINE_FETCH checks the line and takes the trap of a failing check; LINE_REFETCH replaces a buffered line whose
parity fails by what memory holds. R89, R102, R372: a convoy that retires clears VSTART and goes on by its transfer or the
loop check, and takes the watch; one with a return goes where it returned to, and keeps VSTART; one that paused at an
element stays at its pc. R66, R68: a result fills its register, or marks it poisoned; R228: a loaded field fills its words;
R235: a store is performed at its home, memory or a local store. The model's choices it rests on: log 4, 7, 37, 38. -/
def Obligations.ConvoyLife : Prop :=
  (∀ (s : State) (p id k : Nat) (h : Hart) (x : Gang), s.pick p = some (id, h) → s.gangOn p = some (k, x) →
    (id, h) ∈ s.hartsOf k ∧ s.mayIssue id h = true ∧
    ∀ e ∈ s.hartsOf k, s.mayIssue e.1 e.2 = true →
      (h.yielded = true → e.2.yielded = true) ∧ (e.2.yielded = h.yielded → IssuesFirst s h e.2)) ∧
  (∀ (s : State) (id : Nat) (h : Hart) (g : Gang) (line : Nat), s.pick s.who = some (id, h) → s.hartAt id = some h →
    s.gangAt h.gang = some g → h.conv = none → s.fetchAt h = (s, .ok line) →
    (s.issueCheck h g (Line.convoy line h.pc) = .go →
      ∃ t c, Completes .convoyIssue s t ∧
        t.hartAt id = some { h with
          conv := some c, fst := h.fst ||| h.mflags, mflags := 0, skips := 0, yielded := false } ∧
        c.instrs = decoded (Line.convoy line h.pc) ∧ c.succ = Line.successor line h.pc ∧ c.idx = h.ci ∧ c.stop = none ∧
        c.target = none ∧ c.raised = h.mflags &&& ~~~h.fst ∧ c.routines = s.heldRoutines h g c.instrs ∧ SameStores s t ∧
        ∀ k i m fs, c.instrs[k]? = some i → policyFields i = some (m, fs) → productEntry id h g i = none →
          ((∀ x ∈ fs, ¬ EmptyField s h g m (c.instrs.take k) x) → c.ftraps.getD k none = none) ∧
          ∀ pre x post, fs = pre ++ x :: post → (∀ y ∈ pre, ¬ EmptyField s h g m (c.instrs.take k) y) →
            EmptyField s h g m (c.instrs.take k) x →
            c.ftraps.getD k none = some (BitVec.ofNat 64 (x.1.toNat + if x.2.2 then 2 ^ 16 else 0))) ∧
    ∀ c k tval, s.issueCheck h g (Line.convoy line h.pc) = .trap c k tval →
      ∃ t, Completes .convoyIssue s t ∧ Trapped s t id h c.user c.code h.pc k tval) ∧
  (∀ (s u : State) (h : Hart), s.hartAt s.who = some h → h.conv = none →
    (∀ line, s.fetchAt h = (u, .ok line) → Completes .lineFetch s u ∧ SameStores s u) ∧
    ∀ c tval, s.fetchAt h = (u, .bad c tval) →
      ∃ t, Completes .lineFetch s t ∧ Trapped s t s.who { h with vstart := 0 } c.user c.code h.pc 0 tval) ∧
  (∀ (s : State) (h : Hart) (pa old line : Nat), s.hartAt s.who = some h → h.conv = none →
    let a := s.agentOf h
    let base := h.pc.toNat / 64 * 64
    s.fetchXlate a (BitVec.ofNat 64 base) = some pa → s.lineBuffered a.first a.queue base = some old →
    Line.parityOk old = false → Line.parityOk (s.lineAt pa) = true → s.fetch a h.pc h.entry = .ok line →
    line = s.lineAt pa ∧ ∃ t, Completes .lineRefetch s t ∧
      t.lineBuffered a.first a.queue base = (if s.keep then some line else none) ∧
      (t.coreAt a.first).mchk.getLsbD 4 = true ∧ t.harts = s.harts ∧ SameStores s t) ∧
  (∀ (s : State) (h : Hart) (c : Conv), s.hartAt s.who = some h → h.conv = some c → c.instrs.length ≤ c.idx →
    c.stop = none → (∀ i ∈ c.instrs, i ≠ .uret ∧ i ≠ .eret) →
    ∃ t n, Completes .convoyRetire s t ∧ Retired h n c ∧
      if newFlags h c &&& h.uwatch ≠ 0 ∧ h.uh = false then Trapped s t s.who n true 0x15 n.pc 0 ((newFlags h c).setWidth 64)
      else t.hartAt s.who = some n ∧ SameStores s t) ∧
  (∀ (s : State) (h : Hart) (c : Conv), s.hartAt s.who = some h → h.conv = some c → c.instrs.length ≤ c.idx →
    c.stop = none → (∃ i ∈ c.instrs, i = .uret ∨ i = .eret) →
    let raised := c.raised ||| (h.mflags &&& ~~~h.fst)
    ∃ t n, Completes .convoyRetire s t ∧ Returned h n ∧ SameStores s t ∧
      if raised &&& h.uwatch = 0 ∨ h.uh = true then t.hartAt s.who = some n
      else if h.ci = 0 then Trapped s t s.who n true 0x15 n.pc 0 (raised.setWidth 64)
      else t.hartAt s.who = some (if h.ph = true then n
        else { n with pwatch := (if n.pwatchPc = n.pc then n.pwatch else 0) ||| raised, pwatchPc := n.pc })) ∧
  (∀ (s : State) (h : Hart) (c : Conv) (k : Nat) (tval : W64) (e : Option Nat) (b : Bool), s.hartAt s.who = some h →
    h.conv = some c → c.instrs.length ≤ c.idx → c.stop = some ⟨k, none, tval, e, b⟩ →
    ∃ t n, Completes .convoyRetire s t ∧ t.hartAt s.who = some n ∧ SameStores s t ∧
      (n.conv, n.pc, n.ci, n.entry, n.vl, n.vstart, n.qend) =
        (none, h.pc, k, .trapReturn, h.vl, e.getD h.vstart, h.qend || b) ∧
      (n.fst, n.mflags, n.frm, n.vstat) = (h.fst ||| h.mflags, 0, h.frm, h.vstat) ∧
      SameRegs [] h n ∧ SameSpecial h n ∧ SameLoops h n) ∧
  (∀ (s : State) (h : Hart) (f : Fill) (rest : List Fill), s.hartAt s.who = some h → h.fills = f :: rest →
    ∃ t h', Completes .registerFill s t ∧ t.hartAt s.who = some h' ∧ h'.fills = rest ∧ SameStores s t ∧
      (f.poison = false → h' = { wrote h f.reg f.value with fills := rest, age := h'.age }) ∧
      (f.poison = true → SameRegs [] h h' ∧
        (f.reg ≠ 0 → h'.isFull f.reg = false ∧ h'.isPoisoned f.reg = true ∧ h'.poisonValue f.reg = f.value))) ∧
  (∀ (s : State) (h : Hart) (v : VFill) (rest : List VFill), s.hartAt s.who = some h → h.vfills = v :: rest → s.upsets = [] →
    ∃ t, Completes .vectorLoadFill s t ∧ t.hartAt s.who = some { h with vfills := rest } ∧
      (∀ k, t.rowAt k = if k = v.row then wordsMarked (withField (s.rowAt k) v.start v.width v.value) v.start v.width true
        else s.rowAt k) ∧ ∀ a, t.memByte a = s.memByte a) ∧
  ∀ (s : State) (id n : Nat) (h : Hart) (d : Drain), s.hartAt id = some h → h.drain[n]? = some d →
    s.drainReady id h n d = true →
    (∀ a, s.home d.pa = .mem a → s.lines.length < 24576 →
      (∀ i j, i < d.bytes.length → j < d.bytes.length → i ≠ j → s.redirect (a + i) ≠ s.redirect (a + j)) →
      ∃ t, Completes (.storeDrain id n) s t ∧ t.hartAt id = some { h with drain := h.drain.eraseIdx n } ∧
        (∀ j, j < d.bytes.length → t.memByte (a + j) = d.bytes.getD j 0) ∧
        (∀ b, (∀ j, j < d.bytes.length → s.redirect b ≠ s.redirect (a + j)) → t.memByte b = s.memByte b) ∧
        ∀ k, t.rowAt k = s.rowAt k) ∧
    ∀ p off, s.home d.pa = .ls p off → s.upsets = [] →
      ∃ t, Completes (.storeDrain id n) s t ∧ t.hartAt id = some { h with drain := h.drain.eraseIdx n } ∧
        (∀ k, t.rowAt k = if k = s.lsRow p (off / 64)
          then withField (s.rowAt k) (8 * (off % 64)) (8 * d.bytes.length) (leNat d.bytes) else s.rowAt k) ∧
        ∀ a, t.memByte a = s.memByte a

namespace Sys2Proof.Claims

/-! ## Heat, power and soft errors (R97, R99, R378 to R380, R402, R411 to R413) -/

/-- The free position of the gang's cluster that can take it and is the coolest: the lowest hottest sensor, ties to the
lowest first core (R379). -/
abbrev Coolest (s : State) (x : Gang) (c : Nat) : Prop :=
  c ∈ clusterPositions (x.first / 24) x.g ∧ s.canTake x c = true ∧
  ∀ c' ∈ clusterPositions (x.first / 24) x.g, s.canTake x c' = true →
    s.hottest c x.g < s.hottest c' x.g ∨ s.hottest c x.g = s.hottest c' x.g ∧ c ≤ c'

/-- A migration of gang k to the position at c has begun: the gang stops, the destination is reserved (R380, R413). -/
def Moves (s t : State) (k : Nat) (x : Gang) (c : Nat) : Prop :=
  t.migs = s.migs ++ [⟨k, x.g, x.first, c, false, []⟩] ∧ t.gangAt k = some { x with stopping := true } ∧
  ∀ e, e < x.g → (t.coreAt (c + e)).reserved = true

/-- The places of a migration: cores all different, and enough lanes at both ends. -/
abbrev Placed (s : State) (m : Mig) (x : Gang) : Prop :=
  m.src = x.first ∧ m.size = x.g ∧ (∀ e e', e < x.g → e' < x.g → m.src + e ≠ m.dst + e') ∧
  ∀ e, e < x.g → x.na ≤ 4 * (s.lanesOf (m.src + e)).length ∧ x.na ≤ 4 * (s.lanesOf (m.dst + e)).length

/-- A waiting request without its place in the order of arrivals. -/
def placeless (p : Park) : Park := { p with refused := false, serial := 0 }

end Sys2Proof.Claims

/-- R379, R380, R402, R411, R413: a reading above THERM_LIMIT on a core that holds a gang raises a request, and one of
110 °C trips the module; a search withdraws the request of a gang that has cooled, and else begins the migration to the
coolest free position; a settled gang moves to its destination with the rows of its grants, its tiles and its deque, and
leaves its source cleared; then the LCIDs are exchanged, both positions are freed and withdrawn requests are parked
again. The model's choices it rests on: log 3, 43. -/
def Obligations.Thermal : Prop :=
  (∀ (s : State) (core deg : Nat), core < 384 →
    let c := s.coreAt core
    (110 ≤ deg → ∃ t, Completes (.thermalRequest core deg) s t ∧ Completes .thermalTrip s t) ∧
    (deg < 110 → (deg ≤ s.thermLimit.toNat ∨ s.gangOn core = none ∨ c.request = true ∨ c.reserved = true) →
      ∃ t, Completes (.thermalRequest core deg) s t ∧ t.coreAt core = { c with sensor := deg } ∧ t.migs = s.migs ∧
        (∀ p, p ≠ core → t.coreAt p = s.coreAt p) ∧ SameStores s t) ∧
    ∀ k x, s.thermLimit.toNat < deg → deg < 110 → s.gangOn core = some (k, x) → c.request = false → c.reserved = false →
      ∃ t, Completes (.thermalRequest core deg) s t ∧ (t.coreAt core).sensor = deg ∧ (t.coreAt core).request = true ∧
        SameStores s t) ∧
  (∀ (s : State) (k : Nat) (x : Gang), (s.coreAt s.who).request = true → s.gangOn s.who = some (k, x) →
    s.gangAt k = some x →
    (s.hottest x.first x.g + 5 ≤ s.thermLimit.toNat →
      ∃ t, Completes .migrationSearch s t ∧ t.migs = s.migs ∧ SameStores s t ∧
        ∀ p, t.coreAt p = if x.first ≤ p ∧ p < x.first + x.g then { s.coreAt p with request := false } else s.coreAt p) ∧
    (s.thermLimit.toNat < s.hottest x.first x.g + 5 → x.stopping = false →
      (∀ c, Coolest s x c → ∃ t, Completes .migrationSearch s t ∧ Moves s t k x c ∧ SameStores s t) ∧
      ((∀ c ∈ clusterPositions (x.first / 24) x.g, s.canTake x c = false) → Completes .migrationSearch s s))) ∧
  (∀ (s : State) (m : Mig) (x : Gang), s.migs[s.who]? = some m → m.moved = false → s.gangAt m.gang = some x →
    Placed s m x → s.committing x.queue = false → s.parks = [] → s.gangSettled m.gang = true →
    SMap.sorted s.rows = true → SMap.sorted s.tileWords = true →
    SMap.sorted s.harts = true →
    ∃ t m', Completes .thermalMigration s t ∧ t.gangAt m.gang = some { x with first := m.dst } ∧
      t.migs[s.who]? = some m' ∧ m' = { m with moved := true, withdrawn := m'.withdrawn } ∧
      (∀ e, e < x.g →
        (t.coreAt (m.dst + e)).deque = (s.coreAt (m.src + e)).deque ∧
        (∀ n, n < 65536 → SMap.getD t.tileWords ((m.dst + e) * 65536 + n) 0 = SMap.getD s.tileWords ((m.src + e) * 65536 + n) 0) ∧
        (∀ k a j, k < x.h → a < x.na → j < 1024 → x.vbase k ≤ j → j < x.vbase k + s.slotRows x k →
          t.rowAt (rowKey (m.dst + e) (s.physArray (m.dst + e) a) j) =
            s.rowAt (rowKey (m.src + e) (s.physArray (m.src + e) a) j)) ∧
        ∀ k, k / 32768 = m.src + e → t.rowAt k = Row.clear) ∧
      (∀ k, (∀ e, e < x.g → k / 32768 ≠ m.src + e ∧ k / 32768 ≠ m.dst + e) → t.rowAt k = s.rowAt k) ∧
      (∀ id h, s.hartAt id = some h → ∃ h', t.hartAt id = some h' ∧
        (h.gang ≠ m.gang → h' = h) ∧
        (h.gang = m.gang → h'.fst = h.fst ||| h.mflags ∧
          { h' with fst := h.fst, mflags := h.mflags, pwatch := h.pwatch, pwatchPc := h.pwatchPc } = h)) ∧
      ∀ a, t.memByte a = s.memByte a) ∧
  ∀ (s : State) (m : Mig) (x : Gang), s.migs[s.who]? = some m → m.moved = true → s.gangAt m.gang = some x → m.size = x.g →
    (∀ e e', e < x.g → e' < x.g → m.src + e ≠ m.dst + e') →
    ∃ t, Completes .lcidExchange s t ∧
      (∀ e, e < x.g → t.lcidOf (m.src + e) = s.lcidOf (m.dst + e) ∧ t.lcidOf (m.dst + e) = s.lcidOf (m.src + e) ∧
        (t.coreAt (m.src + e)).reserved = false ∧ (t.coreAt (m.dst + e)).reserved = false ∧
        (t.coreAt (m.src + e)).mchk.getLsbD 6 = true ∧ (t.coreAt (m.dst + e)).mchk.getLsbD 6 = true) ∧
      (∀ p, (∀ e, e < x.g → p ≠ m.src + e ∧ p ≠ m.dst + e) → t.lcidOf p = s.lcidOf p) ∧
      t.gangAt m.gang = some { x with stopping := decide ((s.lqAt x.queue).state = 2) } ∧
      t.migs = s.migs.eraseIdx s.who ∧ t.parks.take s.parks.length = s.parks ∧
      (t.parks.drop s.parks.length).map placeless = m.withdrawn.map placeless ∧ t.harts = s.harts ∧ SameStores s t

/-- R92, R97, R99, R378, R402: an upset flips one bit of a row, of its data, its full/empty bits, its tags or its check
bits, as passes see the row, and leaves the row as it was written; a scrub
corrects and logs a group with one bit upset, and leaves a group with more poisoned and logged; a droop detection
freezes the cores of its cluster and is logged, and the freeze of a core ends; the power clamp freezes every core and
sets DSTAT.CLAMP; after the thermal trip no launch runs, no completion word is written and no further step changes
anything. The model's choices it rests on: log 9, 43. -/
def Obligations.Power : Prop :=
  (∀ (s : State) (core array row bit : Nat), core < 384 → array < 32 → row < 1024 → bit < 606 →
    SMap.sorted s.upsets = true →
    let k := rowKey core array row
    ∃ t, Completes (.singleBitUpset core array row bit) s t ∧ SameStores s t ∧
      (∀ b, b < 512 → (t.rawRow k).data.getLsbD b = ((s.rawRow k).data.getLsbD b != decide (b = bit))) ∧
      (∀ b, b < 16 → (t.rawRow k).full.getLsbD b = ((s.rawRow k).full.getLsbD b != decide (512 + b = bit))) ∧
      (∀ b, b < 8 → (t.rawRow k).tags.getLsbD b = ((s.rawRow k).tags.getLsbD b != decide (528 + b = bit))) ∧
      (∀ k', k' ≠ k → t.rawRow k' = s.rawRow k') ∧
      ∀ n, (SMap.find t.upsets n).isSome = ((SMap.find s.upsets n).isSome != decide (n = 1024 * k + bit))) ∧
  (∀ s : State, ∃ t, Completes .arrayScrub s t ∧ SameStores s t ∧
    ∀ k d, d < 9 →
      let u := s.upsetsIn k d
      (u.length = 1 → t.upsetsIn k d = [] ∧ (t.coreAt (k / 32768)).mchk.getLsbD 0 = true) ∧
      (2 ≤ u.length → t.upsetsIn k d = u ∧ SMap.getD t.badRows k false = true ∧
        (t.coreAt (k / 32768)).mchk.getLsbD 1 = true)) ∧
  (∀ s : State, s.who < 16 → ∃ t, Completes .droopFreeze s t ∧ SameStores s t ∧ t.harts = s.harts ∧
    ∀ p, if p / 24 = s.who then (t.coreAt p).frozen = true ∧ (t.coreAt p).mchk.getLsbD 5 = true
      else t.coreAt p = s.coreAt p) ∧
  (∀ s : State, ∃ t, Completes .droopHoldExpire s t ∧ SameStores s t ∧ t.harts = s.harts ∧
    ∀ p, t.coreAt p = if p = s.who then { s.coreAt p with frozen := false } else s.coreAt p) ∧
  (∀ s : State, ∃ t, Completes .powerClamp s t ∧ SameStores s t ∧ t.harts = s.harts ∧ t.dev = { s.dev with clamp := true } ∧
    ∀ p, p < 384 → (t.coreAt p).frozen = true ∧ (t.coreAt p).mchk.getLsbD 5 = true) ∧
  ∀ s : State, ∃ t, Completes .thermalTrip s t ∧ SameStores s t ∧ t.dev = { s.dev with trip := true } ∧ t.harts = [] ∧
    t.gangs = [] ∧ t.msgs = s.msgs ∧ (∀ q, (t.lqAt q).launch = none ∧ (t.lqAt q).state = 0) ∧
    (s.agenda = [] → step t = .next t)

namespace Sys2Proof.Claims

/-! ## Heat of pages and the migration engine (R393 to R398) -/

/-- The engine may take a record: it is enabled, the part is up, no MOVE is under way, and the ring is not empty (R394). -/
abbrev EngineFree (s : State) : Prop :=
  s.dev.bootOk = true ∧ s.dev.trip = false ∧ s.mq.en = true ∧ s.mq.job = none ∧ s.mq.moving = none ∧
  s.mq.head % 2 ^ s.mq.size.toNat ≠ s.mq.tail % 2 ^ s.mq.size.toNat

/-- The four doublewords of the record at HEAD (R394, R395). -/
def mqRecord (s : State) : List W64 :=
  (List.range 4).map fun j => BitVec.ofNat 64 (s.physVal (s.mq.base.toNat + 32 * (s.mq.head % 2 ^ s.mq.size.toNat) + 8 * j) 8)

/-- A record's pages, within this device (R395). -/
def pageOf (x : Nat) : Nat := x % 2 ^ 30

/-- The record at HEAD is well formed with operation op, counts n pages, and they are present (R395). -/
abbrev Asks (s : State) (op n : Nat) : Prop :=
  let r := mqRecord s
  MRec.formOk r = true ∧ MRec.op r = op ∧ MRec.count r = n ∧ 0 < n ∧ s.pagesPresent (MRec.src r) n = true

/-- The record at HEAD and the completion word lie at a and c in memory, apart from the listed addresses (R394). -/
abbrev RecordAt (s : State) (a c : Nat) (others : List Nat) : Prop :=
  s.home (s.mqAddr + 7) = .mem (a + 7) ∧ s.home (s.mqAddr + 24) = .mem (a + 24) ∧ s.home s.mq.cpl.toNat = .mem c ∧
  ((others ++ [a + 7, a + 24, a + 25] ++ (List.range 8).map (c + ·)).map s.redirect).Nodup

/-- The record at HEAD has finished: STATUS and DONE are in it, the completion word is written, HEAD is past it (R394). -/
def Served (s t : State) (a c status done : Nat) : Prop :=
  t.memByte (a + 7) = BitVec.ofNat 8 status ∧ (∀ j, j < 2 → t.memByte (a + 24 + j) = BitVec.ofNat 8 (done / 256 ^ j)) ∧
  (∀ j, j < 8 → t.memByte (c + j) = BitVec.ofNat 8 ((s.mq.head * 2 ^ 32 + status) / 256 ^ j)) ∧
  t.mq = { s.mq with head := (s.mq.head + 1) % 2 ^ s.mq.size.toNat, job := none, moving := none } ∧
  (s.mq.msi = false → t.msgs = s.msgs) ∧ ∀ k, t.rowAt k = s.rowAt k

/-- The finish's message: none without MSI, and the one of an unmasked vector with it (R387, R394). -/
def Told (s t : State) : Prop :=
  let v := s.mq.vec.toNat
  let ctl := SMap.getD s.msix (2 * v + 1) 0
  (s.mq.msi = true → ctl.getLsbD 32 = false → t.msgs = s.msgs ++ [(SMap.getD s.msix (2 * v) 0, ctl &&& 0xFFFFFFFF)]) ∧
  (s.mq.msi = true → ctl.getLsbD 32 = true → t.msgs = s.msgs ∧ SMap.getD t.pba v false = true)

/-- The counter of page p after one request to the page of memory address a has reached its home (R393). -/
def heatAfter (s : State) (a p : Nat) : Nat :=
  let c := SMap.getD s.heat p 0
  if s.dev.heatEn = true ∧ p = s.redirect a / 65536 ∧ c < 255 then c + 1 else c

/-- Every redirect in a row has come to its end (R396). -/
def Settled (s : State) : Prop := ∀ p, SMap.find s.redirects (s.redirectPage s.redirects.length p) = none

end Sys2Proof.Claims

/-- R393 to R396, R398, R401: a write to MQ.TAIL, performed after the host's earlier requests, and which in recovery does
nothing; a MOVE that may run starts its first
page; a record that is ill formed, names no page or absent ones is refused with status 3, as is a MOVE of pages that meet
or of redirected pages; a RELEASE removes the redirects of its pages; a HEATDUMP writes
one counter a byte; the cut-over of a page installs its redirect and moves its heat; each line not copied yet reads as before, each copied
one as the destination then holds it, and it starts the next page or ends the record with status 1, or with a tag that
disagrees poisons the source and ends the record with status 2, DONE the pages moved before; a store that was held is then
performed, at the destination or, where the tag disagrees, at the source; a record's end sends the queue's message if MSI
is set; a scalar load or ordered store counts one touch of its page, as does a store that drains; the end of an epoch
halves every counter. The model's choices it rests on: log 12, 41, 42, 44. -/
def Obligations.Tiers : Prop :=
  (∀ (s : State) (v : W64),
    (s.hostHeld = true → Completes (.mqTailWrite v) s
      { s with asleep := [], hostQ := s.hostQ ++ [.write false 0x200018 8 (v.setWidth 512)] }) ∧
    (HostFree s → s.dev.recov = true → Completes (.mqTailWrite v) s { s with asleep := [] }) ∧
    (HostFree s → s.dev.recov = false → ∃ t, Completes (.mqTailWrite v) s t ∧ SameStores s t ∧
      t.mq = { s.mq with tail := v.toNat % 65536 })) ∧
  (∀ s : State, EngineFree s →
    let r := mqRecord s
    let src := pageOf (MRec.src r)
    let dst := pageOf (MRec.dst r)
    (∀ n, Asks s 1 n → s.pagesPresent (MRec.dst r) n = true → (src + n ≤ dst ∨ dst + n ≤ src) →
      (∀ e ∈ s.redirects, (e.1 < src ∨ src + n ≤ e.1) ∧ (e.1 < dst ∨ dst + n ≤ e.1)) → s.redirects.length < 4096 →
      ∃ t, Completes .move s t ∧ SameStores s t ∧
        t.mq = { s.mq with job := some (src, dst, 0, n), moving := some ⟨src, dst, 0, []⟩ }) ∧
    (∀ a c, RecordAt s a c [] →
      let bad := MRec.formOk r = false ∨ MRec.count r = 0 ∨ s.pagesPresent (MRec.src r) (MRec.count r) = false
      (MRec.op r ≠ 2 → MRec.op r ≠ 3 →
        (bad ∨ s.pagesPresent (MRec.dst r) (MRec.count r) = false ∨
          (src < dst + MRec.count r ∧ dst < src + MRec.count r) ∨
          (∃ e ∈ s.redirects, (src ≤ e.1 ∧ e.1 < src + MRec.count r) ∨ (dst ≤ e.1 ∧ e.1 < dst + MRec.count r))) →
        ∃ t, Completes .move s t ∧ Served s t a c 3 0 ∧ Told s t) ∧
      (MRec.op r = 2 → bad → ∃ t, Completes .release s t ∧ Served s t a c 3 0 ∧ Told s t) ∧
      (MRec.op r = 3 →
        (bad ∨ s.pagesPresent (MRec.dstByte r / 65536) ((MRec.dstByte r % 65536 + MRec.count r + 65535) / 65536) = false) →
        ∃ t, Completes .heatdump s t ∧ Served s t a c 3 0 ∧ Told s t)) ∧
    (∀ n a c, Asks s 2 n →
      let u := { s with redirects := SMap.restrict s.redirects fun p => !(decide (src ≤ p) && decide (p < src + n)) }
      RecordAt u a c [] →
      ∃ t, Completes .release s t ∧ Served u t a c 1 n ∧ Told s t ∧
        ∀ p, SMap.find t.redirects p = if src ≤ p ∧ p < src + n then none else SMap.find s.redirects p) ∧
    ∀ n a b c, Asks s 3 n → s.pagesPresent (MRec.dstByte r / 65536) ((MRec.dstByte r % 65536 + n + 65535) / 65536) = true →
      (∀ j, j < n → s.home (MRec.dstByte r + j) = .mem (b + j)) → RecordAt s a c ((List.range n).map (b + ·)) →
      ∃ t, Completes .heatdump s t ∧ Served s t a c 1 n ∧ Told s t ∧
        ∀ j, j < n → t.memByte (b + j) = BitVec.ofNat 8 (SMap.getD s.heat (src + j) 0)) ∧
  (∀ (s : State) (j : Nat × Nat × Nat × Nat) (m : Moving), s.mq.job = some j → s.mq.moving = some m → m.lines < 1024 →
    SMap.sorted s.lines = true →
    ∃ t, Completes .move s t ∧ t.mq = { s.mq with moving := some { m with lines := m.lines + 1 } } ∧
      (∀ x y, s.redirect y / 64 = 1024 * m.src + m.lines → s.redirect x / 64 = 1024 * m.dst + m.lines →
        s.redirect x % 64 = s.redirect y % 64 → t.memByte x = s.memByte y) ∧
      (∀ x, s.redirect x / 64 ≠ 1024 * m.dst + m.lines → t.memByte x = s.memByte x) ∧ ∀ k, t.rowAt k = s.rowAt k) ∧
  (∀ (s : State) (src dst done n a b l : Nat), s.mq.job = some (src, dst, done, n) → s.mq.moving = some ⟨a, b, l, []⟩ →
    s.hostQ = [] →
    ((∀ e ∈ s.flips, e.1 / 65536 ≠ a) → SMap.find s.redirects a = none → SMap.find s.redirects b = none → a ≠ b →
      ∃ t, Completes .movePageCutover s t ∧ SMap.find t.redirects a = some b ∧
        (∀ p, p ≠ a → SMap.find t.redirects p = SMap.find s.redirects p) ∧
        SMap.getD t.heat b 0 = SMap.getD s.heat a 0 ∧ SMap.getD t.heat a 0 = 0 ∧
        (done + 1 < n → (∀ k, t.rowAt k = s.rowAt k) ∧ t.mq.job = some (src, dst, done + 1, n) ∧
          t.mq.moving = (if s.redirects.length + 1 < 4096 then some ⟨src + done + 1, dst + done + 1, 0, []⟩ else none) ∧
          (Settled s → SMap.sorted s.lines = true → l ≤ 1024 → ∀ x, s.redirect x / 65536 ≠ b →
            t.memByte x = s.memByte
              (if s.redirect x / 65536 = a ∧ s.redirect x % 65536 / 64 < l then 65536 * b + s.redirect x % 65536 else x))) ∧
        (n ≤ done + 1 → ∀ x c, RecordAt { s with redirects := SMap.put s.redirects a b } x c [] →
          Served s t x c 1 n ∧ Told s t)) ∧
    (0x10000000 ≤ a → b < 0x10000000 → s.tagBad a = true →
      ∃ t, Completes .movePageCutover s t ∧ t.redirects = s.redirects ∧ t.dev.hubUe = true ∧
        (∀ j, j < 1024 → SMap.getD t.poison (1024 * a + j) false = true) ∧
        ∀ x c, RecordAt s x c [] → Served s t x c 2 done ∧ Told s t)) ∧
  (∀ (s : State) (src dst done n a b l pa x : Nat) (bs : List Byte) (host : Bool), s.mq.job = some (src, dst, done, n) →
    s.mq.moving = some ⟨a, b, l, [⟨pa, bs, host⟩]⟩ → s.hostQ = [] → s.home pa = .mem x → x % 64 + bs.length ≤ 64 →
    s.redirect x / 65536 = a →
    ((∀ e ∈ s.flips, e.1 / 65536 ≠ a) → SMap.find s.redirects a = none → SMap.find s.redirects b = none → a ≠ b →
      done + 1 < n →
      ∃ t u, Completes .movePageCutover s t ∧
        Completes .movePageCutover { s with mq := { s.mq with moving := some ⟨a, b, l, []⟩ } } u ∧
        t.redirects = u.redirects ∧ t.mq = u.mq ∧ (∀ j, j < bs.length → t.memByte (x + j) = bs.getD j 0) ∧
        t.redirect x = 65536 * b + s.redirect x % 65536 ∧
        ∀ y, (∀ j, j < bs.length → t.redirect y ≠ t.redirect (x + j)) → t.memByte y = u.memByte y) ∧
    (0x10000000 ≤ a → b < 0x10000000 → s.tagBad a = true → ∀ r c,
      RecordAt s r c ((List.range bs.length).map (x + ·)) →
      ∃ t, Completes .movePageCutover s t ∧ t.redirects = s.redirects ∧ Served s t r c 2 done ∧
        ∀ j, j < bs.length → t.memByte (x + j) = bs.getD j 0)) ∧
  (∀ (i : Instr) (s : State) (id : Nat) (h : Hart) (g : Gang) (pa a n : Nat), Runs i s id h g → WellFormed i = true →
    s.accessHeld id pa n = false → s.home pa = .mem a →
    (∀ (d : Reg) (va : W64) (sx : Bool), loadOf h i = some (d, va, n, sx) → va.toNat % n = 0 →
      s.access (s.agentOf h) va .load n = .ok pa →
      ∃ t, Completes i s t ∧ ∀ p, SMap.getD t.heat p 0 = heatAfter s a p) ∧
    ∀ (va v : W64) (order scope : Nat), storeOf h i = some (va, n, v, order, scope) → va.toNat % n = 0 → order ≠ 0 →
      s.access (s.agentOf h) va .store n = .ok pa → s.storeReserved pa n = false → s.settledFor id h scope = true →
      s.pageMoving pa = false →
      ∃ t, Completes i s t ∧ ∀ p, SMap.getD t.heat p 0 = heatAfter s a p) ∧
  (∀ (s : State) (id n a : Nat) (h : Hart) (d : Drain), s.hartAt id = some h → h.drain[n]? = some d → d.bytes ≠ [] →
    s.drainReady id h n d = true → s.home d.pa = .mem a →
    ∃ t, Completes (.storeDrain id n) s t ∧ ∀ p, SMap.getD t.heat p 0 = heatAfter s a p) ∧
  ∀ s : State, SMap.sorted s.heat = true → ∃ t, Completes .heatEpochHalve s t ∧ SameStores s t ∧
    ∀ p, SMap.getD t.heat p 0 = if s.dev.heatEn = true then SMap.getD s.heat p 0 / 2 else SMap.getD s.heat p 0

namespace Sys2Proof.Claims

/-! ## The host port and peers (R3, R382 to R390, R399 to R401) -/

/-- The ranges of offsets of the control space (R382). -/
def controlRanges : List (Nat × Nat) :=
  [(0, 0x1000), (0x1000, 0x1800), (0x100000, 0x100800), (0x200000, 0x200100), (0x300000, 0x320100), (0x400000, 0x400200),
    (0x500000, 0x508100)]

/-- An access of a size that BAR0 does not serve, or not aligned, or at a reserved offset (R382), or in recovery at one
outside device control, the measurements and the MSI-X table (R401). -/
abbrev Unserved (s : State) (off size : Nat) : Prop :=
  (size ≠ 4 ∧ size ≠ 8) ∨ off % size ≠ 0 ∨ (∀ r ∈ controlRanges, ¬ (r.1 ≤ off ∧ off < r.2)) ∨
  (s.dev.recov = true ∧ 0x1000 ≤ off ∧ off < 0x400000)

/-- A queue's register after a doubleword write of its address registers or its size (R350). -/
def lqAfter (l : LQ) (v : W64) : Nat → Option LQ
  | 0x00 => some { l with base := (l.base &&& ~~~0x00FFFFFFFFFFFF80) ||| (v &&& 0x00FFFFFFFFFFFF80) }
  | 0x08 => some { l with size := v.extractLsb' 0 4 }
  | 0x20 => some { l with cpl := (l.cpl &&& ~~~0x00FFFFFFFFFFFFF8) ||| (v &&& 0x00FFFFFFFFFFFFF8) }
  | 0x28 => some { l with tvec := (l.tvec &&& ~~~0x000FFFFFFFFFFFFC) ||| (v &&& 0x000FFFFFFFFFFFFC) }
  | 0x30 => some { l with root := (l.root &&& ~~~0x00FFFFFFFFFF0000) ||| (v &&& 0x00FFFFFFFFFF0000) }
  | _ => none

/-- A queue after a doubleword write of LQ.CTL (R350): its fields, and the requests to resume a pre-empted launch and to
pre-empt a running or resuming one; one without a context waits with PREEMPT set (R363). -/
def ctlAfter (l : LQ) (v : W64) : LQ :=
  let l' := { l with
    vec := v.extractLsb' 16 11, msi := v.getLsbD 15, xok := v.getLsbD 2, privok := v.getLsbD 1, en := v.getLsbD 0 }
  if v.getLsbD 4 = true ∧ l.state = 3 then { l' with state := 4, resume := false }
  else if v.getLsbD 3 = true ∧ (l.state = 1 ∨ l.state = 4) then
    match l.launch with
    | none => l'
    | some la =>
      if la.record.getD 3 0 = 0 then { l' with preempt := true }
      else { l' with preempt := false, resume := false, state := 2 }
  else l'

/-- The migration queue after a doubleword write of one of its registers (R394). -/
def mqAfter (q : MQ) (v : W64) : Nat → Option MQ
  | 0x00 => some { q with base := (q.base &&& ~~~0x00FFFFFFFFFFFFE0) ||| (v &&& 0x00FFFFFFFFFFFFE0) }
  | 0x08 => some { q with size := v.extractLsb' 0 4 }
  | 0x10 => some q
  | 0x18 => some { q with tail := v.toNat % 65536 }
  | 0x20 => some { q with cpl := (q.cpl &&& ~~~0x00FFFFFFFFFFFFF8) ||| (v &&& 0x00FFFFFFFFFFFFF8) }
  | 0x28 => some { q with vec := v.extractLsb' 16 11, msi := v.getLsbD 15, en := v.getLsbD 0 }
  | _ => none

/-- Device control after a doubleword write of the host (R384): DSTAT, BAR2WIN, HEAT, SCRUB and the read-only HBM and
Undercroft capacities. -/
def devAfter (d : DevCtl) (v : W64) : Nat → Option DevCtl
  | 0x008 => some { d with linkErr := d.linkErr && !v.getLsbD 5, clamp := d.clamp && !v.getLsbD 4 }
  | 0x010 => some { d with bar2Base := v.extractLsb' 30 16 >>> (d.bar2Log - 30) <<< (d.bar2Log - 30) }
  | 0x018 => some d
  | 0x020 => some d
  | 0x800 => some { d with heatEn := v.getLsbD 8, heatEpoch := v.extractLsb' 0 5 }
  | 0x808 => some { d with scrubMs := BitVec.ofNat 7 (Max.max 1 (Min.min (v.toNat % 128) 100)) }
  | _ => none

/-- The offsets of the fields that the host alone writes: DEVCFG, BAR2WIN, ROUTE and the MSI-X table (R383). -/
def HostOnly (off : Nat) : Prop :=
  off < 8 ∨ (0x10 ≤ off ∧ off < 0x18) ∨ (0x400 ≤ off ∧ off < 0x700) ∨ (0x500000 ≤ off ∧ off < 0x508000)

/-- The core and the lane of a retirement entry's location (R399). -/
def lostCore (loc : Nat) : Nat := loc / 2 ^ 20 % 2 ^ 9

end Sys2Proof.Claims

/-- R3, R382 to R390, R396, R398 to R401: a host write through BAR2 stores its bytes in memory, is held where a page
moves, and later host requests wait behind it; one of a whole line clears the line's poison; one through BAR0 writes a
register field by field, as
CONTROL_REGISTER_WRITE does, or changes nothing where BAR0 does not serve it: the queues' registers and control bits, the
migration queue's, device control, the routes, the Pantry table as PRGN_WRITE does and the tails as their events do, and
the MSI-X table, where unmasking sends a pending message; a privileged hart's store to a field of the host alone changes
nothing; a host read answers with the bytes, ones
outside the memory, the register, or zeros; a resize of BAR2 clears the base bits below its size; a peer's read, write or
atomic is performed in memory or a local store, or refused in control space; a request without an answer completes
poisoned with LINKERR; a retirement entry is chained and a lane goes at once or when its core is free; a reset puts
every field at its reset value and keeps memory and the flash table; bring-up admits launches or stays in recovery. The
model's choices it rests on: log 8, 14, 17, 22, 44, 45. -/
def Obligations.HostPort : Prop :=
  (∀ (s : State) (off size : Nat) (v : BitVec 512) (f : Nat → Nat), size ≤ 64 → HostFree s →
    (∀ j, j < size → s.bar2Addr (off + j) = some (f j)) →
    let byte (j : Nat) : Byte := BitVec.ofNat 8 (v.toNat / 256 ^ j)
    let whole : Prop := off % 64 = 0 ∧ size = 64
    (s.mq.moving = none → (((List.range size).map f).map s.redirect).Nodup →
      ∃ t, Completes (.hostWrite true off size v) s t ∧ (∀ j, j < size → t.memByte (f j) = byte j) ∧
        (∀ b, (∀ j, j < size → s.redirect b ≠ s.redirect (f j)) → t.memByte b = s.memByte b) ∧
        (∀ l, SMap.getD t.poison l false =
          if off % 64 = 0 ∧ size = 64 ∧ l = s.redirect (f 0) / 64 then false else SMap.getD s.poison l false) ∧
        ∀ k, t.rowAt k = s.rowAt k) ∧
    (∀ m, s.mq.moving = some m → (∀ j, j < size → s.redirect (f j) / 65536 = m.src) →
      (¬ whole → ∃ t, Completes (.hostWrite true off size v) s t ∧ SameStores s t ∧
        t.mq = { s.mq with moving := some { m with
          held := m.held ++ (List.range size).map fun j => ⟨s.dev.devid * 2 ^ 46 + f j, [byte j], true⟩ } }) ∧
      (whole → ∃ t, Completes (.hostWrite true off size v) s t ∧ SameStores s t ∧
        t.mq = { s.mq with moving := some { m with
          held := m.held ++ [⟨s.dev.devid * 2 ^ 46 + f 0, (List.range 64).map byte, true⟩] } })) ∧
    ∃ t, Completes (.hostRead true off size) s t ∧ SameStores s t ∧
      t.hostReads = s.hostReads ++ [(List.range size).map fun j => s.memByte (f j)]) ∧
  (∀ (s : State) (bar2 : Bool) (off size : Nat) (v : BitVec 512), s.hostHeld = true →
    Completes (.hostRead bar2 off size) s { s with hostQ := s.hostQ ++ [.read bar2 off size] } ∧
    Completes (.hostWrite bar2 off size v) s { s with asleep := [], hostQ := s.hostQ ++ [.write bar2 off size v] }) ∧
  (∀ (s : State) (off size : Nat), HostFree s → (∀ j, j < size → s.bar2Addr (off + j) = none) →
    ∃ t, Completes (.hostRead true off size) s t ∧ t.hostReads = s.hostReads ++ [List.replicate size 0xFF]) ∧
  (∀ (s : State) (off size : Nat) (v : W64),
    (s.hostHeld = true → Completes (.controlRegisterWrite off size v) s
      { s with asleep := [], hostQ := s.hostQ ++ [.write false off size (v.setWidth 512)] }) ∧
    (HostFree s →
      (∃ t, Completes (.controlRegisterWrite off size v) s t ∧ SameStores s t ∧
        Completes (.hostWrite false off size (v.setWidth 512)) s t) ∧
      (Unserved s off size → Completes (.controlRegisterWrite off size v) s { s with asleep := [] } ∧
        ∃ t, Completes (.hostRead false off size) s t ∧ t.hostReads = s.hostReads ++ [List.replicate size 0]))) ∧
  (∀ (s : State) (v : W64), s.dev.recov = false → HostFree s →
    (∀ q r l, q < 16 → lqAfter (s.lqAt q) v r = some l →
      ∃ t, Completes (.hostWrite false (0x1000 + 0x80 * q + r) 8 (v.setWidth 512)) s t ∧ t.lqAt q = l ∧
        ∀ n, n ≠ q → t.lqAt n = s.lqAt n) ∧
    (∀ q, q < 16 → let l := ctlAfter (s.lqAt q) v
      ∃ t, Completes (.hostWrite false (0x1038 + 0x80 * q) 8 (v.setWidth 512)) s t ∧ t.lqAt q = l ∧
        (∀ n, n ≠ q → t.lqAt n = s.lqAt n) ∧ t.harts = s.harts ∧
        ∀ k x, s.gangAt k = some x →
          t.gangAt k = some (if x.queue = q ∧ (s.lqAt q).state ≠ 2 ∧ l.state = 2 then { x with stopping := true } else x)) ∧
    (∀ q, q < 16 → ∃ t, Completes (.hostWrite false (0x1018 + 0x80 * q) 8 (v.setWidth 512)) s t ∧
      Completes (.lqTailWrite q v) s t) ∧
    (∀ r q, mqAfter s.mq v r = some q →
      ∃ t, Completes (.hostWrite false (0x200000 + r) 8 (v.setWidth 512)) s t ∧ t.mq = q ∧ SameStores s t) ∧
    (∀ n, n < 256 → ∃ t, Completes (.hostWrite false (0x100000 + 8 * n) 8 (v.setWidth 512)) s t ∧
      Completes (.prgnWrite n v) s t) ∧
    (∀ q, q < 16 → ∃ t, Completes (.hostRead false (0x1000 + 0x80 * q) 8) s t ∧
      t.hostReads = s.hostReads ++ [(List.range 8).map (byteOf (s.lqAt q).base)]) ∧
    ∀ r d, devAfter s.dev v r = some d →
      ∃ t, Completes (.hostWrite false r 8 (v.setWidth 512)) s t ∧ t.dev = d ∧ t.lqs = s.lqs ∧ t.routes = s.routes ∧
        SameStores s t) ∧
  (∀ (s : State) (v : W64), HostFree s →
    ((∀ q, (s.lqAt q).state = 0) → SMap.sorted s.lqs = true →
      ∃ t, Completes (.hostWrite false 0 8 (v.setWidth 512)) s t ∧
        t.dev = if v.toNat % 1024 < 768 then { s.dev with devid := v.toNat % 1024 } else s.dev) ∧
    (∀ q, (s.lqAt q).state ≠ 0 → ∃ t, Completes (.hostWrite false 0 8 (v.setWidth 512)) s t ∧ t.dev = s.dev) ∧
    (∀ n, n < 96 → ∃ t, Completes (.hostWrite false (0x400 + 8 * n) 8 (v.setWidth 512)) s t ∧ t.dev = s.dev ∧
      ∀ d, SMap.getD t.routes d 0 = if d / 8 = n then v.extractLsb' (8 * (d % 8)) 4 else SMap.getD s.routes d 0) ∧
    ∀ k, k < 4096 → let x := k / 2
      ∃ t, Completes (.hostWrite false (0x500000 + 8 * k) 8 (v.setWidth 512)) s t ∧
        (∀ j, SMap.getD t.msix j 0 = if j = k then v else SMap.getD s.msix j 0) ∧
        (k % 2 = 1 → v.getLsbD 32 = false → SMap.getD s.pba x false = true →
          t.msgs = s.msgs ++ [(SMap.getD s.msix (2 * x) 0, v &&& 0xFFFFFFFF)] ∧
          ∀ j, SMap.getD t.pba j false = (SMap.getD s.pba j false && decide (j ≠ x))) ∧
        (k % 2 = 0 ∨ v.getLsbD 32 = true ∨ SMap.getD s.pba x false = false → t.msgs = s.msgs ∧ t.pba = s.pba)) ∧
  (∀ (i : Instr) (s : State) (id : Nat) (h : Hart) (g : Gang) (va : W64) (n : Nat) (v : W64) (order scope pa off : Nat),
    Runs i s id h g → WellFormed i = true → storeOf h i = some (va, n, v, order, scope) → va.toNat % n = 0 →
    s.access (s.agentOf h) va .store n = .ok pa → s.accessHeld id pa n = false → s.home pa = .ctrl off → HostOnly off →
    (h.det = true → h.go = true) → s.settledFor id h 4 = true → Completes i s (finished s id)) ∧
  (∀ s : State, 30 ≤ s.who → s.who ≤ 39 → ∃ t, Completes .bar2Resize s t ∧ SameStores s t ∧
    t.dev = { s.dev with bar2Log := s.who, bar2Base := t.dev.bar2Base } ∧
    (∀ j, j < 16 → t.dev.bar2Base.getLsbD j = (s.dev.bar2Base.getLsbD j && decide (s.who - 30 ≤ j)))) ∧
  (∀ (s : State) (pa n a fn : Nat) (v : BitVec 512) (w w' : W64), s.home pa = .mem a → n ≤ 64 → s.dev.trip = false →
    s.lines.length < 24576 →
    let old := leNat ((List.range n).map fun j => s.memByte (a + j))
    let stored (t : State) (y : Nat) : Prop :=
      (∀ j, j < n → t.memByte (a + j) = BitVec.ofNat 8 (y / 256 ^ j)) ∧
      (∀ b, (∀ j, j < n → s.redirect b ≠ s.redirect (a + j)) → t.memByte b = s.memByte b) ∧ ∀ k, t.rowAt k = s.rowAt k
    (s.physPoison pa n = false → ∃ t, Completes (.remoteRequest pa (.read n)) s t ∧ SameStores s t ∧
      t.peerAnswers = s.peerAnswers ++ [some (some (BitVec.ofNat 512 old))]) ∧
    (s.mq.moving = none → (∀ i j, i < n → j < n → i ≠ j → s.redirect (a + i) ≠ s.redirect (a + j)) →
      (∃ t, Completes (.remoteRequest pa (.write n v)) s t ∧ stored t (v.toNat % 2 ^ (8 * n))) ∧
      (s.physPoison pa n = false → (n = 4 ∨ n = 8) → (fn = 1 → n = 4) →
        ∃ t, Completes (.remoteRequest pa (.atomic fn n w w')) s t ∧
          stored t (atomicValue fn n old (w.toNat % 2 ^ (8 * n)) (w'.toNat % 2 ^ (8 * n))) ∧
          t.peerAnswers = s.peerAnswers ++ [some (some (BitVec.ofNat 512 old))]))) ∧
  (∀ (s : State) (pa n p off : Nat) (v : BitVec 512), s.home pa = .ls p off → off % 64 + n ≤ 64 → s.dev.trip = false →
    s.coreMoving p = false → s.upsets = [] →
    let k := s.lsRow p (off / 64)
    (s.physPoison pa n = false → ∃ t, Completes (.remoteRequest pa (.read n)) s t ∧ SameStores s t ∧
      t.peerAnswers =
        s.peerAnswers ++ [some (some (BitVec.ofNat 512 (takeBits (s.rowAt k).data (8 * (off % 64)) (8 * n))))]) ∧
    (s.storeReserved pa n = false → ∃ t, Completes (.remoteRequest pa (.write n v)) s t ∧
      (∀ k', t.rowAt k' = if k' = k then withField (s.rowAt k) (8 * (off % 64)) (8 * n) (v.toNat % 2 ^ (8 * n)) else s.rowAt k') ∧
      ∀ a, t.memByte a = s.memByte a)) ∧
  (∀ (s : State) (pa off n : Nat) (v : BitVec 512), s.home pa = .ctrl off → s.dev.trip = false →
    Completes (.remoteRequest pa (.write n v)) s s ∧
    Completes (.remoteRequest pa (.read n)) s { s with peerAnswers := s.peerAnswers ++ [none] }) ∧
  (∀ (s : State) (r : Remote), s.remotes[s.who]? = some r → r.answer = none →
    ∃ t, Completes .remoteTimeout s t ∧ t.dev = { s.dev with linkErr := true } ∧ SameStores s t ∧
      (r.dest = none → t.remotes = s.remotes.set s.who { r with answer := some none } ∧ t.harts = s.harts) ∧
      ∀ d va h, r.dest = some (d, va) → d ≠ 0 → s.hartAt r.hart = some h →
        t.remotes = s.remotes.eraseIdx s.who ∧ t.hartAt r.hart = some { h with fills := h.fills ++ [⟨d, va, true⟩] }) ∧
  (∀ (s : State) (kind loc : Nat), s.rt.length < 8192 →
    ∃ t e, Completes (.retirementAppend kind loc) s t ∧ t.rt = s.rt ++ [e] ∧ SameStores s t ∧
      e.w0 = BitVec.ofNat 64 (s.rt.length * 2 ^ 32 + kind % 256) ∧ e.w1.extractLsb' 0 32 = BitVec.ofNat 32 loc ∧
      (∀ last, s.rt.getLast? = some last → e.w1.extractLsb' 32 32 = shake32 last.w0 last.w1) ∧
      (kind = 5 → lostCore loc < 384 →
        let c := s.coreAt (lostCore loc)
        t.coreAt (lostCore loc) =
          if (s.gangOn (lostCore loc)).isSome ∨ c.reserved = true
          then { c with pendingLanes := c.pendingLanes ||| BitVec.twoPow 8 (loc % 8) }
          else { c with lanes := c.lanes &&& ~~~BitVec.twoPow 8 (loc % 8) })) ∧
  (∀ s : State, ∃ t, Completes .deviceReset s t ∧ (t.mem, t.lines, t.poison) = (s.mem, s.lines, s.poison) ∧ t.rt = s.rt ∧
    { t with
      agenda := [], keep := false, serial := 0, mem := [], lines := [], poison := [], flips := [], rt := [], rtFull := false
      rtLate := [] } = State.reset) ∧
  ∀ (s : State) (b : BootInput),
    ∃ t, Completes (.bringUp b) s t ∧ SameStores s t ∧
      t.dev.bootOk = (b.imagesOk && b.signatureOk) ∧ t.dev.recov = !(b.imagesOk && b.signatureOk) ∧
      t.dev.ucGib = Min.min 15360 (b.cxlGiB.take 4).sum ∧ (∀ n, n < 8 → SMap.getD t.meas n 0 = b.meas.getD n 0) ∧
      (b.imagesOk = true → b.signatureOk = true →
        t.dev.hbmHalf = 768 - 3 * (((s.rt ++ s.rtLate).filter fun e => e.w0.toNat % 256 == 2).map fun e =>
          e.w1.toNat % 2 ^ 32 / 2 ^ 24).eraseDups.length) ∧
      (b.imagesOk = true → b.signatureOk = true → s.gangs = [] → ∀ e ∈ s.rt, e.w0.toNat % 256 = 5 →
        lostCore e.w1.toNat < 384 → (s.coreAt (lostCore e.w1.toNat)).reserved = false →
        (t.coreAt (lostCore e.w1.toNat)).lanes.getLsbD (e.w1.toNat % 8) = false)

namespace Sys2Proof.Claims

/-! ## Steps, encodings and the whole machine -/

/-- The next step of s is a step of hart id, in state u: the agenda says so, or nothing else is to be done and the hart is
next (log 4). -/
def HartSteps (s u : State) (id : Nat) : Prop :=
  (∃ rest, s.agenda = .hart id :: rest ∧ u = { s with agenda := rest }) ∨
  (s.agenda = [] ∧ s.dev.trip = false ∧ s.firstOf s.work = none ∧ s.nextHart = some id ∧ u = s)

/-- NA of the gang is no more than the present lanes of each of its cores give (R20), and its slots share the rows (R19,
R21). -/
abbrev Formed (s : State) (g : Gang) : Prop :=
  (∀ e, e < g.g → g.na ≤ 4 * (s.lanesOf (g.first + e)).length) ∧ (g.h = 1 ∨ g.h = 2 ∨ g.h = 4)

/-- A hart of the gang holds no more than its slot's rows (R21, R189). -/
abbrev Granted (h : Hart) (g : Gang) : Prop := h.slot < g.h ∧ h.rows ≤ 1024 / g.h

end Sys2Proof.Claims

/-- R22 with R20, R21 and R193: in a formed gang two elements, of one hart or of two, have the same row only when they
are the same element of the same hart; on a lone core element i is local-store row L0 + i; and the rows that a hart's
row indices name on a core are all different. -/
def Obligations.DistinctRows : Prop :=
  ∀ (s : State) (g : Gang), Formed s g →
    (∀ (a b : Hart) (i j : Nat), Granted a g → Granted b g → i < g.g * g.na * a.rows → j < g.g * g.na * b.rows →
      s.elemKey g a.slot i = s.elemKey g b.slot j → a.slot = b.slot ∧ i = j) ∧
    (∀ (n : Nat) (h : Hart) (i : Nat), g.g = 1 → s.gangOn g.first = some (n, g) → Granted h g → i < g.na * h.rows →
      s.elemKey g h.slot i = s.lsRow g.first (h.slot * g.na * 1024 / g.h + i)) ∧
    ∀ h e, Granted h g → e < g.g → Spread s h g e

/-- The machine's step at a hart: inside a convoy, the instruction the hart is at, executed for that hart; at a boundary
(R36, R55), the line at the hart's pc is read from memory and checked, and when its convoy is issued the same step
executes the convoy's first instruction, decoded from the parcels at the pc; and an event of the agenda is executed on
its agent. The model's choices it rests on: log 4, 7, 26. -/
def Obligations.StepRunsInstr : Prop :=
  (∀ (s u : State) (id : Nat) (h : Hart) (g : Gang) (i : Instr), HartSteps s u id → u.hartAt id = some h →
    u.gangAt h.gang = some g → h.current = some i → step s = exec i { u with cur := some id }) ∧
  (∀ (s u v : State) (id : Nat) (h : Hart) (g : Gang) (line : Nat) (p : Parcel) (i : Instr), HartSteps s u id →
    u.hartAt id = some h → u.gangAt h.gang = some g → u.mayIssue id h = true → h.ci = 0 → u.fetchAt h = (v, .ok line) →
    v.issueCheck h g (Line.convoy line h.pc) = .go → (Line.convoy line h.pc).head? = some (p, .ok i) →
    ∃ t c, step s = exec i t ∧ t.cur = some id ∧ t.hartAt id = some { h with conv := some c, fst := h.fst ||| h.mflags, mflags := 0, skips := 0, yielded := false } ∧
      t.gangAt h.gang = some g ∧ c.instrs = decoded (Line.convoy line h.pc) ∧ c.succ = Line.successor line h.pc ∧
      c.idx = 0 ∧ c.stop = none ∧ c.target = none ∧ SameStores s t) ∧
  (∀ (s : State) (h : Hart) (pa : Nat), s.keep = false → s.lbuf = [] →
    s.fetchXlate (s.agentOf h) (BitVec.ofNat 64 (h.pc.toNat / 64 * 64)) = some pa →
    let line := s.physVal pa 64
    Line.parityOk line = true → Line.reason line = none → h.entry = .sequential → s.fetchAt h = (s, .ok line)) ∧
  (∀ (line : Nat) (pc : W64), pc.toNat % 64 / 4 ∈ (Line.divide line).1 →
    (Line.convoy line pc).head? =
      some (Line.parcel line (pc.toNat % 64 / 4), decode (Line.parcels line (pc.toNat % 64 / 4)))) ∧
  ∀ (s : State) (i : Instr) (n : Nat) (rest : List Input), s.agenda = .event i n :: rest →
    step s = exec i { s with agenda := rest, who := n, cur := none }

/-- Words of the spec's encodings decode to the instructions they stand for (R42 to R45, R371): addi s1, s2, -1; exit
and exit.fail; lds of 4 bytes, sign-extended; movl; fadd on three FP32 fields; and no word of length code 0b11 (R34), no
unassigned word (R4) and no C-form word with a nonzero unused field decodes. -/
def Obligations.DecodeWords : Prop :=
  decode [0xFFF08104] = .ok (.addi 1 2 0xFFF) ∧ decode [0x000000CC] = .ok .exit ∧ decode [0x001000CC] = .ok .exitFail ∧
  decode [0x8006140D, 0x01000010] = .ok (.lds ⟨5, 6, 0, false, false, 2, 0x01000010⟩) ∧
  decode [0x00000682, 0x89ABCDEF, 0x01234567] = .ok (.movl ⟨1, 0, 0, false, false, 0, 0x89ABCDEF⟩ 0x01234567) ∧
  decode [0x3E000182, 0x0F901F10, 0x00000001] =
    .ok (.fadd
      { mask := 0, ord := false, D := 0x3E00, A := 0x3E20, B := 0x3E40, pa := false, pb := false, type := 2, fn4 := 0, x := 0 }) ∧
  decode [0x00000003] = .error .lengthCode ∧ decode [0x000000FC] = .error .unassigned ∧
  decode [0x000001CC] = .error .unassigned

/-- R42 to R45, R56, R57: every well-formed instruction decodes from its own parcels, with every operand as it was. -/
def Obligations.RoundTrip : Prop :=
  ∀ i : Instr, isEvent i = false → WellFormed i = true → decode (encode i) = .ok i

/-- Whatever the step, memory stays in its canonical form: addresses strictly rising, no byte listed that reads as an
unlisted one does. -/
def Obligations.StepKeepsMemory : Prop :=
  ∀ s t : State, s.Inv → step s = .next t → t.Inv

/-- No step stops: with an agenda that is in order, the machine goes on from every state, on any program and any data.
The model's choices it rests on: log 4. -/
def Obligations.StepGoesOn : Prop :=
  ∀ s : State, s.agendaOk = true → ∃ t, step s = .next t

/-- R70, R303, R350, R377, R384, R394: right after reset memory is in canonical form, nothing runs, every launch queue
and the migration queue are idle with registers of 0, every Pantry region is disabled, and the device control registers
and the shared registers read the values the spec states. -/
def Obligations.Reset : Prop :=
  let s := State.reset
  s.Inv ∧ s.harts = [] ∧ s.gangs = [] ∧ s.tuples = [] ∧ s.redirects = [] ∧
  (∀ q r, q < 16 → r < 16 → s.ctrlRead64 (0x1000 + 0x80 * q + 8 * r) = 0) ∧
  (∀ n, n < 256 → s.ctrlRead64 (0x100000 + 8 * n) = 0) ∧ (∀ r, r < 32 → s.ctrlRead64 (0x200000 + 8 * r) = 0) ∧
  s.ctrlRead64 0x000 = 0 ∧ s.ctrlRead64 0x008 = 0 ∧ s.ctrlRead64 0x010 = 0 ∧ s.ctrlRead64 0x018 = 768 ∧
  s.ctrlRead64 0x020 = 0 ∧ (∀ n, n < 96 → s.ctrlRead64 (0x400 + 8 * n) = 0) ∧ s.ctrlRead64 0x800 = 0x114 ∧
  s.ctrlRead64 0x808 = 10 ∧ s.thermLimit = 95 ∧ (∀ n, SMap.getD s.phase n 0 = 0) ∧ (∀ p, SMap.getD s.heat p 0 = 0) ∧
  ∀ p, (s.coreAt p).mchk = 0
end

