-- ==== Sys2Proof/Laws/Encoding.lean ====
section
/-! SUPPORT. What the decoder reads from the words the encoder writes, form by form (R42 to R45): bits of a
concatenation, and one lemma for each form. -/

namespace Sys2Proof.Laws

open Sys2Proof

/-! ## Bits of a concatenation -/

theorem getLsbD_append_high {n m : Nat} (x : BitVec n) (y : BitVec m) (i : Nat) (h : m ≤ i) :
    (x ++ y).getLsbD i = x.getLsbD (i - m) := by
  rw [BitVec.getLsbD_append, if_neg (by omega)]

theorem getLsbD_append_low {n m : Nat} (x : BitVec n) (y : BitVec m) (i : Nat) (h : i < m) :
    (x ++ y).getLsbD i = y.getLsbD i := by
  rw [BitVec.getLsbD_append, if_pos h]

theorem extract_append_high {n m : Nat} (x : BitVec n) (y : BitVec m) (s k : Nat) (h : m ≤ s) :
    (x ++ y).extractLsb' s k = x.extractLsb' (s - m) k := by
  ext i hi
  simp only [BitVec.getElem_extractLsb']
  rw [getLsbD_append_high _ _ _ (by omega)]
  congr 1
  omega

theorem extract_append_low {n m : Nat} (x : BitVec n) (y : BitVec m) (s k : Nat) (h : s + k ≤ m) :
    (x ++ y).extractLsb' s k = y.extractLsb' s k := by
  ext i hi
  simp only [BitVec.getElem_extractLsb']
  rw [getLsbD_append_low _ _ _ (by omega)]

theorem extract_all {n : Nat} (x : BitVec n) : x.extractLsb' 0 n = x := by
  ext i hi
  simp

/-- The low bits of a parcel's number are its low bits. -/
theorem bits_extract {n : Nat} (x : BitVec n) :
    bits (x.extractLsb' 0 32).toNat 1 0 = (x.extractLsb' 0 2).toNat := by
  simp only [bits, BitVec.extractLsb'_toNat]
  omega

/-- Two neighbouring pieces joined. -/
theorem extract_join {n : Nat} (x : BitVec n) (s k l : Nat) :
    x.extractLsb' (s + k) l ++ x.extractLsb' s k = x.extractLsb' s (l + k) := by
  ext i hi
  rw [BitVec.getElem_append]
  split
  · simp
  · simp only [BitVec.getElem_extractLsb']
    congr 1
    omega

/-! ## The forms -/

theorem ofBits_toBits_sform (o : SForm) (op : BitVec 8) (l : BitVec 2) : SForm.ofBits (o.toBits op l) = o := by
  cases o with | mk d a b pa pb so ext =>
  simp only [SForm.ofBits, SForm.toBits, SForm.mk.injEq]
  refine ⟨?_, ?_, ?_, ?_, ?_, ?_, ?_⟩
  all_goals
    repeat
      first
      | (rw [extract_append_high]; case h => decide)
      | (rw [extract_append_low]; case h => decide)
      | (rw [getLsbD_append_high]; case h => decide)
      | (rw [getLsbD_append_low]; case h => decide)
    simp

theorem ofBits_toBits_vform (v : VForm) (op : BitVec 8) : VForm.ofBits (v.toBits op) = v := by
  cases v with | mk D A B pa pb ord mask type fn4 x =>
  simp only [VForm.ofBits, VForm.toBits, VForm.mk.injEq]
  refine ⟨?_, ?_, ?_, ?_, ?_, ?_, ?_, ?_, ?_, ?_⟩
  all_goals
    repeat
      first
      | (rw [extract_append_high]; case h => decide)
      | (rw [extract_append_low]; case h => decide)
      | (rw [getLsbD_append_high]; case h => decide)
      | (rw [getLsbD_append_low]; case h => decide)
    simp

theorem op_of_sform (o : SForm) (op : BitVec 8) (l : BitVec 2) :
    (o.toBits op l).extractLsb' 2 8 = op ∧ (o.toBits op l).extractLsb' 0 2 = l := by
  simp only [SForm.toBits]
  constructor
  all_goals
    repeat
      first
      | (rw [extract_append_high]; case h => decide)
      | (rw [extract_append_low]; case h => decide)
    simp

theorem op_of_vform (v : VForm) (op : BitVec 8) :
    (v.toBits op).extractLsb' 2 8 = op ∧ (v.toBits op).extractLsb' 0 2 = 0b10#2 ∧ (v.toBits op).getLsbD 15 = false := by
  simp only [VForm.toBits]
  refine ⟨?_, ?_, ?_⟩
  all_goals
    repeat
      first
      | (rw [extract_append_high]; case h => decide)
      | (rw [extract_append_low]; case h => decide)
      | (rw [getLsbD_append_high]; case h => decide)
      | (rw [getLsbD_append_low]; case h => decide)
    simp

theorem fields_of_cBits (op6 : BitVec 6) (d a : Reg) (imm : BitVec 12) :
    (cBits op6 d a imm).extractLsb' 2 6 = op6 ∧ (cBits op6 d a imm).extractLsb' 0 2 = 0#2 ∧
    (cBits op6 d a imm).extractLsb' 8 6 = d ∧ (cBits op6 d a imm).extractLsb' 14 6 = a ∧
    (cBits op6 d a imm).extractLsb' 20 12 = imm := by
  simp only [cBits]
  refine ⟨?_, ?_, ?_, ?_, ?_⟩
  all_goals
    repeat
      first
      | (rw [extract_append_high]; case h => decide)
      | (rw [extract_append_low]; case h => decide)
    simp

/-! ## Decoding what was encoded -/

theorem decode_cBits (op6 : BitVec 6) (d a : Reg) (imm : BitVec 12) :
    decode (parcels32 (cBits op6 d a imm)) = checked (decodeC op6.toNat d a imm) := by
  obtain ⟨h1, h2, h3, h4, h5⟩ := fields_of_cBits op6 d a imm
  have h : bits (cBits op6 d a imm).toNat 1 0 = 0 := by
    have := bits_extract (cBits op6 d a imm)
    rw [extract_all, h2] at this
    simpa using this
  simp only [parcels32, decode, h, parse32, h1, h3, h4, h5]

theorem decode_sform (o : SForm) (op : BitVec 8) :
    decode (parcels64 (o.toBits op 0b01#2)) = checked (decodeS op.toNat o) := by
  obtain ⟨h1, h2⟩ := op_of_sform o op 0b01#2
  have h : bits ((o.toBits op 0b01#2).extractLsb' 0 32).toNat 1 0 = 1 := by
    rw [bits_extract _, h2]
    rfl
  have j : (o.toBits op 0b01#2).extractLsb' 32 32 ++ (o.toBits op 0b01#2).extractLsb' 0 32 = o.toBits op 0b01#2 :=
    (extract_join (o.toBits op 0b01#2) 0 32 32).trans (extract_all _)
  simp only [parcels64, decode, h, parse64, j, h1, ofBits_toBits_sform]

theorem join96 (w : BitVec 96) :
    w.extractLsb' 64 32 ++ (w.extractLsb' 32 32 ++ w.extractLsb' 0 32) = w :=
  (congrArg (w.extractLsb' 64 32 ++ ·) (extract_join w 0 32 32)).trans ((extract_join w 0 64 32).trans (extract_all _))

theorem decode_vform (v : VForm) (op : BitVec 8) (hop : op.toNat < 0xA0) :
    decode (parcels96 (v.toBits op)) = checked (decodeV op.toNat v) := by
  obtain ⟨h1, h2, h3⟩ := op_of_vform v op
  have h : bits ((v.toBits op).extractLsb' 0 32).toNat 1 0 = 2 := by
    rw [bits_extract _, h2]
    rfl
  have j : (v.toBits op).extractLsb' 64 32 ++ ((v.toBits op).extractLsb' 32 32 ++ (v.toBits op).extractLsb' 0 32) = v.toBits op :=
    join96 _
  simp only [parcels96, decode, h, parse96, j, h1, h3, ofBits_toBits_vform, ge_iff_le, Nat.not_le.mpr hop, if_false,
    Bool.false_eq_true]

theorem decode_lform (o : SForm) (op : BitVec 8) (lit : BitVec 32) (hop : 0xA0 ≤ op.toNat) :
    decode (parcels96 (lit ++ o.toBits op 0b10#2)) = checked (decodeL op.toNat o lit) := by
  obtain ⟨h1, h2⟩ := op_of_sform o op 0b10#2
  have e1 : (lit ++ o.toBits op 0b10#2).extractLsb' 2 8 = op :=
    (extract_append_low lit (o.toBits op 0b10#2) 2 8 (by decide)).trans h1
  have e2 : (lit ++ o.toBits op 0b10#2).extractLsb' 0 2 = 0b10#2 :=
    (extract_append_low lit (o.toBits op 0b10#2) 0 2 (by decide)).trans h2
  have e3 : (lit ++ o.toBits op 0b10#2).extractLsb' 0 64 = o.toBits op 0b10#2 :=
    (extract_append_low lit (o.toBits op 0b10#2) 0 64 (by decide)).trans (extract_all _)
  have e4 : (lit ++ o.toBits op 0b10#2).extractLsb' 64 32 = lit :=
    (extract_append_high lit (o.toBits op 0b10#2) 64 32 (by decide)).trans (extract_all _)
  have h : bits ((lit ++ o.toBits op 0b10#2).extractLsb' 0 32).toNat 1 0 = 2 :=
    (bits_extract (lit ++ o.toBits op 0b10#2)).trans (congrArg BitVec.toNat e2)
  have j := join96 (lit ++ o.toBits op 0b10#2)
  simp only [parcels96, decode, h]
  rw [j]
  simp only [parse96, e1, e3, e4, ofBits_toBits_sform, ge_iff_le, hop, if_true]

end Sys2Proof.Laws
end

