-- ==== Sys2Proof/Laws/Sparse.lean ====
section
/-! SUPPORT. The laws of sparse tables: read after write, and that every operation keeps the canonical form. -/

namespace Sys2Proof.Laws

open Sys2Proof

variable {α : Type}

/-! ## Read after write, for any list -/

theorem find_put (m : SMap α) (k j : Nat) (v : α) :
    SMap.find (SMap.put m k v) j = if j = k then some v else SMap.find m j := by
  induction m with
  | nil =>
    simp only [SMap.put, SMap.find, eq_comm]
  | cons e t ih =>
    obtain ⟨n, u⟩ := e
    simp only [SMap.put]
    by_cases h : n < k
    · simp only [h, if_true, SMap.find, ih]
      by_cases hj : n = j
      · simp only [hj, if_true]
        rw [if_neg (by omega)]
      · simp only [hj, if_false]
    · simp only [h, if_false]
      by_cases h2 : n = k
      · subst h2
        simp only [if_true, SMap.find, eq_comm (a := n)]
        by_cases hj : j = n <;> simp [hj]
      · simp only [h2, if_false, SMap.find, eq_comm (a := k)]

theorem find_put_same (m : SMap α) (k : Nat) (v : α) : SMap.find (SMap.put m k v) k = some v := by simp [find_put]

theorem find_put_other (m : SMap α) {k j : Nat} (v : α) (h : j ≠ k) : SMap.find (SMap.put m k v) j = SMap.find m j := by
  simp [find_put, h]

theorem find_restrict (m : SMap α) (p : Nat → Bool) (j : Nat) :
    SMap.find (SMap.restrict m p) j = if p j then SMap.find m j else none := by
  induction m with
  | nil => simp [SMap.restrict, SMap.find]
  | cons e t ih =>
    obtain ⟨n, u⟩ := e
    simp only [SMap.restrict, SMap.find] at *
    by_cases hp : p n = true
    · rw [List.filter_cons_of_pos (by simpa using hp)]
      simp only [SMap.find, ih]
      by_cases hj : n = j
      · subst hj
        simp [hp]
      · simp [hj]
    · rw [List.filter_cons_of_neg (by simpa using hp), ih]
      by_cases hj : n = j
      · subst hj
        simp [hp]
      · simp [hj]

theorem find_del (m : SMap α) (k j : Nat) : SMap.find (SMap.del m k) j = if j = k then none else SMap.find m j := by
  have h := find_restrict m (fun n => n != k) j
  have e : SMap.del m k = SMap.restrict m (fun n => n != k) := rfl
  rw [e, h]
  by_cases hj : j = k <;> simp [hj]

theorem find_setD_other [DecidableEq α] (m : SMap α) {k j : Nat} (d v : α) (h : j ≠ k) :
    SMap.find (SMap.setD m k d v) j = SMap.find m j := by
  unfold SMap.setD
  split
  · simp [find_del, h]
  · simp [find_put, h]

theorem getD_setD [DecidableEq α] (m : SMap α) (k j : Nat) (d v : α) :
    SMap.getD (SMap.setD m k d v) j d = if j = k then v else SMap.getD m j d := by
  simp only [SMap.getD, SMap.setD]
  by_cases hv : v = d
  · simp only [hv, if_true, find_del]
    by_cases hj : j = k <;> simp [hj]
  · simp only [hv, if_false, find_put]
    by_cases hj : j = k <;> simp [hj]

theorem getD_setD_same [DecidableEq α] (m : SMap α) (k : Nat) (d v : α) : SMap.getD (SMap.setD m k d v) k d = v := by
  simp [getD_setD]

theorem getD_setD_other [DecidableEq α] (m : SMap α) {k j : Nat} (d v : α) (h : j ≠ k) :
    SMap.getD (SMap.setD m k d v) j d = SMap.getD m j d := by
  simp [getD_setD, h]

/-! ## Keys in order -/

theorem sorted_iff (m : SMap α) : SMap.sorted m = true ↔ m.Pairwise fun x y => x.1 < y.1 := by
  induction m with
  | nil => simp [SMap.sorted]
  | cons e t ih =>
    obtain ⟨n, u⟩ := e
    simp only [SMap.sorted, Bool.and_eq_true, List.all_eq_true, decide_eq_true_eq, List.pairwise_cons, ih]

theorem mem_put (m : SMap α) (k : Nat) (v : α) (e : Nat × α) (h : e ∈ SMap.put m k v) : e = (k, v) ∨ e ∈ m := by
  induction m with
  | nil => simp only [SMap.put, List.mem_singleton] at h; exact .inl h
  | cons x t ih =>
    obtain ⟨n, u⟩ := x
    simp only [SMap.put] at h
    split at h
    · rcases List.mem_cons.mp h with h | h
      · exact .inr (List.mem_cons.mpr (.inl h))
      · rcases ih h with h | h
        · exact .inl h
        · exact .inr (List.mem_cons_of_mem _ h)
    · split at h
      · rcases List.mem_cons.mp h with h | h
        · exact .inl h
        · exact .inr (List.mem_cons_of_mem _ h)
      · rcases List.mem_cons.mp h with h | h
        · exact .inl h
        · exact .inr h

theorem sorted_put (m : SMap α) (k : Nat) (v : α) (h : SMap.sorted m = true) : SMap.sorted (SMap.put m k v) = true := by
  rw [sorted_iff] at *
  induction m with
  | nil => simp [SMap.put]
  | cons x t ih =>
    obtain ⟨n, u⟩ := x
    have ht := (List.pairwise_cons.mp h).2
    have hn := (List.pairwise_cons.mp h).1
    simp only [SMap.put]
    split
    · refine List.pairwise_cons.mpr ⟨fun e he => ?_, ih ht⟩
      rcases mem_put t k v e he with rfl | he
      · assumption
      · exact hn e he
    · split
      · subst_vars
        exact List.pairwise_cons.mpr ⟨hn, ht⟩
      · refine List.pairwise_cons.mpr ⟨fun e he => ?_, h⟩
        rcases List.mem_cons.mp he with rfl | he
        · simp only
          omega
        · have := hn e he
          simp only at this ⊢
          omega

theorem sorted_restrict (m : SMap α) (p : Nat → Bool) (h : SMap.sorted m = true) :
    SMap.sorted (SMap.restrict m p) = true := by
  rw [sorted_iff] at *
  exact h.filter _

theorem sorted_del (m : SMap α) (k : Nat) (h : SMap.sorted m = true) : SMap.sorted (SMap.del m k) = true :=
  sorted_restrict m (fun n => n != k) h

theorem sorted_setD [DecidableEq α] (m : SMap α) (k : Nat) (d v : α) (h : SMap.sorted m = true) :
    SMap.sorted (SMap.setD m k d v) = true := by
  unfold SMap.setD
  split
  · exact sorted_del m k h
  · exact sorted_put m k v h

/-! ## The canonical form -/

theorem wf_iff [DecidableEq α] (d : α) (m : SMap α) :
    SMap.wf d m = true ↔ SMap.sorted m = true ∧ ∀ e ∈ m, e.2 ≠ d := by
  simp [SMap.wf, List.all_eq_true]

theorem wf_nil [DecidableEq α] (d : α) : SMap.wf d ([] : SMap α) = true := rfl

theorem wf_setD [DecidableEq α] (m : SMap α) (k : Nat) (d v : α) (h : SMap.wf d m = true) :
    SMap.wf d (SMap.setD m k d v) = true := by
  rw [wf_iff] at *
  refine ⟨sorted_setD m k d v h.1, fun e he => ?_⟩
  unfold SMap.setD at he
  split at he
  · exact h.2 e (List.mem_filter.mp he).1
  · rcases mem_put m k v e he with rfl | he
    · assumption
    · exact h.2 e he

theorem wf_restrict [DecidableEq α] (m : SMap α) (p : Nat → Bool) (d : α) (h : SMap.wf d m = true) :
    SMap.wf d (SMap.restrict m p) = true := by
  rw [wf_iff] at *
  exact ⟨sorted_restrict m p h.1, fun e he => h.2 e (List.mem_filter.mp he).1⟩

/-- An entry of a table in key order is what its key reads as. -/
theorem find_of_mem (m : SMap α) (k : Nat) (v : α) (h : SMap.sorted m = true) (he : (k, v) ∈ m) : SMap.find m k = some v := by
  rw [sorted_iff] at h
  induction m with
  | nil => cases he
  | cons x t ih =>
    obtain ⟨n, u⟩ := x
    have ht := (List.pairwise_cons.mp h).2
    have hn := (List.pairwise_cons.mp h).1
    rcases List.mem_cons.mp he with he | he
    · cases he
      simp [SMap.find]
    · have := hn _ he
      simp only [SMap.find]
      rw [if_neg (by simp only at this; omega)]
      exact ih ht he

theorem mem_of_find (m : SMap α) (k : Nat) (v : α) (h : SMap.find m k = some v) : (k, v) ∈ m := by
  induction m with
  | nil => cases h
  | cons x t ih =>
    obtain ⟨n, u⟩ := x
    simp only [SMap.find] at h
    split at h
    · cases h
      subst_vars
      exact List.mem_cons_self
    · exact List.mem_cons_of_mem _ (ih h)

end Sys2Proof.Laws
end

