-- ==== Sys2Proof/Laws/Memory.lean ====
section
/-! SUPPORT. The laws of memory: a read after a write, that a write leaves every other byte alone, and that every memory
operation keeps the canonical form. -/

namespace Sys2Proof.Laws

open Sys2Proof Sys2Proof.Machine

/-! ## One byte and several -/

theorem redirectPage_congr {s t : State} (h : t.redirects = s.redirects) (n p : Nat) :
    t.redirectPage n p = s.redirectPage n p := by
  induction n generalizing p with
  | zero => rfl
  | succ n ih => simp only [State.redirectPage, h, ih]

theorem redirect_congr {s t : State} (h : t.redirects = s.redirects) (a : Nat) : t.redirect a = s.redirect a := by
  simp only [State.redirect, h, redirectPage_congr h]

/-- States that agree in memory, cached lines and redirects read alike. -/
theorem memByte_congr {s t : State} (h : t.redirects = s.redirects) (m : t.mem = s.mem) (l : t.lines = s.lines) (a : Nat) :
    t.memByte a = s.memByte a := by
  unfold State.memByte
  rw [redirect_congr h, l, m]

/-- A byte read, its page found by another state with the same redirects. -/
theorem memByte_eq {s t : State} (h : t.redirects = s.redirects) (a : Nat) :
    t.memByte a = match SMap.find t.lines (s.redirect a / 64) with
      | some l => l.byte (s.redirect a % 64)
      | none => SMap.getD t.mem (s.redirect a) 0 := by
  unfold State.memByte
  rw [redirect_congr h]
  all_goals rfl

@[simp] theorem redirects_setMemByte (s : State) (a : Nat) (b : Byte) : (s.setMemByte a b).redirects = s.redirects := by
  unfold State.setMemByte
  simp only
  split <;> rfl

theorem redirect_setMemByte (s : State) (a c : Nat) (b : Byte) : (s.setMemByte a b).redirect c = s.redirect c :=
  redirect_congr (redirects_setMemByte s a b) c

/-- A byte of a line after another byte of it has been written. -/
theorem byte_putBits (d : BitVec 512) (i j : Nat) (b : Byte) (f g : Bool) (hi : i < 64) :
    CLine.byte ⟨putBits d (8 * i) 8 b.toNat, f⟩ j = if j = i then b else CLine.byte ⟨d, g⟩ j := by
  have hb := b.isLt
  apply BitVec.eq_of_getLsbD_eq
  intro k hk
  simp only [CLine.byte, putBits, BitVec.getLsbD_extractLsb', BitVec.getLsbD_or, BitVec.getLsbD_and, BitVec.getLsbD_not,
    BitVec.getLsbD_shiftLeft, BitVec.getLsbD_ofNat, Nat.testBit_two_pow_sub_one, Nat.testBit_mod_two_pow, hk, decide_true,
    Bool.true_and]
  by_cases hj : j = i
  · subst hj
    have h1 : 8 * j + k < 512 := by omega
    have h2 : 8 * j + k - 8 * j = k := by omega
    have h3 : ¬ 8 * j + k < 8 * j := by omega
    have h4 : k < 512 := by omega
    simp only [h1, h2, h3, h4, hk, if_true, decide_true, decide_false, Bool.not_false, Bool.not_true, Bool.true_and, Bool.and_true,
      Bool.and_false, Bool.false_or]
    rfl
  · rw [if_neg hj]
    by_cases h1 : 8 * j + k < 8 * i
    · have h4 : 8 * j + k < 512 := by omega
      simp [h1, h4, hk]
    · have h2 : ¬ 8 * j + k - 8 * i < 8 := by omega
      have h4 : d.getLsbD (8 * j + k) = true → 8 * j + k < 512 := BitVec.lt_of_getLsbD
      cases hd : d.getLsbD (8 * j + k) <;> simp_all
      all_goals omega

/-- A byte's write, in a cached line or in memory, is read back, and leaves every other byte alone. -/
theorem memByte_setMemByte (s : State) (a c : Nat) (b : Byte) :
    (s.setMemByte a b).memByte c = if s.redirect c = s.redirect a then b else s.memByte c := by
  unfold State.memByte
  rw [redirect_setMemByte]
  unfold State.setMemByte
  simp only
  cases hl : SMap.find s.lines (s.redirect a / 64) with
  | none =>
    simp only
    cases hc : SMap.find s.lines (s.redirect c / 64) with
    | none => exact getD_setD s.mem (s.redirect a) (s.redirect c) 0 b
    | some l =>
      simp only
      rw [if_neg]
      intro x
      rw [x, hl] at hc
      cases hc
  | some l =>
    simp only [find_put]
    by_cases hq : s.redirect c / 64 = s.redirect a / 64
    · simp only [hq, if_true, hl]
      rw [byte_putBits l.data _ _ b true l.dirty (Nat.mod_lt _ (by decide))]
      have : s.redirect c % 64 = s.redirect a % 64 ↔ s.redirect c = s.redirect a := by omega
      simp only [this]
    · simp only [hq, if_false]
      rw [if_neg]
      intro x
      exact hq (by rw [x])

theorem setMemBytes_cons (s : State) (a : Nat) (b : Byte) (t : List Byte) :
    s.setMemBytes a (b :: t) = (s.setMemByte a b).setMemBytes (a + 1) t := rfl

theorem redirects_setMemBytes (s : State) (a : Nat) (bs : List Byte) : (s.setMemBytes a bs).redirects = s.redirects := by
  induction bs generalizing s a with
  | nil => rfl
  | cons b t ih => exact (ih (s.setMemByte a b) (a + 1)).trans (redirects_setMemByte s a b)

theorem redirect_setMemBytes (s : State) (a : Nat) (bs : List Byte) (c : Nat) :
    (s.setMemBytes a bs).redirect c = s.redirect c := redirect_congr (redirects_setMemBytes s a bs) c

/-- A byte that no stored byte shares a place with reads as before. -/
theorem memByte_setMemBytes_other (s : State) (a c : Nat) (bs : List Byte)
    (h : ∀ j, j < bs.length → s.redirect c ≠ s.redirect (a + j)) : (s.setMemBytes a bs).memByte c = s.memByte c := by
  induction bs generalizing s a with
  | nil => rfl
  | cons b t ih =>
    rw [setMemBytes_cons, ih]
    · have := h 0 (Nat.succ_pos _)
      rw [Nat.add_zero] at this
      rw [memByte_setMemByte, if_neg this]
    · intro j hj
      have := h (j + 1) (Nat.succ_lt_succ hj)
      simpa [redirect_setMemByte, Nat.add_assoc, Nat.add_comm 1 j] using this

/-- Each stored byte reads as it was stored, when the bytes have places of their own. -/
theorem memByte_setMemBytes (s : State) (a j : Nat) (bs : List Byte) (hj : j < bs.length)
    (h : ∀ i k, i < bs.length → k < bs.length → i ≠ k → s.redirect (a + i) ≠ s.redirect (a + k)) :
    (s.setMemBytes a bs).memByte (a + j) = bs.getD j 0 := by
  induction bs generalizing s a j with
  | nil => exact absurd hj (Nat.not_lt_zero _)
  | cons b t ih =>
    rw [setMemBytes_cons]
    cases j with
    | zero =>
      rw [memByte_setMemBytes_other]
      · simp [memByte_setMemByte]
      · intro k hk
        have := h 0 (k + 1) (Nat.succ_pos _) (Nat.succ_lt_succ hk) (Nat.succ_ne_zero k).symm
        simpa [redirect_setMemByte, Nat.add_assoc, Nat.add_comm 1 k] using this
    | succ j =>
      have e : a + (j + 1) = a + 1 + j := by omega
      rw [e, ih (s.setMemByte a b) (a + 1) j (Nat.lt_of_succ_lt_succ hj)]
      · rfl
      · intro i k hi hk hik
        have := h (i + 1) (k + 1) (Nat.succ_lt_succ hi) (Nat.succ_lt_succ hk) (fun x => hik (Nat.succ.inj x))
        simpa [redirect_setMemByte, Nat.add_assoc, Nat.add_comm 1 i, Nat.add_comm 1 k] using this

/-! ## Little-endian bytes -/

theorem length_leBytes (n x : Nat) : (leBytes n x).length = n := by
  induction n generalizing x with
  | zero => rfl
  | succ n ih => simp [leBytes, ih]

theorem getD_leBytes (n x j : Nat) (h : j < n) : (leBytes n x).getD j 0 = BitVec.ofNat 8 (x / 256 ^ j) := by
  induction n generalizing x j with
  | zero => exact absurd h (Nat.not_lt_zero _)
  | succ n ih =>
    cases j with
    | zero =>
      apply BitVec.eq_of_toNat_eq
      simp [leBytes]
    | succ j =>
      have := ih (x / 256) j (Nat.lt_of_succ_lt_succ h)
      simp only [leBytes, List.getD_cons_succ, this, Nat.div_div_eq_div_mul, Nat.pow_succ, Nat.mul_comm]

/-- The value of the bytes of a number is the number, modulo the bytes' range. -/
theorem leNat_leBytes (n x : Nat) : leNat (leBytes n x) = x % 256 ^ n := by
  induction n generalizing x with
  | zero => simp [leBytes, leNat, Nat.mod_one]
  | succ n ih =>
    have h : (256 : Nat) ^ (n + 1) = 256 * 256 ^ n := by rw [Nat.pow_succ, Nat.mul_comm]
    have e : (BitVec.ofNat 8 (x % 256)).toNat = x % 256 := by simp
    rw [leBytes, leNat, ih, h, Nat.mod_mul, e]

/-! ## A store at its home -/

/-- A store whose home is memory that is not moving is performed there. -/
theorem physWrite_mem (s : State) (pa a : Nat) (bs : List Byte) (h : s.home pa = .mem a) (hm : s.inMove a = false) :
    s.physWrite pa bs = s.memStore a bs := by
  unfold State.physWrite
  rw [h]
  simp only
  rw [hm]
  rfl

/-- A store whose home is a local store: one field of one row. -/
theorem physWrite_ls (s : State) (pa p off : Nat) (bs : List Byte) (h : s.home pa = .ls p off) :
    s.physWrite pa bs = s.writeRow (s.lsRow p (off / 64)) (8 * (off % 64)) (8 * bs.length) (leNat bs) := by
  unfold State.physWrite
  rw [h]

@[simp] theorem memByte_memStore (s : State) (a c : Nat) (bs : List Byte) :
    (s.memStore a bs).memByte c = (s.setMemBytes a bs).memByte c := by
  unfold State.memStore
  simp only
  split
  · refine memByte_congr ?_ ?_ ?_ c <;> rfl
  · rfl

theorem memByte_physWrite (s : State) (pa a : Nat) (bs : List Byte) (c : Nat) (h : s.home pa = .mem a)
    (hm : s.inMove a = false) : (s.physWrite pa bs).memByte c = (s.setMemBytes a bs).memByte c := by
  rw [physWrite_mem s pa a bs h hm, memByte_memStore]

@[simp] theorem rows_setMemByte (s : State) (a : Nat) (b : Byte) : (s.setMemByte a b).rows = s.rows := by
  unfold State.setMemByte
  simp only
  split <;> rfl

theorem rows_setMemBytes (s : State) (a : Nat) (bs : List Byte) : (s.setMemBytes a bs).rows = s.rows := by
  induction bs generalizing s a with
  | nil => rfl
  | cons b t ih => exact (ih (s.setMemByte a b) (a + 1)).trans (rows_setMemByte s a b)

theorem rows_memStore (s : State) (a : Nat) (bs : List Byte) : (s.memStore a bs).rows = s.rows := by
  unfold State.memStore
  simp only
  split <;> exact rows_setMemBytes s a bs

/-! ## The slices' caches (R15, R219) -/

/-- A list of writes to distinct places of one line: the line's bytes there, every other place as before. -/
theorem getD_setLine (m : SMap Byte) (n : Nat) (l : CLine) (a : Nat) (k : Nat) :
    SMap.getD ((List.range k).foldl (fun m i => SMap.setD m (64 * n + i) 0 (l.byte i)) m) a 0 =
      if 64 * n ≤ a ∧ a < 64 * n + k then l.byte (a - 64 * n) else SMap.getD m a 0 := by
  induction k with
  | zero => simp <;> omega
  | succ k ih =>
    rw [List.range_succ, List.foldl_append]
    simp only [List.foldl_cons, List.foldl_nil, getD_setD, ih]
    by_cases h : a = 64 * n + k
    · subst h
      simp
    · rw [if_neg h]
      have : (64 * n ≤ a ∧ a < 64 * n + (k + 1)) ↔ (64 * n ≤ a ∧ a < 64 * n + k) := by omega
      simp only [this]

@[simp] theorem redirects_writeBack (s : State) (n : Nat) : (s.writeBack n).redirects = s.redirects := by
  unfold State.writeBack
  split
  · split <;> rfl
  · rfl

theorem writeBack_dirty {s : State} {n : Nat} {l : CLine} (h : SMap.find s.lines n = some l) (hd : l.dirty = true) :
    (s.writeBack n).lines = SMap.put s.lines n { l with dirty := false } ∧
    (s.writeBack n).mem = (List.range 64).foldl (fun m i => SMap.setD m (64 * n + i) 0 (l.byte i)) s.mem := by
  unfold State.writeBack
  rw [h]
  simp only
  rw [if_pos hd]
  exact ⟨rfl, rfl⟩

theorem writeBack_clean {s : State} {n : Nat} (h : ∀ l, SMap.find s.lines n = some l → l.dirty = false) :
    s.writeBack n = s := by
  unfold State.writeBack
  split
  · rename_i l hl
    rw [if_neg]
    simp [h l hl]
  · rfl

/-- Writing a line back changes no byte that is read. -/
@[simp] theorem memByte_writeBack (s : State) (n a : Nat) : (s.writeBack n).memByte a = s.memByte a := by
  by_cases hc : ∀ l, SMap.find s.lines n = some l → l.dirty = false
  · rw [writeBack_clean hc]
  · obtain ⟨l, hl, hd⟩ : ∃ l, SMap.find s.lines n = some l ∧ l.dirty = true := by
      cases hf : SMap.find s.lines n with
      | none => exact absurd (fun l hl => by rw [hf] at hl; cases hl) hc
      | some l =>
        refine ⟨l, rfl, ?_⟩
        cases hd : l.dirty
        · exact absurd (fun m hm => by rw [hf] at hm; cases hm; exact hd) hc
        · rfl
    rw [memByte_eq (redirects_writeBack s n) a, memByte_eq (s := s) (t := s) rfl a, (writeBack_dirty hl hd).1,
      (writeBack_dirty hl hd).2, find_put]
    by_cases h : s.redirect a / 64 = n
    · subst h
      simp only [if_true, hl]
      rfl
    · simp only [h, if_false]
      cases SMap.find s.lines (s.redirect a / 64) with
      | some _ => rfl
      | none =>
        simp only
        rw [getD_setLine, if_neg]
        omega

/-- Byte i of the number that a list of bytes spells. -/
theorem byte_leNat (f : Nat → Byte) (k i : Nat) (hi : i < k) :
    BitVec.ofNat 8 (leNat ((List.range k).map f) / 256 ^ i) = f i := by
  induction k generalizing f i with
  | zero => omega
  | succ k ih =>
    rw [List.range_succ_eq_map, List.map_cons, List.map_map]
    simp only [leNat]
    have hb := (f 0).isLt
    cases i with
    | zero =>
      apply BitVec.eq_of_toNat_eq
      simp
      omega
    | succ i =>
      have := ih (f ∘ Nat.succ) i (by omega)
      rw [Nat.pow_succ, Nat.mul_comm (256 ^ i), ← Nat.div_div_eq_div_mul]
      have e : ((f 0).toNat + 256 * leNat ((List.range k).map (f ∘ Nat.succ))) / 256 =
          leNat ((List.range k).map (f ∘ Nat.succ)) := by omega
      rw [e, this]
      rfl

/-- A byte of a line as memory holds it. -/
theorem byte_memLine (s : State) (n i : Nat) (hi : i < 64) (f : Bool) :
    CLine.byte ⟨s.memLine n, f⟩ i = SMap.getD s.mem (64 * n + i) 0 := by
  have this := byte_leNat (fun i => SMap.getD s.mem (64 * n + i) 0) 64 i hi
  rw [← this]
  apply BitVec.eq_of_toNat_eq
  unfold CLine.byte State.memLine
  generalize leNat _ = x
  simp only [BitVec.extractLsb'_toNat, BitVec.toNat_ofNat, Nat.shiftRight_eq_div_pow]
  have e : (256 : Nat) ^ i = 2 ^ (8 * i) := by rw [show (256 : Nat) = 2 ^ 8 from rfl, ← Nat.pow_mul]
  rw [e]
  have hsplit : (2 : Nat) ^ 512 = 2 ^ (8 * i) * (2 ^ 8 * 2 ^ (504 - 8 * i)) := by
    rw [← Nat.pow_add, ← Nat.pow_add]
    congr 1
    omega
  rw [hsplit, Nat.mod_mul_right_div_self, Nat.mod_mul_right_mod]

theorem fillLine_room {s : State} {n : Nat} (h : s.lines.length < 24576) (hn : SMap.find s.lines n = none) :
    (s.fillLine n).lines = SMap.put s.lines n ⟨s.memLine n, false⟩ ∧ (s.fillLine n).mem = s.mem ∧
    (s.fillLine n).redirects = s.redirects := by
  unfold State.fillLine
  rw [hn]
  simp only [Option.isSome_none, Bool.false_eq_true, if_false, h, if_true, List.take_nil, List.foldl_nil]
  refine ⟨?_, ?_, ?_⟩ <;> trivial

theorem fillLine_there {s : State} {n : Nat} (hn : (SMap.find s.lines n).isSome = true) : s.fillLine n = s := by
  unfold State.fillLine
  rw [if_pos hn]

/-- A line brought into a slice with room for it reads as memory did: no byte changes. -/
theorem memByte_fillLine (s : State) (n a : Nat) (h : s.lines.length < 24576) :
    (s.fillLine n).memByte a = s.memByte a := by
  cases hn : SMap.find s.lines n with
  | some l => rw [fillLine_there (by rw [hn]; rfl)]
  | none =>
    obtain ⟨h1, h2, h3⟩ := fillLine_room h hn
    rw [memByte_eq h3 a, memByte_eq (s := s) (t := s) rfl a, h1, h2, find_put]
    by_cases hq : s.redirect a / 64 = n
    · subst hq
      simp only [if_true, hn]
      rw [byte_memLine _ _ _ (Nat.mod_lt _ (by decide))]
      congr 1
      omega
    · simp only [hq, if_false]

/-- Counting a touch changes no byte. -/
@[simp] theorem memByte_heatPage (s : State) (c a : Nat) : (s.heatPage c).memByte a = s.memByte a := by
  unfold State.heatPage
  split
  · simp only
    split
    · refine memByte_congr ?_ ?_ ?_ a <;> rfl
    · rfl
  · rfl

theorem lines_heatPage (s : State) (c : Nat) : (s.heatPage c).lines = s.lines := by
  unfold State.heatPage
  split
  · simp only
    split <;> rfl
  · rfl

/-- A request that reaches its home changes no byte, while the slices have room. -/
theorem memByte_touch (s : State) (pa a : Nat) (h : s.lines.length < 24576) : (s.touch pa).memByte a = s.memByte a := by
  unfold State.touch
  split
  · simp only
    split
    · rw [memByte_fillLine _ _ _ (by rw [lines_heatPage]; exact h), memByte_heatPage]
    · exact memByte_heatPage _ _ _
  · rfl

/-! ## The canonical form is kept -/

theorem reset_inv : State.reset.Inv := rfl

theorem inv_congr {s t : State} (m : t.mem = s.mem) (h : s.Inv) : t.Inv := by
  unfold State.Inv at *
  rw [m]
  exact h

theorem inv_setMemByte (s : State) (a : Nat) (b : Byte) (h : s.Inv) : (s.setMemByte a b).Inv := by
  unfold State.setMemByte
  simp only
  split
  · exact h
  · exact wf_setD s.mem (s.redirect a) 0 b h

theorem inv_setMemBytes (s : State) (a : Nat) (bs : List Byte) (h : s.Inv) : (s.setMemBytes a bs).Inv := by
  induction bs generalizing s a with
  | nil => exact h
  | cons b t ih => exact ih (s.setMemByte a b) (a + 1) (inv_setMemByte s a b h)

theorem inv_memStore (s : State) (a : Nat) (bs : List Byte) (h : s.Inv) : (s.memStore a bs).Inv := by
  unfold State.memStore
  simp only
  split
  · exact inv_congr (s := s.setMemBytes a bs) rfl (inv_setMemBytes s a bs h)
  · exact inv_setMemBytes s a bs h

/-- A line written to memory itself keeps the form. -/
theorem inv_setMemLine (s : State) (n : Nat) (l : CLine) (h : s.Inv) : (s.setMemLine n l).Inv := by
  have key : ∀ (k : Nat) (m : SMap Byte), SMap.wf (0 : Byte) m = true →
      SMap.wf (0 : Byte) ((List.range k).foldl (fun m i => SMap.setD m (64 * n + i) 0 (l.byte i)) m) = true := by
    intro k
    induction k with
    | zero => intro m h; exact h
    | succ k ih =>
      intro m h
      rw [List.range_succ, List.foldl_append]
      exact wf_setD _ _ _ _ (ih m h)
  exact key 64 s.mem h

theorem inv_writeBack (s : State) (n : Nat) (h : s.Inv) : (s.writeBack n).Inv := by
  unfold State.writeBack
  split
  · split
    · exact inv_congr (s := s.setMemLine n _) rfl (inv_setMemLine s n _ h)
    · exact h
  · exact h

theorem inv_evict (s : State) (n : Nat) (h : s.Inv) : (s.evict n).Inv :=
  inv_congr (s := s.writeBack n) rfl (inv_writeBack s n h)

theorem inv_fillLine (s : State) (n : Nat) (h : s.Inv) : (s.fillLine n).Inv := by
  have key : ∀ (l : List Nat) (u : State), u.Inv → (l.foldl State.evict u).Inv := by
    intro l
    induction l with
    | nil => intro u hu; exact hu
    | cons k t ih => intro u hu; exact ih _ (inv_evict u k hu)
  unfold State.fillLine
  split
  · exact h
  · exact inv_congr rfl (key _ s h)

theorem inv_touch (s : State) (pa : Nat) (h : s.Inv) : (s.touch pa).Inv := by
  have hh : ∀ c, (s.heatPage c).Inv := by
    intro c
    unfold State.heatPage
    split
    · simp only
      split
      · exact inv_congr rfl h
      · exact h
    · exact h
  unfold State.touch
  split
  · simp only
    split
    · exact inv_fillLine _ _ (hh _)
    · exact hh _
  · exact h

theorem mem_mendGroup (s : State) (k d : Nat) : (s.mendGroup k d).mem = s.mem := by
  unfold State.mendGroup
  split
  · rfl
  · split <;> rfl

theorem mem_mendRow (s : State) (k start width : Nat) : (s.mendRow k start width).mem = s.mem := by
  have fold : ∀ (l : List Nat) (f : State → Nat → State) (u : State), (∀ u d, (f u d).mem = u.mem) → (l.foldl f u).mem = u.mem := by
    intro l
    induction l with
    | nil => intros; rfl
    | cons d t ih =>
      intro f u hf
      exact (ih f (f u d) hf).trans (hf u d)
  unfold State.mendRow
  simp only
  generalize hu : (if width = 512 then { s with badRows := SMap.del s.badRows k } else s) = u
  have h : u.mem = s.mem := by
    rw [← hu]
    split <;> rfl
  rw [← h]
  split
  · rfl
  · refine fold _ _ _ fun u d => ?_
    split
    · exact mem_mendGroup u k d
    · rfl

theorem mem_writeRow (s : State) (k start width v : Nat) : (s.writeRow k start width v).mem = s.mem :=
  mem_mendRow s k start width

theorem mem_markRow (s : State) (k : Nat) (m : BitVec 16) (full : Bool) : (s.markRow k m full).mem = s.mem :=
  mem_mendGroup s k 8

theorem mem_tagRow (s : State) (k : Nat) (t : Tag) (b : Bool) : (s.tagRow k t b).mem = s.mem := mem_mendGroup s k 8

theorem inv_physWrite (s : State) (pa : Nat) (bs : List Byte) (h : s.Inv) : (s.physWrite pa bs).Inv := by
  unfold State.physWrite
  split
  · split
    · exact inv_congr rfl h
    · exact inv_memStore s _ bs h
  · exact inv_congr (mem_writeRow _ _ _ _ _) h
  · split <;> exact inv_congr rfl h
  · split
    · exact h
    · exact inv_congr rfl h

theorem inv_physStore (s : State) (pa n v : Nat) (h : s.Inv) : (s.physStore pa n v).Inv := inv_physWrite s pa _ h

theorem inv_mediaFlip (s : State) (a : Nat) (m : Byte) (h : s.Inv) : (s.mediaFlip a m).Inv := by
  unfold State.mediaFlip
  split
  · exact wf_setD s.mem a 0 _ h
  · exact h

theorem inv_resetDevice (s : State) (h : s.Inv) : s.resetDevice.Inv := h

theorem inv_powerCycle (s : State) : s.powerCycle.Inv := rfl

/-- A run of a table replaced by a run of another keeps the form: lines of memory that have moved (R396). -/
theorem wf_copySpan {α : Type} [DecidableEq α] (d : α) (m m' : SMap α) (a b n : Nat)
    (h : SMap.wf d m = true) (h' : SMap.wf d m' = true) : SMap.wf d (copySpan m m' a b n) = true := by
  rw [wf_iff, sorted_iff] at *
  obtain ⟨ho, hd⟩ := h
  obtain ⟨ho', hd'⟩ := h'
  have key : ∀ e ∈ m'.filterMap (fun e => if a ≤ e.1 && e.1 < a + n then some (b + (e.1 - a), e.2) else none),
      b ≤ e.1 ∧ e.1 < b + n ∧ e.2 ≠ d := by
    intro e he
    obtain ⟨x, hx, hxe⟩ := List.mem_filterMap.mp he
    split at hxe
    · rename_i hc
      simp only [Bool.and_eq_true, decide_eq_true_eq] at hc
      cases hxe
      refine ⟨Nat.le_add_right _ _, ?_, hd' x hx⟩
      simp only
      omega
    · cases hxe
  refine ⟨?_, ?_⟩
  · unfold copySpan
    refine List.pairwise_append.mpr ⟨List.pairwise_append.mpr ⟨ho.filter _, ?_, ?_⟩, ho.filter _, ?_⟩
    · refine List.Pairwise.filterMap _ (fun x y hxy u hu v hv => ?_) ho'
      split at hu
      · split at hv
        · rename_i hx hy
          simp only [Bool.and_eq_true, decide_eq_true_eq] at hx hy
          cases hu
          cases hv
          simp only
          omega
        · cases hv
      · cases hu
    · intro x hx y hy
      have h1 := (List.mem_filter.mp hx).2
      have h2 := (key y hy).1
      simp only [decide_eq_true_eq] at h1
      omega
    · intro x hx y hy
      have h2 := (List.mem_filter.mp hy).2
      simp only [decide_eq_true_eq] at h2
      rcases List.mem_append.mp hx with hx | hx
      · have h1 := (List.mem_filter.mp hx).2
        simp only [decide_eq_true_eq] at h1
        omega
      · have h1 := (key x hx).2.1
        omega
  · intro e he
    unfold copySpan at he
    rcases List.mem_append.mp he with he | he
    · rcases List.mem_append.mp he with he | he
      · exact hd e (List.mem_filter.mp he).1
      · exact (key e he).2.2
    · exact hd e (List.mem_filter.mp he).1

/-- Memory with the cached lines laid over it is in canonical form too. -/
theorem wf_flatMem (s : State) (h : s.Inv) : SMap.wf (0 : Byte) s.flatMem = true := by
  have line : ∀ (e : Nat × CLine) (l : List Nat) (m : SMap Byte), SMap.wf (0 : Byte) m = true →
      SMap.wf (0 : Byte) (l.foldl (fun m i => SMap.setD m (64 * e.1 + i) 0 (e.2.byte i)) m) = true := by
    intro e l
    induction l with
    | nil => intro m hm; exact hm
    | cons i t ih => intro m hm; exact ih _ (wf_setD _ _ _ _ hm)
  have all : ∀ (ls : SMap CLine) (m : SMap Byte), SMap.wf (0 : Byte) m = true →
      SMap.wf (0 : Byte) (ls.foldl (fun m e =>
        (List.range 64).foldl (fun m i => SMap.setD m (64 * e.1 + i) 0 (e.2.byte i)) m) m) = true := by
    intro ls
    induction ls with
    | nil => intro m hm; exact hm
    | cons e t ih => intro m hm; exact ih _ (line e _ m hm)
  exact all s.lines s.mem h

/-- Copying lines of a moving page keeps the form. -/
theorem inv_copyLines (s : State) (m : Moving) (n : Nat) (h : s.Inv) : (s.copyLines m n).Inv :=
  wf_copySpan 0 s.mem s.flatMem _ _ _ h (wf_flatMem s h)

end Sys2Proof.Laws
end

