-- ==== Sys2Proof/Laws/PerInstr.lean ====
section
/-! SUPPORT. Statements made of every instruction as syntax, with one lemma for each constructor. -/

namespace Sys2Proof.Laws.ParcelCount

open Sys2Proof Sys2Proof.Machine

/-- The length code in an instruction's first parcel counts its parcels (R34); an event has no encoding. -/
def Statement (i : Instr) : Prop := isEvent i = true ∨ ∃ p t, encode i = p :: t ∧ parcelsOf p = (encode i).length

theorem of_code {p : Parcel} {n : Nat} (h : bits p.toNat 1 0 = n) (hn : n ≤ 2) : parcelsOf p = n + 1 := by
  unfold parcelsOf
  rw [h]
  match n, hn with
  | 0, _ => rfl
  | 1, _ => rfl
  | 2, _ => rfl

theorem of_c (op6 : BitVec 6) (d a : Reg) (imm : BitVec 12) (i : Instr) (e : encode i = parcels32 (cBits op6 d a imm)) :
    Statement i := by
  refine .inr ⟨_, _, e, ?_⟩
  rw [e]
  refine of_code (n := 0) ?_ (by decide)
  have h := bits_extract (cBits op6 d a imm)
  rw [extract_all, (fields_of_cBits op6 d a imm).2.1] at h
  exact h

theorem of_alu (fn6 : BitVec 6) (d a b : Reg) (i : Instr) (e : encode i = parcels32 (aluBits fn6 d a b)) : Statement i := by
  refine .inr ⟨_, _, e, ?_⟩
  rw [e]
  refine of_code (n := 0) ?_ (by decide)
  have h := bits_extract (aluBits fn6 d a b)
  rw [extract_all] at h
  refine h.trans ?_
  unfold aluBits
  repeat (rw [extract_append_low]; case h => decide)
  rfl

theorem of_s (o : SForm) (op : BitVec 8) (i : Instr) (e : encode i = parcels64 (o.toBits op 0b01)) : Statement i := by
  refine .inr ⟨_, _, e, ?_⟩
  rw [e]
  refine of_code (n := 1) ?_ (by decide)
  exact (bits_extract (o.toBits op 0b01#2)).trans (congrArg BitVec.toNat (op_of_sform o op 0b01#2).2)

theorem of_v (v : VForm) (op : BitVec 8) (i : Instr) (e : encode i = parcels96 (v.toBits op)) : Statement i := by
  refine .inr ⟨_, _, e, ?_⟩
  rw [e]
  refine of_code (n := 2) ?_ (by decide)
  exact (bits_extract (v.toBits op)).trans (congrArg BitVec.toNat (op_of_vform v op).2.1)

theorem of_l (o : SForm) (op : BitVec 8) (lit : BitVec 32) (i : Instr) (e : encode i = parcels96 (lit ++ o.toBits op 0b10)) :
    Statement i := by
  refine .inr ⟨_, _, e, ?_⟩
  rw [e]
  refine of_code (n := 2) ?_ (by decide)
  exact (bits_extract (lit ++ o.toBits op 0b10#2)).trans
    (congrArg BitVec.toNat ((extract_append_low lit (o.toBits op 0b10#2) 0 2 (by decide)).trans (op_of_sform o op 0b10#2).2))

theorem nop : Statement .nop := .inr ⟨0, [], rfl, rfl⟩
theorem addi (d a : Reg) (imm : BitVec 12) : Statement (.addi d a imm) := of_c _ _ _ _ _ rfl
theorem andi (d a : Reg) (imm : BitVec 12) : Statement (.andi d a imm) := of_c _ _ _ _ _ rfl
theorem ori (d a : Reg) (imm : BitVec 12) : Statement (.ori d a imm) := of_c _ _ _ _ _ rfl
theorem xori (d a : Reg) (imm : BitVec 12) : Statement (.xori d a imm) := of_c _ _ _ _ _ rfl
theorem slli (d a : Reg) (n : BitVec 6) : Statement (.slli d a n) := of_c _ _ _ _ _ rfl
theorem srli (d a : Reg) (n : BitVec 6) : Statement (.srli d a n) := of_c _ _ _ _ _ rfl
theorem srai (d a : Reg) (n : BitVec 6) : Statement (.srai d a n) := of_c _ _ _ _ _ rfl
theorem slti (d a : Reg) (imm : BitVec 12) : Statement (.slti d a imm) := of_c _ _ _ _ _ rfl
theorem sltin (d a : Reg) (imm : BitVec 12) : Statement (.sltin d a imm) := of_c _ _ _ _ _ rfl
theorem movi (d : Reg) (imm : BitVec 12) : Statement (.movi d imm) := of_c _ _ _ _ _ rfl
theorem add (d a b : Reg) : Statement (.add d a b) := of_alu _ _ _ _ _ rfl
theorem sub (d a b : Reg) : Statement (.sub d a b) := of_alu _ _ _ _ _ rfl
theorem and (d a b : Reg) : Statement (.and d a b) := of_alu _ _ _ _ _ rfl
theorem or (d a b : Reg) : Statement (.or d a b) := of_alu _ _ _ _ _ rfl
theorem xor (d a b : Reg) : Statement (.xor d a b) := of_alu _ _ _ _ _ rfl
theorem andn (d a b : Reg) : Statement (.andn d a b) := of_alu _ _ _ _ _ rfl
theorem sll (d a b : Reg) : Statement (.sll d a b) := of_alu _ _ _ _ _ rfl
theorem srl (d a b : Reg) : Statement (.srl d a b) := of_alu _ _ _ _ _ rfl
theorem sra (d a b : Reg) : Statement (.sra d a b) := of_alu _ _ _ _ _ rfl
theorem slt (d a b : Reg) : Statement (.slt d a b) := of_alu _ _ _ _ _ rfl
theorem sltn (d a b : Reg) : Statement (.sltn d a b) := of_alu _ _ _ _ _ rfl
theorem min (d a b : Reg) : Statement (.min d a b) := of_alu _ _ _ _ _ rfl
theorem max (d a b : Reg) : Statement (.max d a b) := of_alu _ _ _ _ _ rfl
theorem minn (d a b : Reg) : Statement (.minn d a b) := of_alu _ _ _ _ _ rfl
theorem maxn (d a b : Reg) : Statement (.maxn d a b) := of_alu _ _ _ _ _ rfl
theorem mul (d a b : Reg) : Statement (.mul d a b) := of_alu _ _ _ _ _ rfl
theorem mulh (d a b : Reg) : Statement (.mulh d a b) := of_alu _ _ _ _ _ rfl
theorem mulhn (d a b : Reg) : Statement (.mulhn d a b) := of_alu _ _ _ _ _ rfl
theorem div (d a b : Reg) : Statement (.div d a b) := of_alu _ _ _ _ _ rfl
theorem divn (d a b : Reg) : Statement (.divn d a b) := of_alu _ _ _ _ _ rfl
theorem rem (d a b : Reg) : Statement (.rem d a b) := of_alu _ _ _ _ _ rfl
theorem remn (d a b : Reg) : Statement (.remn d a b) := of_alu _ _ _ _ _ rfl
theorem clz (d a : Reg) : Statement (.clz d a) := of_alu _ _ _ _ _ rfl
theorem ctz (d a : Reg) : Statement (.ctz d a) := of_alu _ _ _ _ _ rfl
theorem popc (d a : Reg) : Statement (.popc d a) := of_alu _ _ _ _ _ rfl
theorem mov (d a : Reg) : Statement (.mov d a) := of_alu _ _ _ _ _ rfl
theorem ld (d a : Reg) (imm : BitVec 12) : Statement (.ld d a imm) := of_c _ _ _ _ _ rfl
theorem st (d a : Reg) (imm : BitVec 12) : Statement (.st d a imm) := of_c _ _ _ _ _ rfl
theorem beqz (a : Reg) (off : BitVec 18) : Statement (.beqz a off) := of_c _ _ _ _ _ rfl
theorem bnez (a : Reg) (off : BitVec 18) : Statement (.bnez a off) := of_c _ _ _ _ _ rfl
theorem j (off : BitVec 24) : Statement (.j off) := of_c _ _ _ _ _ rfl
theorem jal (off : BitVec 24) : Statement (.jal off) := of_c _ _ _ _ _ rfl
theorem jr (a : Reg) (imm : BitVec 12) : Statement (.jr a imm) := of_c _ _ _ _ _ rfl
theorem jalr (a : Reg) (imm : BitVec 12) : Statement (.jalr a imm) := of_c _ _ _ _ _ rfl
theorem loop (k : Bool) (a : Reg) (off : BitVec 12) : Statement (.loop k a off) := of_c _ _ _ _ _ rfl
theorem crd (d : Reg) (r : BitVec 12) : Statement (.crd d r) := of_c _ _ _ _ _ rfl
theorem cwr (a : Reg) (r : BitVec 12) : Statement (.cwr a r) := of_c _ _ _ _ _ rfl
theorem setvl (d a : Reg) : Statement (.setvl d a) := of_c _ _ _ _ _ rfl
theorem tand (td ta tb : Tag) (m : Mask) : Statement (.tand td ta tb m) := of_c _ _ _ _ _ rfl
theorem tor (td ta tb : Tag) (m : Mask) : Statement (.tor td ta tb m) := of_c _ _ _ _ _ rfl
theorem txor (td ta tb : Tag) (m : Mask) : Statement (.txor td ta tb m) := of_c _ _ _ _ _ rfl
theorem tandn (td ta tb : Tag) (m : Mask) : Statement (.tandn td ta tb m) := of_c _ _ _ _ _ rfl
theorem tnot (td ta : Tag) (m : Mask) : Statement (.tnot td ta m) := of_c _ _ _ _ _ rfl
theorem tset (td : Tag) (m : Mask) : Statement (.tset td m) := of_c _ _ _ _ _ rfl
theorem tclr (td : Tag) (m : Mask) : Statement (.tclr td m) := of_c _ _ _ _ _ rfl
theorem tmov (td ta : Tag) (m : Mask) : Statement (.tmov td ta m) := of_c _ _ _ _ _ rfl
theorem tcnt (d : Reg) (ta : Tag) (m : Mask) : Statement (.tcnt d ta m) := of_c _ _ _ _ _ rfl
theorem tany (d : Reg) (ta : Tag) (m : Mask) : Statement (.tany d ta m) := of_c _ _ _ _ _ rfl
theorem tfirst (d : Reg) (ta : Tag) (m : Mask) : Statement (.tfirst d ta m) := of_c _ _ _ _ _ rfl
theorem tpick (td ta : Tag) (a : Reg) (m : Mask) : Statement (.tpick td ta a m) := of_c _ _ _ _ _ rfl
theorem brk (imm : BitVec 12) : Statement (.brk imm) := of_c _ _ _ _ _ rfl
theorem svc (imm : BitVec 12) : Statement (.svc imm) := of_c _ _ _ _ _ rfl
theorem fence (imm : BitVec 12) : Statement (.fence imm) := of_c _ _ _ _ _ rfl
theorem exit : Statement .exit := of_c _ _ _ _ _ rfl
theorem exitFail : Statement .exitFail := of_c _ _ _ _ _ rfl
theorem yield : Statement .yield := of_c _ _ _ _ _ rfl
theorem uret : Statement .uret := of_c _ _ _ _ _ rfl
theorem eret : Statement .eret := of_c _ _ _ _ _ rfl
theorem addw (o : SForm) : Statement (.addw o) := of_s _ _ _ rfl
theorem movw (o : SForm) : Statement (.movw o) := of_s _ _ _ rfl
theorem movhi (o : SForm) : Statement (.movhi o) := of_s _ _ _ rfl
theorem lds (o : SForm) : Statement (.lds o) := of_s _ _ _ rfl
theorem sts (o : SForm) : Statement (.sts o) := of_s _ _ _ rfl
theorem bc (o : SForm) : Statement (.bc o) := of_s _ _ _ rfl
theorem jl (o : SForm) : Statement (.jl o) := of_s _ _ _ rfl
theorem sel (o : SForm) : Statement (.sel o) := of_s _ _ _ rfl
theorem bext (o : SForm) : Statement (.bext o) := of_s _ _ _ rfl
theorem bins (o : SForm) : Statement (.bins o) := of_s _ _ _ rfl
theorem lpset (o : SForm) : Statement (.lpset o) := of_s _ _ _ rfl
theorem movl (o : SForm) (lit : BitVec 32) : Statement (.movl o lit) := of_l _ _ _ _ rfl
theorem addl (o : SForm) (lit : BitVec 32) : Statement (.addl o lit) := of_l _ _ _ _ rfl
theorem andl (o : SForm) (lit : BitVec 32) : Statement (.andl o lit) := of_l _ _ _ _ rfl
theorem orl (o : SForm) (lit : BitVec 32) : Statement (.orl o lit) := of_l _ _ _ _ rfl
theorem xorl (o : SForm) (lit : BitVec 32) : Statement (.xorl o lit) := of_l _ _ _ _ rfl
theorem bcl (o : SForm) (lit : BitVec 32) : Statement (.bcl o lit) := of_l _ _ _ _ rfl
theorem loopl (o : SForm) (lit : BitVec 32) : Statement (.loopl o lit) := of_l _ _ _ _ rfl
theorem asrch (o : SForm) : Statement (.asrch o) := of_s _ _ _ rfl
theorem awr (o : SForm) : Statement (.awr o) := of_s _ _ _ rfl
theorem asrchl (o : SForm) : Statement (.asrchl o) := of_s _ _ _ rfl
theorem awrl (o : SForm) : Statement (.awrl o) := of_s _ _ _ rfl
theorem tshup (o : SForm) : Statement (.tshup o) := of_s _ _ _ rfl
theorem tshdn (o : SForm) : Statement (.tshdn o) := of_s _ _ _ rfl
theorem amcodeRun (o : SForm) : Statement (.amcodeRun o) := of_s _ _ _ rfl
theorem amcodeLoad (o : SForm) : Statement (.amcodeLoad o) := of_s _ _ _ rfl
theorem vadd (v : VForm) : Statement (.vadd v) := of_v _ _ _ rfl
theorem vsub (v : VForm) : Statement (.vsub v) := of_v _ _ _ rfl
theorem vadds (v : VForm) : Statement (.vadds v) := of_v _ _ _ rfl
theorem vsubs (v : VForm) : Statement (.vsubs v) := of_v _ _ _ rfl
theorem vmul (v : VForm) : Statement (.vmul v) := of_v _ _ _ rfl
theorem vmulh (v : VForm) : Statement (.vmulh v) := of_v _ _ _ rfl
theorem vmac (v : VForm) : Statement (.vmac v) := of_v _ _ _ rfl
theorem vneg (v : VForm) : Statement (.vneg v) := of_v _ _ _ rfl
theorem vabs (v : VForm) : Statement (.vabs v) := of_v _ _ _ rfl
theorem vabsd (v : VForm) : Statement (.vabsd v) := of_v _ _ _ rfl
theorem vmin (v : VForm) : Statement (.vmin v) := of_v _ _ _ rfl
theorem vmax (v : VForm) : Statement (.vmax v) := of_v _ _ _ rfl
theorem vand (v : VForm) : Statement (.vand v) := of_v _ _ _ rfl
theorem vor (v : VForm) : Statement (.vor v) := of_v _ _ _ rfl
theorem vxor (v : VForm) : Statement (.vxor v) := of_v _ _ _ rfl
theorem vnot (v : VForm) : Statement (.vnot v) := of_v _ _ _ rfl
theorem vshl (v : VForm) : Statement (.vshl v) := of_v _ _ _ rfl
theorem vshr (v : VForm) : Statement (.vshr v) := of_v _ _ _ rfl
theorem vsra (v : VForm) : Statement (.vsra v) := of_v _ _ _ rfl
theorem vcmp (v : VForm) : Statement (.vcmp v) := of_v _ _ _ rfl
theorem vsel (v : VForm) : Statement (.vsel v) := of_v _ _ _ rfl
theorem vmov (v : VForm) : Statement (.vmov v) := of_v _ _ _ rfl
theorem vcvt (v : VForm) : Statement (.vcvt v) := of_v _ _ _ rfl
theorem vpopc (v : VForm) : Statement (.vpopc v) := of_v _ _ _ rfl
theorem vdiv (v : VForm) : Statement (.vdiv v) := of_v _ _ _ rfl
theorem vmull (v : VForm) : Statement (.vmull v) := of_v _ _ _ rfl
theorem vbfpq (v : VForm) : Statement (.vbfpq v) := of_v _ _ _ rfl
theorem vscale (v : VForm) : Statement (.vscale v) := of_v _ _ _ rfl
theorem vrsum (v : VForm) : Statement (.vrsum v) := of_v _ _ _ rfl
theorem vrmin (v : VForm) : Statement (.vrmin v) := of_v _ _ _ rfl
theorem vrmax (v : VForm) : Statement (.vrmax v) := of_v _ _ _ rfl
theorem vscan (v : VForm) : Statement (.vscan v) := of_v _ _ _ rfl
theorem vtopk (v : VForm) : Statement (.vtopk v) := of_v _ _ _ rfl
theorem vsimh (v : VForm) : Statement (.vsimh v) := of_v _ _ _ rfl
theorem vsimd (v : VForm) : Statement (.vsimd v) := of_v _ _ _ rfl
theorem vcbound (v : VForm) : Statement (.vcbound v) := of_v _ _ _ rfl
theorem vcwalk (v : VForm) : Statement (.vcwalk v) := of_v _ _ _ rfl
theorem vcdirty (v : VForm) : Statement (.vcdirty v) := of_v _ _ _ rfl
theorem unmk (v : VForm) : Statement (.unmk v) := of_v _ _ _ rfl
theorem fadd (v : VForm) : Statement (.fadd v) := of_v _ _ _ rfl
theorem fsub (v : VForm) : Statement (.fsub v) := of_v _ _ _ rfl
theorem fmul (v : VForm) : Statement (.fmul v) := of_v _ _ _ rfl
theorem ffma (v : VForm) : Statement (.ffma v) := of_v _ _ _ rfl
theorem ffms (v : VForm) : Statement (.ffms v) := of_v _ _ _ rfl
theorem fmin (v : VForm) : Statement (.fmin v) := of_v _ _ _ rfl
theorem fmax (v : VForm) : Statement (.fmax v) := of_v _ _ _ rfl
theorem fabs (v : VForm) : Statement (.fabs v) := of_v _ _ _ rfl
theorem fneg (v : VForm) : Statement (.fneg v) := of_v _ _ _ rfl
theorem fcmp (v : VForm) : Statement (.fcmp v) := of_v _ _ _ rfl
theorem fcvt (v : VForm) : Statement (.fcvt v) := of_v _ _ _ rfl
theorem fdiv (v : VForm) : Statement (.fdiv v) := of_v _ _ _ rfl
theorem fsqrt (v : VForm) : Statement (.fsqrt v) := of_v _ _ _ rfl
theorem frcp (v : VForm) : Statement (.frcp v) := of_v _ _ _ rfl
theorem frsq (v : VForm) : Statement (.frsq v) := of_v _ _ _ rfl
theorem fexp2 (v : VForm) : Statement (.fexp2 v) := of_v _ _ _ rfl
theorem flog2 (v : VForm) : Statement (.flog2 v) := of_v _ _ _ rfl
theorem fsin (v : VForm) : Statement (.fsin v) := of_v _ _ _ rfl
theorem fcos (v : VForm) : Statement (.fcos v) := of_v _ _ _ rfl
theorem ftanh (v : VForm) : Statement (.ftanh v) := of_v _ _ _ rfl
theorem fsig (v : VForm) : Statement (.fsig v) := of_v _ _ _ rfl
theorem ferf (v : VForm) : Statement (.ferf v) := of_v _ _ _ rfl
theorem frsum (v : VForm) : Statement (.frsum v) := of_v _ _ _ rfl
theorem frmax (v : VForm) : Statement (.frmax v) := of_v _ _ _ rfl
theorem gang (o : SForm) : Statement (.gang o) := of_s _ _ _ rfl
theorem vbcast (o : SForm) : Statement (.vbcast o) := of_s _ _ _ rfl
theorem vext (o : SForm) : Statement (.vext o) := of_s _ _ _ rfl
theorem vins (o : SForm) : Statement (.vins o) := of_s _ _ _ rfl
theorem vslide (o : SForm) : Statement (.vslide o) := of_s _ _ _ rfl
theorem vpermr (o : SForm) : Statement (.vpermr o) := of_s _ _ _ rfl
theorem vgrant (o : SForm) : Statement (.vgrant o) := of_s _ _ _ rfl
theorem mma (v : VForm) : Statement (.mma v) := of_v _ _ _ rfl
theorem mmas (v : VForm) : Statement (.mmas v) := of_v _ _ _ rfl
theorem mmau (v : VForm) : Statement (.mmau v) := of_v _ _ _ rfl
theorem mlda (o : SForm) : Statement (.mlda o) := of_s _ _ _ rfl
theorem msta (o : SForm) : Statement (.msta o) := of_s _ _ _ rfl
theorem mzero (o : SForm) : Statement (.mzero o) := of_s _ _ _ rfl
theorem mdesc (o : SForm) : Statement (.mdesc o) := of_s _ _ _ rfl
theorem mdescRd (o : SForm) : Statement (.mdescRd o) := of_s _ _ _ rfl
theorem mwait (o : SForm) : Statement (.mwait o) := of_s _ _ _ rfl
theorem mchk (o : SForm) : Statement (.mchk o) := of_s _ _ _ rfl
theorem vld (o : SForm) : Statement (.vld o) := of_s _ _ _ rfl
theorem vst (o : SForm) : Statement (.vst o) := of_s _ _ _ rfl
theorem vlds (o : SForm) : Statement (.vlds o) := of_s _ _ _ rfl
theorem vsts (o : SForm) : Statement (.vsts o) := of_s _ _ _ rfl
theorem vldx (o : SForm) : Statement (.vldx o) := of_s _ _ _ rfl
theorem vstx (o : SForm) : Statement (.vstx o) := of_s _ _ _ rfl
theorem vldff (o : SForm) : Statement (.vldff o) := of_s _ _ _ rfl
theorem rld (o : SForm) : Statement (.rld o) := of_s _ _ _ rfl
theorem rst (o : SForm) : Statement (.rst o) := of_s _ _ _ rfl
theorem pref (o : SForm) : Statement (.pref o) := of_s _ _ _ rfl
theorem cwb (o : SForm) : Statement (.cwb o) := of_s _ _ _ rfl
theorem amo (o : SForm) : Statement (.amo o) := of_s _ _ _ rfl
theorem vamo (o : SForm) : Statement (.vamo o) := of_s _ _ _ rfl
theorem ldf (o : SForm) : Statement (.ldf o) := of_s _ _ _ rfl
theorem ldfe (o : SForm) : Statement (.ldfe o) := of_s _ _ _ rfl
theorem ste (o : SForm) : Statement (.ste o) := of_s _ _ _ rfl
theorem stf (o : SForm) : Statement (.stf o) := of_s _ _ _ rfl
theorem feset (o : SForm) : Statement (.feset o) := of_s _ _ _ rfl
theorem waita (o : SForm) : Statement (.waita o) := of_s _ _ _ rfl
theorem stwk (o : SForm) : Statement (.stwk o) := of_s _ _ _ rfl
theorem barGang (o : SForm) : Statement (.barGang o) := of_s _ _ _ rfl
theorem barClus (o : SForm) : Statement (.barClus o) := of_s _ _ _ rfl
theorem dqpush (o : SForm) : Statement (.dqpush o) := of_s _ _ _ rfl
theorem dqpop (o : SForm) : Statement (.dqpop o) := of_s _ _ _ rfl
theorem dqsteal (o : SForm) : Statement (.dqsteal o) := of_s _ _ _ rfl
theorem cpush (o : SForm) : Statement (.cpush o) := of_s _ _ _ rfl
theorem cstat (o : SForm) : Statement (.cstat o) := of_s _ _ _ rfl
theorem cwait (o : SForm) : Statement (.cwait o) := of_s _ _ _ rfl
theorem ckill (o : SForm) : Statement (.ckill o) := of_s _ _ _ rfl
theorem ckillRel (o : SForm) : Statement (.ckillRel o) := of_s _ _ _ rfl
theorem xrow (o : SForm) : Statement (.xrow o) := of_s _ _ _ rfl
theorem pdep (o : SForm) : Statement (.pdep o) := of_s _ _ _ rfl
theorem pcopy (o : SForm) : Statement (.pcopy o) := of_s _ _ _ rfl
theorem ptake (o : SForm) : Statement (.ptake o) := of_s _ _ _ rfl
theorem pcnl (o : SForm) : Statement (.pcnl o) := of_s _ _ _ rfl
theorem pcnt (o : SForm) : Statement (.pcnt o) := of_s _ _ _ rfl
theorem cwalk (o : SForm) : Statement (.cwalk o) := of_s _ _ _ rfl
theorem cdirty (o : SForm) : Statement (.cdirty o) := of_s _ _ _ rfl
theorem launch (o : SForm) : Statement (.launch o) := of_s _ _ _ rfl
theorem preempt (o : SForm) : Statement (.preempt o) := of_s _ _ _ rfl
theorem ctxsv (o : SForm) : Statement (.ctxsv o) := of_s _ _ _ rfl
theorem ctxld (o : SForm) : Statement (.ctxld o) := of_s _ _ _ rfl
theorem migr (o : SForm) : Statement (.migr o) := of_s _ _ _ rfl
theorem lcidset (o : SForm) : Statement (.lcidset o) := of_s _ _ _ rfl
theorem tlbinv (o : SForm) : Statement (.tlbinv o) := of_s _ _ _ rfl
theorem tlbinva (o : SForm) : Statement (.tlbinva o) := of_s _ _ _ rfl
theorem bringUp (boot : BootInput) : Statement (.bringUp boot) := .inl rfl
theorem pageWalk (hart : Nat) (va : W64) : Statement (.pageWalk hart va) := .inl rfl
theorem thermalRequest (core : Nat) (deg : Nat) : Statement (.thermalRequest core deg) := .inl rfl
theorem lqTailWrite (q : Nat) (value : W64) : Statement (.lqTailWrite q value) := .inl rfl
theorem controlRegisterWrite (off : Nat) (size : Nat) (value : W64) : Statement (.controlRegisterWrite off size value) := .inl rfl
theorem phaseDelayExpire (q : Nat) (cluster : Nat) : Statement (.phaseDelayExpire q cluster) := .inl rfl
theorem matrixCommit (core : Nat) (check : MatrixCheck) : Statement (.matrixCommit core check) := .inl rfl
theorem copyLineLand (core : Nat) (ch : Nat) : Statement (.copyLineLand core ch) := .inl rfl
theorem copyRecordComplete (core : Nat) (ch : Nat) : Statement (.copyRecordComplete core ch) := .inl rfl
theorem pantryTimeout (hart : Nat) (status : Nat) : Statement (.pantryTimeout hart status) := .inl rfl
theorem prgnWrite (region : Nat) (value : W64) : Statement (.prgnWrite region value) := .inl rfl
theorem mqTailWrite (value : W64) : Statement (.mqTailWrite value) := .inl rfl
theorem hostWrite (bar2 : Bool) (off : Nat) (size : Nat) (value : BitVec 512) : Statement (.hostWrite bar2 off size value) := .inl rfl
theorem hostRead (bar2 : Bool) (off : Nat) (size : Nat) : Statement (.hostRead bar2 off size) := .inl rfl
theorem remoteRequest (pa : Nat) (op : PeerOp) : Statement (.remoteRequest pa op) := .inl rfl
theorem retirementAppend (kind : Nat) (loc : Nat) : Statement (.retirementAppend kind loc) := .inl rfl
theorem storeDrain (hart : Nat) (n : Nat) : Statement (.storeDrain hart n) := .inl rfl
theorem singleBitUpset (core : Nat) (array : Nat) (row : Nat) (bit : Nat) : Statement (.singleBitUpset core array row bit) := .inl rfl
theorem deviceReset : Statement .deviceReset := .inl rfl
theorem convoyIssue : Statement .convoyIssue := .inl rfl
theorem lineFetch : Statement .lineFetch := .inl rfl
theorem lineRefetch : Statement .lineRefetch := .inl rfl
theorem convoyRetire : Statement .convoyRetire := .inl rfl
theorem registerFill : Statement .registerFill := .inl rfl
theorem vectorLoadFill : Statement .vectorLoadFill := .inl rfl
theorem arrayScrub : Statement .arrayScrub := .inl rfl
theorem droopFreeze : Statement .droopFreeze := .inl rfl
theorem droopHoldExpire : Statement .droopHoldExpire := .inl rfl
theorem migrationSearch : Statement .migrationSearch := .inl rfl
theorem thermalMigration : Statement .thermalMigration := .inl rfl
theorem lcidExchange : Statement .lcidExchange := .inl rfl
theorem lqPreempt : Statement .lqPreempt := .inl rfl
theorem lqResume : Statement .lqResume := .inl rfl
theorem launchStart : Statement .launchStart := .inl rfl
theorem iterationDispatch : Statement .iterationDispatch := .inl rfl
theorem hartEnd : Statement .hartEnd := .inl rfl
theorem launchComplete : Statement .launchComplete := .inl rfl
theorem preemptionSave : Statement .preemptionSave := .inl rfl
theorem gangResumePlace : Statement .gangResumePlace := .inl rfl
theorem quantumEnd : Statement .quantumEnd := .inl rfl
theorem quantumCommit : Statement .quantumCommit := .inl rfl
theorem matrixStart : Statement .matrixStart := .inl rfl
theorem copyRecordBegin : Statement .copyRecordBegin := .inl rfl
theorem homeAtomicPerform : Statement .homeAtomicPerform := .inl rfl
theorem parkRetry : Statement .parkRetry := .inl rfl
theorem feWaitServe : Statement .feWaitServe := .inl rfl
theorem waitTimeoutExpire : Statement .waitTimeoutExpire := .inl rfl
theorem watchReevaluate : Statement .watchReevaluate := .inl rfl
theorem barrierRelease : Statement .barrierRelease := .inl rfl
theorem barrierTimeout : Statement .barrierTimeout := .inl rfl
theorem pantryMessageServe : Statement .pantryMessageServe := .inl rfl
theorem pantryRefuseRetry : Statement .pantryRefuseRetry := .inl rfl
theorem pantryReply : Statement .pantryReply := .inl rfl
theorem cellarWalkServe : Statement .cellarWalkServe := .inl rfl
theorem move : Statement .move := .inl rfl
theorem release : Statement .release := .inl rfl
theorem heatdump : Statement .heatdump := .inl rfl
theorem movePageCutover : Statement .movePageCutover := .inl rfl
theorem heatEpochHalve : Statement .heatEpochHalve := .inl rfl
theorem remoteTimeout : Statement .remoteTimeout := .inl rfl
theorem powerClamp : Statement .powerClamp := .inl rfl
theorem thermalTrip : Statement .thermalTrip := .inl rfl
theorem bar2Resize : Statement .bar2Resize := .inl rfl

end Sys2Proof.Laws.ParcelCount
end

