-- ==== Sys2Proof/Laws/State.lean ====
section
/-! SUPPORT. One lemma for each field and each update of the state, of a hart and of the tables in it, so that no proof
unfolds a record update. -/

namespace Sys2Proof.Laws

open Sys2Proof Sys2Proof.Machine

/-! ## Updates of the state -/

@[simp] theorem putHart_agenda (s : State) (id : Nat) (h : Hart) : (s.putHart id h).agenda = s.agenda := rfl
@[simp] theorem putHart_who (s : State) (id : Nat) (h : Hart) : (s.putHart id h).who = s.who := rfl
@[simp] theorem putHart_cur (s : State) (id : Nat) (h : Hart) : (s.putHart id h).cur = s.cur := rfl
@[simp] theorem putHart_asleep (s : State) (id : Nat) (h : Hart) : (s.putHart id h).asleep = s.asleep := rfl
@[simp] theorem putHart_elemOrder (s : State) (id : Nat) (h : Hart) : (s.putHart id h).elemOrder = s.elemOrder := rfl
@[simp] theorem putHart_keep (s : State) (id : Nat) (h : Hart) : (s.putHart id h).keep = s.keep := rfl
@[simp] theorem putHart_serial (s : State) (id : Nat) (h : Hart) : (s.putHart id h).serial = s.serial := rfl
@[simp] theorem putHart_mem (s : State) (id : Nat) (h : Hart) : (s.putHart id h).mem = s.mem := rfl
@[simp] theorem putHart_lines (s : State) (id : Nat) (h : Hart) : (s.putHart id h).lines = s.lines := rfl
@[simp] theorem putHart_poison (s : State) (id : Nat) (h : Hart) : (s.putHart id h).poison = s.poison := rfl
@[simp] theorem putHart_heat (s : State) (id : Nat) (h : Hart) : (s.putHart id h).heat = s.heat := rfl
@[simp] theorem putHart_flips (s : State) (id : Nat) (h : Hart) : (s.putHart id h).flips = s.flips := rfl
@[simp] theorem putHart_rows (s : State) (id : Nat) (h : Hart) : (s.putHart id h).rows = s.rows := rfl
@[simp] theorem putHart_upsets (s : State) (id : Nat) (h : Hart) : (s.putHart id h).upsets = s.upsets := rfl
@[simp] theorem putHart_badRows (s : State) (id : Nat) (h : Hart) : (s.putHart id h).badRows = s.badRows := rfl
@[simp] theorem putHart_tileWords (s : State) (id : Nat) (h : Hart) : (s.putHart id h).tileWords = s.tileWords := rfl
@[simp] theorem putHart_tiles (s : State) (id : Nat) (h : Hart) : (s.putHart id h).tiles = s.tiles := rfl
@[simp] theorem putHart_ucode (s : State) (id : Nat) (h : Hart) : (s.putHart id h).ucode = s.ucode := rfl
@[simp] theorem putHart_cores (s : State) (id : Nat) (h : Hart) : (s.putHart id h).cores = s.cores := rfl
@[simp] theorem putHart_lcids (s : State) (id : Nat) (h : Hart) : (s.putHart id h).lcids = s.lcids := rfl
@[simp] theorem putHart_bars (s : State) (id : Nat) (h : Hart) : (s.putHart id h).bars = s.bars := rfl
@[simp] theorem putHart_gangs (s : State) (id : Nat) (h : Hart) : (s.putHart id h).gangs = s.gangs := rfl
@[simp] theorem putHart_lqs (s : State) (id : Nat) (h : Hart) : (s.putHart id h).lqs = s.lqs := rfl
@[simp] theorem putHart_tlb (s : State) (id : Nat) (h : Hart) : (s.putHart id h).tlb = s.tlb := rfl
@[simp] theorem putHart_lbuf (s : State) (id : Nat) (h : Hart) : (s.putHart id h).lbuf = s.lbuf := rfl
@[simp] theorem putHart_replicas (s : State) (id : Nat) (h : Hart) : (s.putHart id h).replicas = s.replicas := rfl
@[simp] theorem putHart_nodes (s : State) (id : Nat) (h : Hart) : (s.putHart id h).nodes = s.nodes := rfl
@[simp] theorem putHart_atoms (s : State) (id : Nat) (h : Hart) : (s.putHart id h).atoms = s.atoms := rfl
@[simp] theorem putHart_parks (s : State) (id : Nat) (h : Hart) : (s.putHart id h).parks = s.parks := rfl
@[simp] theorem putHart_migs (s : State) (id : Nat) (h : Hart) : (s.putHart id h).migs = s.migs := rfl
@[simp] theorem putHart_prgn (s : State) (id : Nat) (h : Hart) : (s.putHart id h).prgn = s.prgn := rfl
@[simp] theorem putHart_tuples (s : State) (id : Nat) (h : Hart) : (s.putHart id h).tuples = s.tuples := rfl
@[simp] theorem putHart_pmsgs (s : State) (id : Nat) (h : Hart) : (s.putHart id h).pmsgs = s.pmsgs := rfl
@[simp] theorem putHart_pparks (s : State) (id : Nat) (h : Hart) : (s.putHart id h).pparks = s.pparks := rfl
@[simp] theorem putHart_preplies (s : State) (id : Nat) (h : Hart) : (s.putHart id h).preplies = s.preplies := rfl
@[simp] theorem putHart_pages (s : State) (id : Nat) (h : Hart) : (s.putHart id h).pages = s.pages := rfl
@[simp] theorem putHart_dev (s : State) (id : Nat) (h : Hart) : (s.putHart id h).dev = s.dev := rfl
@[simp] theorem putHart_routes (s : State) (id : Nat) (h : Hart) : (s.putHart id h).routes = s.routes := rfl
@[simp] theorem putHart_mq (s : State) (id : Nat) (h : Hart) : (s.putHart id h).mq = s.mq := rfl
@[simp] theorem putHart_redirects (s : State) (id : Nat) (h : Hart) : (s.putHart id h).redirects = s.redirects := rfl
@[simp] theorem putHart_rt (s : State) (id : Nat) (h : Hart) : (s.putHart id h).rt = s.rt := rfl
@[simp] theorem putHart_rtFull (s : State) (id : Nat) (h : Hart) : (s.putHart id h).rtFull = s.rtFull := rfl
@[simp] theorem putHart_rtLate (s : State) (id : Nat) (h : Hart) : (s.putHart id h).rtLate = s.rtLate := rfl
@[simp] theorem putHart_meas (s : State) (id : Nat) (h : Hart) : (s.putHart id h).meas = s.meas := rfl
@[simp] theorem putHart_msix (s : State) (id : Nat) (h : Hart) : (s.putHart id h).msix = s.msix := rfl
@[simp] theorem putHart_pba (s : State) (id : Nat) (h : Hart) : (s.putHart id h).pba = s.pba := rfl
@[simp] theorem putHart_msgs (s : State) (id : Nat) (h : Hart) : (s.putHart id h).msgs = s.msgs := rfl
@[simp] theorem putHart_hostQ (s : State) (id : Nat) (h : Hart) : (s.putHart id h).hostQ = s.hostQ := rfl
@[simp] theorem putHart_hostReads (s : State) (id : Nat) (h : Hart) : (s.putHart id h).hostReads = s.hostReads := rfl
@[simp] theorem putHart_remotes (s : State) (id : Nat) (h : Hart) : (s.putHart id h).remotes = s.remotes := rfl
@[simp] theorem putHart_heldAt (s : State) (id : Nat) (h : Hart) : (s.putHart id h).heldAt = s.heldAt := rfl
@[simp] theorem putHart_linksDown (s : State) (id : Nat) (h : Hart) : (s.putHart id h).linksDown = s.linksDown := rfl
@[simp] theorem putHart_peerWaits (s : State) (id : Nat) (h : Hart) : (s.putHart id h).peerWaits = s.peerWaits := rfl
@[simp] theorem putHart_outbox (s : State) (id : Nat) (h : Hart) : (s.putHart id h).outbox = s.outbox := rfl
@[simp] theorem putHart_peerAnswers (s : State) (id : Nat) (h : Hart) : (s.putHart id h).peerAnswers = s.peerAnswers := rfl
@[simp] theorem putHart_phase (s : State) (id : Nat) (h : Hart) : (s.putHart id h).phase = s.phase := rfl
@[simp] theorem putHart_thermLimit (s : State) (id : Nat) (h : Hart) : (s.putHart id h).thermLimit = s.thermLimit := rfl

@[simp] theorem putCore_agenda (s : State) (p : Nat) (c : Core) : (s.putCore p c).agenda = s.agenda := rfl
@[simp] theorem putCore_who (s : State) (p : Nat) (c : Core) : (s.putCore p c).who = s.who := rfl
@[simp] theorem putCore_cur (s : State) (p : Nat) (c : Core) : (s.putCore p c).cur = s.cur := rfl
@[simp] theorem putCore_asleep (s : State) (p : Nat) (c : Core) : (s.putCore p c).asleep = s.asleep := rfl
@[simp] theorem putCore_elemOrder (s : State) (p : Nat) (c : Core) : (s.putCore p c).elemOrder = s.elemOrder := rfl
@[simp] theorem putCore_keep (s : State) (p : Nat) (c : Core) : (s.putCore p c).keep = s.keep := rfl
@[simp] theorem putCore_serial (s : State) (p : Nat) (c : Core) : (s.putCore p c).serial = s.serial := rfl
@[simp] theorem putCore_mem (s : State) (p : Nat) (c : Core) : (s.putCore p c).mem = s.mem := rfl
@[simp] theorem putCore_lines (s : State) (p : Nat) (c : Core) : (s.putCore p c).lines = s.lines := rfl
@[simp] theorem putCore_poison (s : State) (p : Nat) (c : Core) : (s.putCore p c).poison = s.poison := rfl
@[simp] theorem putCore_heat (s : State) (p : Nat) (c : Core) : (s.putCore p c).heat = s.heat := rfl
@[simp] theorem putCore_flips (s : State) (p : Nat) (c : Core) : (s.putCore p c).flips = s.flips := rfl
@[simp] theorem putCore_rows (s : State) (p : Nat) (c : Core) : (s.putCore p c).rows = s.rows := rfl
@[simp] theorem putCore_upsets (s : State) (p : Nat) (c : Core) : (s.putCore p c).upsets = s.upsets := rfl
@[simp] theorem putCore_badRows (s : State) (p : Nat) (c : Core) : (s.putCore p c).badRows = s.badRows := rfl
@[simp] theorem putCore_tileWords (s : State) (p : Nat) (c : Core) : (s.putCore p c).tileWords = s.tileWords := rfl
@[simp] theorem putCore_tiles (s : State) (p : Nat) (c : Core) : (s.putCore p c).tiles = s.tiles := rfl
@[simp] theorem putCore_ucode (s : State) (p : Nat) (c : Core) : (s.putCore p c).ucode = s.ucode := rfl
@[simp] theorem putCore_lcids (s : State) (p : Nat) (c : Core) : (s.putCore p c).lcids = s.lcids := rfl
@[simp] theorem putCore_bars (s : State) (p : Nat) (c : Core) : (s.putCore p c).bars = s.bars := rfl
@[simp] theorem putCore_gangs (s : State) (p : Nat) (c : Core) : (s.putCore p c).gangs = s.gangs := rfl
@[simp] theorem putCore_harts (s : State) (p : Nat) (c : Core) : (s.putCore p c).harts = s.harts := rfl
@[simp] theorem putCore_lqs (s : State) (p : Nat) (c : Core) : (s.putCore p c).lqs = s.lqs := rfl
@[simp] theorem putCore_tlb (s : State) (p : Nat) (c : Core) : (s.putCore p c).tlb = s.tlb := rfl
@[simp] theorem putCore_lbuf (s : State) (p : Nat) (c : Core) : (s.putCore p c).lbuf = s.lbuf := rfl
@[simp] theorem putCore_replicas (s : State) (p : Nat) (c : Core) : (s.putCore p c).replicas = s.replicas := rfl
@[simp] theorem putCore_nodes (s : State) (p : Nat) (c : Core) : (s.putCore p c).nodes = s.nodes := rfl
@[simp] theorem putCore_atoms (s : State) (p : Nat) (c : Core) : (s.putCore p c).atoms = s.atoms := rfl
@[simp] theorem putCore_parks (s : State) (p : Nat) (c : Core) : (s.putCore p c).parks = s.parks := rfl
@[simp] theorem putCore_migs (s : State) (p : Nat) (c : Core) : (s.putCore p c).migs = s.migs := rfl
@[simp] theorem putCore_prgn (s : State) (p : Nat) (c : Core) : (s.putCore p c).prgn = s.prgn := rfl
@[simp] theorem putCore_tuples (s : State) (p : Nat) (c : Core) : (s.putCore p c).tuples = s.tuples := rfl
@[simp] theorem putCore_pmsgs (s : State) (p : Nat) (c : Core) : (s.putCore p c).pmsgs = s.pmsgs := rfl
@[simp] theorem putCore_pparks (s : State) (p : Nat) (c : Core) : (s.putCore p c).pparks = s.pparks := rfl
@[simp] theorem putCore_preplies (s : State) (p : Nat) (c : Core) : (s.putCore p c).preplies = s.preplies := rfl
@[simp] theorem putCore_pages (s : State) (p : Nat) (c : Core) : (s.putCore p c).pages = s.pages := rfl
@[simp] theorem putCore_dev (s : State) (p : Nat) (c : Core) : (s.putCore p c).dev = s.dev := rfl
@[simp] theorem putCore_routes (s : State) (p : Nat) (c : Core) : (s.putCore p c).routes = s.routes := rfl
@[simp] theorem putCore_mq (s : State) (p : Nat) (c : Core) : (s.putCore p c).mq = s.mq := rfl
@[simp] theorem putCore_redirects (s : State) (p : Nat) (c : Core) : (s.putCore p c).redirects = s.redirects := rfl
@[simp] theorem putCore_rt (s : State) (p : Nat) (c : Core) : (s.putCore p c).rt = s.rt := rfl
@[simp] theorem putCore_rtFull (s : State) (p : Nat) (c : Core) : (s.putCore p c).rtFull = s.rtFull := rfl
@[simp] theorem putCore_rtLate (s : State) (p : Nat) (c : Core) : (s.putCore p c).rtLate = s.rtLate := rfl
@[simp] theorem putCore_meas (s : State) (p : Nat) (c : Core) : (s.putCore p c).meas = s.meas := rfl
@[simp] theorem putCore_msix (s : State) (p : Nat) (c : Core) : (s.putCore p c).msix = s.msix := rfl
@[simp] theorem putCore_pba (s : State) (p : Nat) (c : Core) : (s.putCore p c).pba = s.pba := rfl
@[simp] theorem putCore_msgs (s : State) (p : Nat) (c : Core) : (s.putCore p c).msgs = s.msgs := rfl
@[simp] theorem putCore_hostQ (s : State) (p : Nat) (c : Core) : (s.putCore p c).hostQ = s.hostQ := rfl
@[simp] theorem putCore_hostReads (s : State) (p : Nat) (c : Core) : (s.putCore p c).hostReads = s.hostReads := rfl
@[simp] theorem putCore_remotes (s : State) (p : Nat) (c : Core) : (s.putCore p c).remotes = s.remotes := rfl
@[simp] theorem putCore_heldAt (s : State) (p : Nat) (c : Core) : (s.putCore p c).heldAt = s.heldAt := rfl
@[simp] theorem putCore_linksDown (s : State) (p : Nat) (c : Core) : (s.putCore p c).linksDown = s.linksDown := rfl
@[simp] theorem putCore_peerWaits (s : State) (p : Nat) (c : Core) : (s.putCore p c).peerWaits = s.peerWaits := rfl
@[simp] theorem putCore_outbox (s : State) (p : Nat) (c : Core) : (s.putCore p c).outbox = s.outbox := rfl
@[simp] theorem putCore_peerAnswers (s : State) (p : Nat) (c : Core) : (s.putCore p c).peerAnswers = s.peerAnswers := rfl
@[simp] theorem putCore_phase (s : State) (p : Nat) (c : Core) : (s.putCore p c).phase = s.phase := rfl
@[simp] theorem putCore_thermLimit (s : State) (p : Nat) (c : Core) : (s.putCore p c).thermLimit = s.thermLimit := rfl

@[simp] theorem putLq_agenda (s : State) (q : Nat) (l : LQ) : (s.putLq q l).agenda = s.agenda := rfl
@[simp] theorem putLq_who (s : State) (q : Nat) (l : LQ) : (s.putLq q l).who = s.who := rfl
@[simp] theorem putLq_cur (s : State) (q : Nat) (l : LQ) : (s.putLq q l).cur = s.cur := rfl
@[simp] theorem putLq_asleep (s : State) (q : Nat) (l : LQ) : (s.putLq q l).asleep = s.asleep := rfl
@[simp] theorem putLq_elemOrder (s : State) (q : Nat) (l : LQ) : (s.putLq q l).elemOrder = s.elemOrder := rfl
@[simp] theorem putLq_keep (s : State) (q : Nat) (l : LQ) : (s.putLq q l).keep = s.keep := rfl
@[simp] theorem putLq_serial (s : State) (q : Nat) (l : LQ) : (s.putLq q l).serial = s.serial := rfl
@[simp] theorem putLq_mem (s : State) (q : Nat) (l : LQ) : (s.putLq q l).mem = s.mem := rfl
@[simp] theorem putLq_lines (s : State) (q : Nat) (l : LQ) : (s.putLq q l).lines = s.lines := rfl
@[simp] theorem putLq_poison (s : State) (q : Nat) (l : LQ) : (s.putLq q l).poison = s.poison := rfl
@[simp] theorem putLq_heat (s : State) (q : Nat) (l : LQ) : (s.putLq q l).heat = s.heat := rfl
@[simp] theorem putLq_flips (s : State) (q : Nat) (l : LQ) : (s.putLq q l).flips = s.flips := rfl
@[simp] theorem putLq_rows (s : State) (q : Nat) (l : LQ) : (s.putLq q l).rows = s.rows := rfl
@[simp] theorem putLq_upsets (s : State) (q : Nat) (l : LQ) : (s.putLq q l).upsets = s.upsets := rfl
@[simp] theorem putLq_badRows (s : State) (q : Nat) (l : LQ) : (s.putLq q l).badRows = s.badRows := rfl
@[simp] theorem putLq_tileWords (s : State) (q : Nat) (l : LQ) : (s.putLq q l).tileWords = s.tileWords := rfl
@[simp] theorem putLq_tiles (s : State) (q : Nat) (l : LQ) : (s.putLq q l).tiles = s.tiles := rfl
@[simp] theorem putLq_ucode (s : State) (q : Nat) (l : LQ) : (s.putLq q l).ucode = s.ucode := rfl
@[simp] theorem putLq_cores (s : State) (q : Nat) (l : LQ) : (s.putLq q l).cores = s.cores := rfl
@[simp] theorem putLq_lcids (s : State) (q : Nat) (l : LQ) : (s.putLq q l).lcids = s.lcids := rfl
@[simp] theorem putLq_bars (s : State) (q : Nat) (l : LQ) : (s.putLq q l).bars = s.bars := rfl
@[simp] theorem putLq_gangs (s : State) (q : Nat) (l : LQ) : (s.putLq q l).gangs = s.gangs := rfl
@[simp] theorem putLq_harts (s : State) (q : Nat) (l : LQ) : (s.putLq q l).harts = s.harts := rfl
@[simp] theorem putLq_tlb (s : State) (q : Nat) (l : LQ) : (s.putLq q l).tlb = s.tlb := rfl
@[simp] theorem putLq_lbuf (s : State) (q : Nat) (l : LQ) : (s.putLq q l).lbuf = s.lbuf := rfl
@[simp] theorem putLq_replicas (s : State) (q : Nat) (l : LQ) : (s.putLq q l).replicas = s.replicas := rfl
@[simp] theorem putLq_nodes (s : State) (q : Nat) (l : LQ) : (s.putLq q l).nodes = s.nodes := rfl
@[simp] theorem putLq_atoms (s : State) (q : Nat) (l : LQ) : (s.putLq q l).atoms = s.atoms := rfl
@[simp] theorem putLq_parks (s : State) (q : Nat) (l : LQ) : (s.putLq q l).parks = s.parks := rfl
@[simp] theorem putLq_migs (s : State) (q : Nat) (l : LQ) : (s.putLq q l).migs = s.migs := rfl
@[simp] theorem putLq_prgn (s : State) (q : Nat) (l : LQ) : (s.putLq q l).prgn = s.prgn := rfl
@[simp] theorem putLq_tuples (s : State) (q : Nat) (l : LQ) : (s.putLq q l).tuples = s.tuples := rfl
@[simp] theorem putLq_pmsgs (s : State) (q : Nat) (l : LQ) : (s.putLq q l).pmsgs = s.pmsgs := rfl
@[simp] theorem putLq_pparks (s : State) (q : Nat) (l : LQ) : (s.putLq q l).pparks = s.pparks := rfl
@[simp] theorem putLq_preplies (s : State) (q : Nat) (l : LQ) : (s.putLq q l).preplies = s.preplies := rfl
@[simp] theorem putLq_pages (s : State) (q : Nat) (l : LQ) : (s.putLq q l).pages = s.pages := rfl
@[simp] theorem putLq_dev (s : State) (q : Nat) (l : LQ) : (s.putLq q l).dev = s.dev := rfl
@[simp] theorem putLq_routes (s : State) (q : Nat) (l : LQ) : (s.putLq q l).routes = s.routes := rfl
@[simp] theorem putLq_mq (s : State) (q : Nat) (l : LQ) : (s.putLq q l).mq = s.mq := rfl
@[simp] theorem putLq_redirects (s : State) (q : Nat) (l : LQ) : (s.putLq q l).redirects = s.redirects := rfl
@[simp] theorem putLq_rt (s : State) (q : Nat) (l : LQ) : (s.putLq q l).rt = s.rt := rfl
@[simp] theorem putLq_rtFull (s : State) (q : Nat) (l : LQ) : (s.putLq q l).rtFull = s.rtFull := rfl
@[simp] theorem putLq_rtLate (s : State) (q : Nat) (l : LQ) : (s.putLq q l).rtLate = s.rtLate := rfl
@[simp] theorem putLq_meas (s : State) (q : Nat) (l : LQ) : (s.putLq q l).meas = s.meas := rfl
@[simp] theorem putLq_msix (s : State) (q : Nat) (l : LQ) : (s.putLq q l).msix = s.msix := rfl
@[simp] theorem putLq_pba (s : State) (q : Nat) (l : LQ) : (s.putLq q l).pba = s.pba := rfl
@[simp] theorem putLq_msgs (s : State) (q : Nat) (l : LQ) : (s.putLq q l).msgs = s.msgs := rfl
@[simp] theorem putLq_hostQ (s : State) (q : Nat) (l : LQ) : (s.putLq q l).hostQ = s.hostQ := rfl
@[simp] theorem putLq_hostReads (s : State) (q : Nat) (l : LQ) : (s.putLq q l).hostReads = s.hostReads := rfl
@[simp] theorem putLq_remotes (s : State) (q : Nat) (l : LQ) : (s.putLq q l).remotes = s.remotes := rfl
@[simp] theorem putLq_heldAt (s : State) (q : Nat) (l : LQ) : (s.putLq q l).heldAt = s.heldAt := rfl
@[simp] theorem putLq_linksDown (s : State) (q : Nat) (l : LQ) : (s.putLq q l).linksDown = s.linksDown := rfl
@[simp] theorem putLq_peerWaits (s : State) (q : Nat) (l : LQ) : (s.putLq q l).peerWaits = s.peerWaits := rfl
@[simp] theorem putLq_outbox (s : State) (q : Nat) (l : LQ) : (s.putLq q l).outbox = s.outbox := rfl
@[simp] theorem putLq_peerAnswers (s : State) (q : Nat) (l : LQ) : (s.putLq q l).peerAnswers = s.peerAnswers := rfl
@[simp] theorem putLq_phase (s : State) (q : Nat) (l : LQ) : (s.putLq q l).phase = s.phase := rfl
@[simp] theorem putLq_thermLimit (s : State) (q : Nat) (l : LQ) : (s.putLq q l).thermLimit = s.thermLimit := rfl

@[simp] theorem putGang_agenda (s : State) (k : Nat) (g : Gang) : (s.putGang k g).agenda = s.agenda := rfl
@[simp] theorem putGang_who (s : State) (k : Nat) (g : Gang) : (s.putGang k g).who = s.who := rfl
@[simp] theorem putGang_cur (s : State) (k : Nat) (g : Gang) : (s.putGang k g).cur = s.cur := rfl
@[simp] theorem putGang_asleep (s : State) (k : Nat) (g : Gang) : (s.putGang k g).asleep = s.asleep := rfl
@[simp] theorem putGang_elemOrder (s : State) (k : Nat) (g : Gang) : (s.putGang k g).elemOrder = s.elemOrder := rfl
@[simp] theorem putGang_keep (s : State) (k : Nat) (g : Gang) : (s.putGang k g).keep = s.keep := rfl
@[simp] theorem putGang_serial (s : State) (k : Nat) (g : Gang) : (s.putGang k g).serial = s.serial := rfl
@[simp] theorem putGang_mem (s : State) (k : Nat) (g : Gang) : (s.putGang k g).mem = s.mem := rfl
@[simp] theorem putGang_lines (s : State) (k : Nat) (g : Gang) : (s.putGang k g).lines = s.lines := rfl
@[simp] theorem putGang_poison (s : State) (k : Nat) (g : Gang) : (s.putGang k g).poison = s.poison := rfl
@[simp] theorem putGang_heat (s : State) (k : Nat) (g : Gang) : (s.putGang k g).heat = s.heat := rfl
@[simp] theorem putGang_flips (s : State) (k : Nat) (g : Gang) : (s.putGang k g).flips = s.flips := rfl
@[simp] theorem putGang_rows (s : State) (k : Nat) (g : Gang) : (s.putGang k g).rows = s.rows := rfl
@[simp] theorem putGang_upsets (s : State) (k : Nat) (g : Gang) : (s.putGang k g).upsets = s.upsets := rfl
@[simp] theorem putGang_badRows (s : State) (k : Nat) (g : Gang) : (s.putGang k g).badRows = s.badRows := rfl
@[simp] theorem putGang_tileWords (s : State) (k : Nat) (g : Gang) : (s.putGang k g).tileWords = s.tileWords := rfl
@[simp] theorem putGang_tiles (s : State) (k : Nat) (g : Gang) : (s.putGang k g).tiles = s.tiles := rfl
@[simp] theorem putGang_ucode (s : State) (k : Nat) (g : Gang) : (s.putGang k g).ucode = s.ucode := rfl
@[simp] theorem putGang_cores (s : State) (k : Nat) (g : Gang) : (s.putGang k g).cores = s.cores := rfl
@[simp] theorem putGang_lcids (s : State) (k : Nat) (g : Gang) : (s.putGang k g).lcids = s.lcids := rfl
@[simp] theorem putGang_bars (s : State) (k : Nat) (g : Gang) : (s.putGang k g).bars = s.bars := rfl
@[simp] theorem putGang_harts (s : State) (k : Nat) (g : Gang) : (s.putGang k g).harts = s.harts := rfl
@[simp] theorem putGang_lqs (s : State) (k : Nat) (g : Gang) : (s.putGang k g).lqs = s.lqs := rfl
@[simp] theorem putGang_tlb (s : State) (k : Nat) (g : Gang) : (s.putGang k g).tlb = s.tlb := rfl
@[simp] theorem putGang_lbuf (s : State) (k : Nat) (g : Gang) : (s.putGang k g).lbuf = s.lbuf := rfl
@[simp] theorem putGang_replicas (s : State) (k : Nat) (g : Gang) : (s.putGang k g).replicas = s.replicas := rfl
@[simp] theorem putGang_nodes (s : State) (k : Nat) (g : Gang) : (s.putGang k g).nodes = s.nodes := rfl
@[simp] theorem putGang_atoms (s : State) (k : Nat) (g : Gang) : (s.putGang k g).atoms = s.atoms := rfl
@[simp] theorem putGang_parks (s : State) (k : Nat) (g : Gang) : (s.putGang k g).parks = s.parks := rfl
@[simp] theorem putGang_migs (s : State) (k : Nat) (g : Gang) : (s.putGang k g).migs = s.migs := rfl
@[simp] theorem putGang_prgn (s : State) (k : Nat) (g : Gang) : (s.putGang k g).prgn = s.prgn := rfl
@[simp] theorem putGang_tuples (s : State) (k : Nat) (g : Gang) : (s.putGang k g).tuples = s.tuples := rfl
@[simp] theorem putGang_pmsgs (s : State) (k : Nat) (g : Gang) : (s.putGang k g).pmsgs = s.pmsgs := rfl
@[simp] theorem putGang_pparks (s : State) (k : Nat) (g : Gang) : (s.putGang k g).pparks = s.pparks := rfl
@[simp] theorem putGang_preplies (s : State) (k : Nat) (g : Gang) : (s.putGang k g).preplies = s.preplies := rfl
@[simp] theorem putGang_pages (s : State) (k : Nat) (g : Gang) : (s.putGang k g).pages = s.pages := rfl
@[simp] theorem putGang_dev (s : State) (k : Nat) (g : Gang) : (s.putGang k g).dev = s.dev := rfl
@[simp] theorem putGang_routes (s : State) (k : Nat) (g : Gang) : (s.putGang k g).routes = s.routes := rfl
@[simp] theorem putGang_mq (s : State) (k : Nat) (g : Gang) : (s.putGang k g).mq = s.mq := rfl
@[simp] theorem putGang_redirects (s : State) (k : Nat) (g : Gang) : (s.putGang k g).redirects = s.redirects := rfl
@[simp] theorem putGang_rt (s : State) (k : Nat) (g : Gang) : (s.putGang k g).rt = s.rt := rfl
@[simp] theorem putGang_rtFull (s : State) (k : Nat) (g : Gang) : (s.putGang k g).rtFull = s.rtFull := rfl
@[simp] theorem putGang_rtLate (s : State) (k : Nat) (g : Gang) : (s.putGang k g).rtLate = s.rtLate := rfl
@[simp] theorem putGang_meas (s : State) (k : Nat) (g : Gang) : (s.putGang k g).meas = s.meas := rfl
@[simp] theorem putGang_msix (s : State) (k : Nat) (g : Gang) : (s.putGang k g).msix = s.msix := rfl
@[simp] theorem putGang_pba (s : State) (k : Nat) (g : Gang) : (s.putGang k g).pba = s.pba := rfl
@[simp] theorem putGang_msgs (s : State) (k : Nat) (g : Gang) : (s.putGang k g).msgs = s.msgs := rfl
@[simp] theorem putGang_hostQ (s : State) (k : Nat) (g : Gang) : (s.putGang k g).hostQ = s.hostQ := rfl
@[simp] theorem putGang_hostReads (s : State) (k : Nat) (g : Gang) : (s.putGang k g).hostReads = s.hostReads := rfl
@[simp] theorem putGang_remotes (s : State) (k : Nat) (g : Gang) : (s.putGang k g).remotes = s.remotes := rfl
@[simp] theorem putGang_heldAt (s : State) (k : Nat) (g : Gang) : (s.putGang k g).heldAt = s.heldAt := rfl
@[simp] theorem putGang_linksDown (s : State) (k : Nat) (g : Gang) : (s.putGang k g).linksDown = s.linksDown := rfl
@[simp] theorem putGang_peerWaits (s : State) (k : Nat) (g : Gang) : (s.putGang k g).peerWaits = s.peerWaits := rfl
@[simp] theorem putGang_outbox (s : State) (k : Nat) (g : Gang) : (s.putGang k g).outbox = s.outbox := rfl
@[simp] theorem putGang_peerAnswers (s : State) (k : Nat) (g : Gang) : (s.putGang k g).peerAnswers = s.peerAnswers := rfl
@[simp] theorem putGang_phase (s : State) (k : Nat) (g : Gang) : (s.putGang k g).phase = s.phase := rfl
@[simp] theorem putGang_thermLimit (s : State) (k : Nat) (g : Gang) : (s.putGang k g).thermLimit = s.thermLimit := rfl

@[simp] theorem putRow_agenda (s : State) (k : Nat) (r : Row) : (s.putRow k r).agenda = s.agenda := rfl
@[simp] theorem putRow_who (s : State) (k : Nat) (r : Row) : (s.putRow k r).who = s.who := rfl
@[simp] theorem putRow_cur (s : State) (k : Nat) (r : Row) : (s.putRow k r).cur = s.cur := rfl
@[simp] theorem putRow_asleep (s : State) (k : Nat) (r : Row) : (s.putRow k r).asleep = s.asleep := rfl
@[simp] theorem putRow_elemOrder (s : State) (k : Nat) (r : Row) : (s.putRow k r).elemOrder = s.elemOrder := rfl
@[simp] theorem putRow_keep (s : State) (k : Nat) (r : Row) : (s.putRow k r).keep = s.keep := rfl
@[simp] theorem putRow_serial (s : State) (k : Nat) (r : Row) : (s.putRow k r).serial = s.serial := rfl
@[simp] theorem putRow_mem (s : State) (k : Nat) (r : Row) : (s.putRow k r).mem = s.mem := rfl
@[simp] theorem putRow_lines (s : State) (k : Nat) (r : Row) : (s.putRow k r).lines = s.lines := rfl
@[simp] theorem putRow_poison (s : State) (k : Nat) (r : Row) : (s.putRow k r).poison = s.poison := rfl
@[simp] theorem putRow_heat (s : State) (k : Nat) (r : Row) : (s.putRow k r).heat = s.heat := rfl
@[simp] theorem putRow_flips (s : State) (k : Nat) (r : Row) : (s.putRow k r).flips = s.flips := rfl
@[simp] theorem putRow_upsets (s : State) (k : Nat) (r : Row) : (s.putRow k r).upsets = s.upsets := rfl
@[simp] theorem putRow_badRows (s : State) (k : Nat) (r : Row) : (s.putRow k r).badRows = s.badRows := rfl
@[simp] theorem putRow_tileWords (s : State) (k : Nat) (r : Row) : (s.putRow k r).tileWords = s.tileWords := rfl
@[simp] theorem putRow_tiles (s : State) (k : Nat) (r : Row) : (s.putRow k r).tiles = s.tiles := rfl
@[simp] theorem putRow_ucode (s : State) (k : Nat) (r : Row) : (s.putRow k r).ucode = s.ucode := rfl
@[simp] theorem putRow_cores (s : State) (k : Nat) (r : Row) : (s.putRow k r).cores = s.cores := rfl
@[simp] theorem putRow_lcids (s : State) (k : Nat) (r : Row) : (s.putRow k r).lcids = s.lcids := rfl
@[simp] theorem putRow_bars (s : State) (k : Nat) (r : Row) : (s.putRow k r).bars = s.bars := rfl
@[simp] theorem putRow_gangs (s : State) (k : Nat) (r : Row) : (s.putRow k r).gangs = s.gangs := rfl
@[simp] theorem putRow_harts (s : State) (k : Nat) (r : Row) : (s.putRow k r).harts = s.harts := rfl
@[simp] theorem putRow_lqs (s : State) (k : Nat) (r : Row) : (s.putRow k r).lqs = s.lqs := rfl
@[simp] theorem putRow_tlb (s : State) (k : Nat) (r : Row) : (s.putRow k r).tlb = s.tlb := rfl
@[simp] theorem putRow_lbuf (s : State) (k : Nat) (r : Row) : (s.putRow k r).lbuf = s.lbuf := rfl
@[simp] theorem putRow_replicas (s : State) (k : Nat) (r : Row) : (s.putRow k r).replicas = s.replicas := rfl
@[simp] theorem putRow_nodes (s : State) (k : Nat) (r : Row) : (s.putRow k r).nodes = s.nodes := rfl
@[simp] theorem putRow_atoms (s : State) (k : Nat) (r : Row) : (s.putRow k r).atoms = s.atoms := rfl
@[simp] theorem putRow_parks (s : State) (k : Nat) (r : Row) : (s.putRow k r).parks = s.parks := rfl
@[simp] theorem putRow_migs (s : State) (k : Nat) (r : Row) : (s.putRow k r).migs = s.migs := rfl
@[simp] theorem putRow_prgn (s : State) (k : Nat) (r : Row) : (s.putRow k r).prgn = s.prgn := rfl
@[simp] theorem putRow_tuples (s : State) (k : Nat) (r : Row) : (s.putRow k r).tuples = s.tuples := rfl
@[simp] theorem putRow_pmsgs (s : State) (k : Nat) (r : Row) : (s.putRow k r).pmsgs = s.pmsgs := rfl
@[simp] theorem putRow_pparks (s : State) (k : Nat) (r : Row) : (s.putRow k r).pparks = s.pparks := rfl
@[simp] theorem putRow_preplies (s : State) (k : Nat) (r : Row) : (s.putRow k r).preplies = s.preplies := rfl
@[simp] theorem putRow_pages (s : State) (k : Nat) (r : Row) : (s.putRow k r).pages = s.pages := rfl
@[simp] theorem putRow_dev (s : State) (k : Nat) (r : Row) : (s.putRow k r).dev = s.dev := rfl
@[simp] theorem putRow_routes (s : State) (k : Nat) (r : Row) : (s.putRow k r).routes = s.routes := rfl
@[simp] theorem putRow_mq (s : State) (k : Nat) (r : Row) : (s.putRow k r).mq = s.mq := rfl
@[simp] theorem putRow_redirects (s : State) (k : Nat) (r : Row) : (s.putRow k r).redirects = s.redirects := rfl
@[simp] theorem putRow_rt (s : State) (k : Nat) (r : Row) : (s.putRow k r).rt = s.rt := rfl
@[simp] theorem putRow_rtFull (s : State) (k : Nat) (r : Row) : (s.putRow k r).rtFull = s.rtFull := rfl
@[simp] theorem putRow_rtLate (s : State) (k : Nat) (r : Row) : (s.putRow k r).rtLate = s.rtLate := rfl
@[simp] theorem putRow_meas (s : State) (k : Nat) (r : Row) : (s.putRow k r).meas = s.meas := rfl
@[simp] theorem putRow_msix (s : State) (k : Nat) (r : Row) : (s.putRow k r).msix = s.msix := rfl
@[simp] theorem putRow_pba (s : State) (k : Nat) (r : Row) : (s.putRow k r).pba = s.pba := rfl
@[simp] theorem putRow_msgs (s : State) (k : Nat) (r : Row) : (s.putRow k r).msgs = s.msgs := rfl
@[simp] theorem putRow_hostQ (s : State) (k : Nat) (r : Row) : (s.putRow k r).hostQ = s.hostQ := rfl
@[simp] theorem putRow_hostReads (s : State) (k : Nat) (r : Row) : (s.putRow k r).hostReads = s.hostReads := rfl
@[simp] theorem putRow_remotes (s : State) (k : Nat) (r : Row) : (s.putRow k r).remotes = s.remotes := rfl
@[simp] theorem putRow_heldAt (s : State) (k : Nat) (r : Row) : (s.putRow k r).heldAt = s.heldAt := rfl
@[simp] theorem putRow_linksDown (s : State) (k : Nat) (r : Row) : (s.putRow k r).linksDown = s.linksDown := rfl
@[simp] theorem putRow_peerWaits (s : State) (k : Nat) (r : Row) : (s.putRow k r).peerWaits = s.peerWaits := rfl
@[simp] theorem putRow_outbox (s : State) (k : Nat) (r : Row) : (s.putRow k r).outbox = s.outbox := rfl
@[simp] theorem putRow_peerAnswers (s : State) (k : Nat) (r : Row) : (s.putRow k r).peerAnswers = s.peerAnswers := rfl
@[simp] theorem putRow_phase (s : State) (k : Nat) (r : Row) : (s.putRow k r).phase = s.phase := rfl
@[simp] theorem putRow_thermLimit (s : State) (k : Nat) (r : Row) : (s.putRow k r).thermLimit = s.thermLimit := rfl

@[simp] theorem putTile_agenda (s : State) (k : Nat) (t : Tile) : (s.putTile k t).agenda = s.agenda := rfl
@[simp] theorem putTile_who (s : State) (k : Nat) (t : Tile) : (s.putTile k t).who = s.who := rfl
@[simp] theorem putTile_cur (s : State) (k : Nat) (t : Tile) : (s.putTile k t).cur = s.cur := rfl
@[simp] theorem putTile_asleep (s : State) (k : Nat) (t : Tile) : (s.putTile k t).asleep = s.asleep := rfl
@[simp] theorem putTile_elemOrder (s : State) (k : Nat) (t : Tile) : (s.putTile k t).elemOrder = s.elemOrder := rfl
@[simp] theorem putTile_keep (s : State) (k : Nat) (t : Tile) : (s.putTile k t).keep = s.keep := rfl
@[simp] theorem putTile_serial (s : State) (k : Nat) (t : Tile) : (s.putTile k t).serial = s.serial := rfl
@[simp] theorem putTile_mem (s : State) (k : Nat) (t : Tile) : (s.putTile k t).mem = s.mem := rfl
@[simp] theorem putTile_lines (s : State) (k : Nat) (t : Tile) : (s.putTile k t).lines = s.lines := rfl
@[simp] theorem putTile_poison (s : State) (k : Nat) (t : Tile) : (s.putTile k t).poison = s.poison := rfl
@[simp] theorem putTile_heat (s : State) (k : Nat) (t : Tile) : (s.putTile k t).heat = s.heat := rfl
@[simp] theorem putTile_flips (s : State) (k : Nat) (t : Tile) : (s.putTile k t).flips = s.flips := rfl
@[simp] theorem putTile_rows (s : State) (k : Nat) (t : Tile) : (s.putTile k t).rows = s.rows := rfl
@[simp] theorem putTile_upsets (s : State) (k : Nat) (t : Tile) : (s.putTile k t).upsets = s.upsets := rfl
@[simp] theorem putTile_badRows (s : State) (k : Nat) (t : Tile) : (s.putTile k t).badRows = s.badRows := rfl
@[simp] theorem putTile_tileWords (s : State) (k : Nat) (t : Tile) : (s.putTile k t).tileWords = s.tileWords := rfl
@[simp] theorem putTile_ucode (s : State) (k : Nat) (t : Tile) : (s.putTile k t).ucode = s.ucode := rfl
@[simp] theorem putTile_cores (s : State) (k : Nat) (t : Tile) : (s.putTile k t).cores = s.cores := rfl
@[simp] theorem putTile_lcids (s : State) (k : Nat) (t : Tile) : (s.putTile k t).lcids = s.lcids := rfl
@[simp] theorem putTile_bars (s : State) (k : Nat) (t : Tile) : (s.putTile k t).bars = s.bars := rfl
@[simp] theorem putTile_gangs (s : State) (k : Nat) (t : Tile) : (s.putTile k t).gangs = s.gangs := rfl
@[simp] theorem putTile_harts (s : State) (k : Nat) (t : Tile) : (s.putTile k t).harts = s.harts := rfl
@[simp] theorem putTile_lqs (s : State) (k : Nat) (t : Tile) : (s.putTile k t).lqs = s.lqs := rfl
@[simp] theorem putTile_tlb (s : State) (k : Nat) (t : Tile) : (s.putTile k t).tlb = s.tlb := rfl
@[simp] theorem putTile_lbuf (s : State) (k : Nat) (t : Tile) : (s.putTile k t).lbuf = s.lbuf := rfl
@[simp] theorem putTile_replicas (s : State) (k : Nat) (t : Tile) : (s.putTile k t).replicas = s.replicas := rfl
@[simp] theorem putTile_nodes (s : State) (k : Nat) (t : Tile) : (s.putTile k t).nodes = s.nodes := rfl
@[simp] theorem putTile_atoms (s : State) (k : Nat) (t : Tile) : (s.putTile k t).atoms = s.atoms := rfl
@[simp] theorem putTile_parks (s : State) (k : Nat) (t : Tile) : (s.putTile k t).parks = s.parks := rfl
@[simp] theorem putTile_migs (s : State) (k : Nat) (t : Tile) : (s.putTile k t).migs = s.migs := rfl
@[simp] theorem putTile_prgn (s : State) (k : Nat) (t : Tile) : (s.putTile k t).prgn = s.prgn := rfl
@[simp] theorem putTile_tuples (s : State) (k : Nat) (t : Tile) : (s.putTile k t).tuples = s.tuples := rfl
@[simp] theorem putTile_pmsgs (s : State) (k : Nat) (t : Tile) : (s.putTile k t).pmsgs = s.pmsgs := rfl
@[simp] theorem putTile_pparks (s : State) (k : Nat) (t : Tile) : (s.putTile k t).pparks = s.pparks := rfl
@[simp] theorem putTile_preplies (s : State) (k : Nat) (t : Tile) : (s.putTile k t).preplies = s.preplies := rfl
@[simp] theorem putTile_pages (s : State) (k : Nat) (t : Tile) : (s.putTile k t).pages = s.pages := rfl
@[simp] theorem putTile_dev (s : State) (k : Nat) (t : Tile) : (s.putTile k t).dev = s.dev := rfl
@[simp] theorem putTile_routes (s : State) (k : Nat) (t : Tile) : (s.putTile k t).routes = s.routes := rfl
@[simp] theorem putTile_mq (s : State) (k : Nat) (t : Tile) : (s.putTile k t).mq = s.mq := rfl
@[simp] theorem putTile_redirects (s : State) (k : Nat) (t : Tile) : (s.putTile k t).redirects = s.redirects := rfl
@[simp] theorem putTile_rt (s : State) (k : Nat) (t : Tile) : (s.putTile k t).rt = s.rt := rfl
@[simp] theorem putTile_rtFull (s : State) (k : Nat) (t : Tile) : (s.putTile k t).rtFull = s.rtFull := rfl
@[simp] theorem putTile_rtLate (s : State) (k : Nat) (t : Tile) : (s.putTile k t).rtLate = s.rtLate := rfl
@[simp] theorem putTile_meas (s : State) (k : Nat) (t : Tile) : (s.putTile k t).meas = s.meas := rfl
@[simp] theorem putTile_msix (s : State) (k : Nat) (t : Tile) : (s.putTile k t).msix = s.msix := rfl
@[simp] theorem putTile_pba (s : State) (k : Nat) (t : Tile) : (s.putTile k t).pba = s.pba := rfl
@[simp] theorem putTile_msgs (s : State) (k : Nat) (t : Tile) : (s.putTile k t).msgs = s.msgs := rfl
@[simp] theorem putTile_hostQ (s : State) (k : Nat) (t : Tile) : (s.putTile k t).hostQ = s.hostQ := rfl
@[simp] theorem putTile_hostReads (s : State) (k : Nat) (t : Tile) : (s.putTile k t).hostReads = s.hostReads := rfl
@[simp] theorem putTile_remotes (s : State) (k : Nat) (t : Tile) : (s.putTile k t).remotes = s.remotes := rfl
@[simp] theorem putTile_heldAt (s : State) (k : Nat) (t : Tile) : (s.putTile k t).heldAt = s.heldAt := rfl
@[simp] theorem putTile_linksDown (s : State) (k : Nat) (t : Tile) : (s.putTile k t).linksDown = s.linksDown := rfl
@[simp] theorem putTile_peerWaits (s : State) (k : Nat) (t : Tile) : (s.putTile k t).peerWaits = s.peerWaits := rfl
@[simp] theorem putTile_outbox (s : State) (k : Nat) (t : Tile) : (s.putTile k t).outbox = s.outbox := rfl
@[simp] theorem putTile_peerAnswers (s : State) (k : Nat) (t : Tile) : (s.putTile k t).peerAnswers = s.peerAnswers := rfl
@[simp] theorem putTile_phase (s : State) (k : Nat) (t : Tile) : (s.putTile k t).phase = s.phase := rfl
@[simp] theorem putTile_thermLimit (s : State) (k : Nat) (t : Tile) : (s.putTile k t).thermLimit = s.thermLimit := rfl

@[simp] theorem awake_agenda (s : State) : (awake s).agenda = s.agenda := rfl
@[simp] theorem awake_who (s : State) : (awake s).who = s.who := rfl
@[simp] theorem awake_cur (s : State) : (awake s).cur = s.cur := rfl
@[simp] theorem awake_elemOrder (s : State) : (awake s).elemOrder = s.elemOrder := rfl
@[simp] theorem awake_keep (s : State) : (awake s).keep = s.keep := rfl
@[simp] theorem awake_serial (s : State) : (awake s).serial = s.serial := rfl
@[simp] theorem awake_mem (s : State) : (awake s).mem = s.mem := rfl
@[simp] theorem awake_lines (s : State) : (awake s).lines = s.lines := rfl
@[simp] theorem awake_poison (s : State) : (awake s).poison = s.poison := rfl
@[simp] theorem awake_heat (s : State) : (awake s).heat = s.heat := rfl
@[simp] theorem awake_flips (s : State) : (awake s).flips = s.flips := rfl
@[simp] theorem awake_rows (s : State) : (awake s).rows = s.rows := rfl
@[simp] theorem awake_upsets (s : State) : (awake s).upsets = s.upsets := rfl
@[simp] theorem awake_badRows (s : State) : (awake s).badRows = s.badRows := rfl
@[simp] theorem awake_tileWords (s : State) : (awake s).tileWords = s.tileWords := rfl
@[simp] theorem awake_tiles (s : State) : (awake s).tiles = s.tiles := rfl
@[simp] theorem awake_ucode (s : State) : (awake s).ucode = s.ucode := rfl
@[simp] theorem awake_cores (s : State) : (awake s).cores = s.cores := rfl
@[simp] theorem awake_lcids (s : State) : (awake s).lcids = s.lcids := rfl
@[simp] theorem awake_bars (s : State) : (awake s).bars = s.bars := rfl
@[simp] theorem awake_gangs (s : State) : (awake s).gangs = s.gangs := rfl
@[simp] theorem awake_harts (s : State) : (awake s).harts = s.harts := rfl
@[simp] theorem awake_lqs (s : State) : (awake s).lqs = s.lqs := rfl
@[simp] theorem awake_tlb (s : State) : (awake s).tlb = s.tlb := rfl
@[simp] theorem awake_lbuf (s : State) : (awake s).lbuf = s.lbuf := rfl
@[simp] theorem awake_replicas (s : State) : (awake s).replicas = s.replicas := rfl
@[simp] theorem awake_nodes (s : State) : (awake s).nodes = s.nodes := rfl
@[simp] theorem awake_atoms (s : State) : (awake s).atoms = s.atoms := rfl
@[simp] theorem awake_parks (s : State) : (awake s).parks = s.parks := rfl
@[simp] theorem awake_migs (s : State) : (awake s).migs = s.migs := rfl
@[simp] theorem awake_prgn (s : State) : (awake s).prgn = s.prgn := rfl
@[simp] theorem awake_tuples (s : State) : (awake s).tuples = s.tuples := rfl
@[simp] theorem awake_pmsgs (s : State) : (awake s).pmsgs = s.pmsgs := rfl
@[simp] theorem awake_pparks (s : State) : (awake s).pparks = s.pparks := rfl
@[simp] theorem awake_preplies (s : State) : (awake s).preplies = s.preplies := rfl
@[simp] theorem awake_pages (s : State) : (awake s).pages = s.pages := rfl
@[simp] theorem awake_dev (s : State) : (awake s).dev = s.dev := rfl
@[simp] theorem awake_routes (s : State) : (awake s).routes = s.routes := rfl
@[simp] theorem awake_mq (s : State) : (awake s).mq = s.mq := rfl
@[simp] theorem awake_redirects (s : State) : (awake s).redirects = s.redirects := rfl
@[simp] theorem awake_rt (s : State) : (awake s).rt = s.rt := rfl
@[simp] theorem awake_rtFull (s : State) : (awake s).rtFull = s.rtFull := rfl
@[simp] theorem awake_rtLate (s : State) : (awake s).rtLate = s.rtLate := rfl
@[simp] theorem awake_meas (s : State) : (awake s).meas = s.meas := rfl
@[simp] theorem awake_msix (s : State) : (awake s).msix = s.msix := rfl
@[simp] theorem awake_pba (s : State) : (awake s).pba = s.pba := rfl
@[simp] theorem awake_msgs (s : State) : (awake s).msgs = s.msgs := rfl
@[simp] theorem awake_hostQ (s : State) : (awake s).hostQ = s.hostQ := rfl
@[simp] theorem awake_hostReads (s : State) : (awake s).hostReads = s.hostReads := rfl
@[simp] theorem awake_remotes (s : State) : (awake s).remotes = s.remotes := rfl
@[simp] theorem awake_heldAt (s : State) : (awake s).heldAt = s.heldAt := rfl
@[simp] theorem awake_linksDown (s : State) : (awake s).linksDown = s.linksDown := rfl
@[simp] theorem awake_peerWaits (s : State) : (awake s).peerWaits = s.peerWaits := rfl
@[simp] theorem awake_outbox (s : State) : (awake s).outbox = s.outbox := rfl
@[simp] theorem awake_peerAnswers (s : State) : (awake s).peerAnswers = s.peerAnswers := rfl
@[simp] theorem awake_phase (s : State) : (awake s).phase = s.phase := rfl
@[simp] theorem awake_thermLimit (s : State) : (awake s).thermLimit = s.thermLimit := rfl

@[simp] theorem dropAnswers_agenda (s : State) (id : Nat) : (s.dropAnswers id).agenda = s.agenda := rfl
@[simp] theorem dropAnswers_who (s : State) (id : Nat) : (s.dropAnswers id).who = s.who := rfl
@[simp] theorem dropAnswers_cur (s : State) (id : Nat) : (s.dropAnswers id).cur = s.cur := rfl
@[simp] theorem dropAnswers_elemOrder (s : State) (id : Nat) : (s.dropAnswers id).elemOrder = s.elemOrder := rfl
@[simp] theorem dropAnswers_keep (s : State) (id : Nat) : (s.dropAnswers id).keep = s.keep := rfl
@[simp] theorem dropAnswers_serial (s : State) (id : Nat) : (s.dropAnswers id).serial = s.serial := rfl
@[simp] theorem dropAnswers_mem (s : State) (id : Nat) : (s.dropAnswers id).mem = s.mem := rfl
@[simp] theorem dropAnswers_lines (s : State) (id : Nat) : (s.dropAnswers id).lines = s.lines := rfl
@[simp] theorem dropAnswers_poison (s : State) (id : Nat) : (s.dropAnswers id).poison = s.poison := rfl
@[simp] theorem dropAnswers_heat (s : State) (id : Nat) : (s.dropAnswers id).heat = s.heat := rfl
@[simp] theorem dropAnswers_flips (s : State) (id : Nat) : (s.dropAnswers id).flips = s.flips := rfl
@[simp] theorem dropAnswers_rows (s : State) (id : Nat) : (s.dropAnswers id).rows = s.rows := rfl
@[simp] theorem dropAnswers_upsets (s : State) (id : Nat) : (s.dropAnswers id).upsets = s.upsets := rfl
@[simp] theorem dropAnswers_badRows (s : State) (id : Nat) : (s.dropAnswers id).badRows = s.badRows := rfl
@[simp] theorem dropAnswers_tileWords (s : State) (id : Nat) : (s.dropAnswers id).tileWords = s.tileWords := rfl
@[simp] theorem dropAnswers_tiles (s : State) (id : Nat) : (s.dropAnswers id).tiles = s.tiles := rfl
@[simp] theorem dropAnswers_ucode (s : State) (id : Nat) : (s.dropAnswers id).ucode = s.ucode := rfl
@[simp] theorem dropAnswers_cores (s : State) (id : Nat) : (s.dropAnswers id).cores = s.cores := rfl
@[simp] theorem dropAnswers_lcids (s : State) (id : Nat) : (s.dropAnswers id).lcids = s.lcids := rfl
@[simp] theorem dropAnswers_bars (s : State) (id : Nat) : (s.dropAnswers id).bars = s.bars := rfl
@[simp] theorem dropAnswers_gangs (s : State) (id : Nat) : (s.dropAnswers id).gangs = s.gangs := rfl
@[simp] theorem dropAnswers_harts (s : State) (id : Nat) : (s.dropAnswers id).harts = s.harts := rfl
@[simp] theorem dropAnswers_lqs (s : State) (id : Nat) : (s.dropAnswers id).lqs = s.lqs := rfl
@[simp] theorem dropAnswers_tlb (s : State) (id : Nat) : (s.dropAnswers id).tlb = s.tlb := rfl
@[simp] theorem dropAnswers_lbuf (s : State) (id : Nat) : (s.dropAnswers id).lbuf = s.lbuf := rfl
@[simp] theorem dropAnswers_replicas (s : State) (id : Nat) : (s.dropAnswers id).replicas = s.replicas := rfl
@[simp] theorem dropAnswers_nodes (s : State) (id : Nat) : (s.dropAnswers id).nodes = s.nodes := rfl
@[simp] theorem dropAnswers_atoms (s : State) (id : Nat) : (s.dropAnswers id).atoms = s.atoms := rfl
@[simp] theorem dropAnswers_parks (s : State) (id : Nat) : (s.dropAnswers id).parks = s.parks := rfl
@[simp] theorem dropAnswers_migs (s : State) (id : Nat) : (s.dropAnswers id).migs = s.migs := rfl
@[simp] theorem dropAnswers_prgn (s : State) (id : Nat) : (s.dropAnswers id).prgn = s.prgn := rfl
@[simp] theorem dropAnswers_tuples (s : State) (id : Nat) : (s.dropAnswers id).tuples = s.tuples := rfl
@[simp] theorem dropAnswers_pmsgs (s : State) (id : Nat) : (s.dropAnswers id).pmsgs = s.pmsgs := rfl
@[simp] theorem dropAnswers_pparks (s : State) (id : Nat) : (s.dropAnswers id).pparks = s.pparks := rfl
@[simp] theorem dropAnswers_preplies (s : State) (id : Nat) : (s.dropAnswers id).preplies = s.preplies := rfl
@[simp] theorem dropAnswers_pages (s : State) (id : Nat) : (s.dropAnswers id).pages = s.pages := rfl
@[simp] theorem dropAnswers_dev (s : State) (id : Nat) : (s.dropAnswers id).dev = s.dev := rfl
@[simp] theorem dropAnswers_routes (s : State) (id : Nat) : (s.dropAnswers id).routes = s.routes := rfl
@[simp] theorem dropAnswers_mq (s : State) (id : Nat) : (s.dropAnswers id).mq = s.mq := rfl
@[simp] theorem dropAnswers_redirects (s : State) (id : Nat) : (s.dropAnswers id).redirects = s.redirects := rfl
@[simp] theorem dropAnswers_rt (s : State) (id : Nat) : (s.dropAnswers id).rt = s.rt := rfl
@[simp] theorem dropAnswers_rtFull (s : State) (id : Nat) : (s.dropAnswers id).rtFull = s.rtFull := rfl
@[simp] theorem dropAnswers_rtLate (s : State) (id : Nat) : (s.dropAnswers id).rtLate = s.rtLate := rfl
@[simp] theorem dropAnswers_meas (s : State) (id : Nat) : (s.dropAnswers id).meas = s.meas := rfl
@[simp] theorem dropAnswers_msix (s : State) (id : Nat) : (s.dropAnswers id).msix = s.msix := rfl
@[simp] theorem dropAnswers_pba (s : State) (id : Nat) : (s.dropAnswers id).pba = s.pba := rfl
@[simp] theorem dropAnswers_msgs (s : State) (id : Nat) : (s.dropAnswers id).msgs = s.msgs := rfl
@[simp] theorem dropAnswers_hostQ (s : State) (id : Nat) : (s.dropAnswers id).hostQ = s.hostQ := rfl
@[simp] theorem dropAnswers_hostReads (s : State) (id : Nat) : (s.dropAnswers id).hostReads = s.hostReads := rfl
@[simp] theorem dropAnswers_linksDown (s : State) (id : Nat) : (s.dropAnswers id).linksDown = s.linksDown := rfl
@[simp] theorem dropAnswers_peerWaits (s : State) (id : Nat) : (s.dropAnswers id).peerWaits = s.peerWaits := rfl
@[simp] theorem dropAnswers_outbox (s : State) (id : Nat) : (s.dropAnswers id).outbox = s.outbox := rfl
@[simp] theorem dropAnswers_peerAnswers (s : State) (id : Nat) : (s.dropAnswers id).peerAnswers = s.peerAnswers := rfl
@[simp] theorem dropAnswers_phase (s : State) (id : Nat) : (s.dropAnswers id).phase = s.phase := rfl
@[simp] theorem dropAnswers_thermLimit (s : State) (id : Nat) : (s.dropAnswers id).thermLimit = s.thermLimit := rfl

/-! ## Looking up after an update -/

@[simp] theorem putHart_coreAt (s : State) (id : Nat) (h : Hart) (n : Nat) : (s.putHart id h).coreAt n = s.coreAt n := rfl
@[simp] theorem putHart_lqAt (s : State) (id : Nat) (h : Hart) (n : Nat) : (s.putHart id h).lqAt n = s.lqAt n := rfl
@[simp] theorem putHart_gangAt (s : State) (id : Nat) (h : Hart) (n : Nat) : (s.putHart id h).gangAt n = s.gangAt n := rfl
@[simp] theorem putHart_launchAt (s : State) (id : Nat) (h : Hart) (n : Nat) : (s.putHart id h).launchAt n = s.launchAt n := rfl
@[simp] theorem putHart_lcidOf (s : State) (id : Nat) (h : Hart) (n : Nat) : (s.putHart id h).lcidOf n = s.lcidOf n := rfl
@[simp] theorem putHart_rowAt (s : State) (id : Nat) (h : Hart) (n : Nat) : (s.putHart id h).rowAt n = s.rowAt n := rfl
@[simp] theorem putHart_tileAt (s : State) (id : Nat) (h : Hart) (n : Nat) : (s.putHart id h).tileAt n = s.tileAt n := rfl
@[simp] theorem putHart_memByte (s : State) (id : Nat) (h : Hart) (x : Nat) : (s.putHart id h).memByte x = s.memByte x := by
  refine memByte_congr ?_ ?_ ?_ x <;> rfl

@[simp] theorem putCore_hartAt (s : State) (p : Nat) (c : Core) (n : Nat) : (s.putCore p c).hartAt n = s.hartAt n := rfl
@[simp] theorem putCore_lqAt (s : State) (p : Nat) (c : Core) (n : Nat) : (s.putCore p c).lqAt n = s.lqAt n := rfl
@[simp] theorem putCore_gangAt (s : State) (p : Nat) (c : Core) (n : Nat) : (s.putCore p c).gangAt n = s.gangAt n := rfl
@[simp] theorem putCore_launchAt (s : State) (p : Nat) (c : Core) (n : Nat) : (s.putCore p c).launchAt n = s.launchAt n := rfl
@[simp] theorem putCore_lcidOf (s : State) (p : Nat) (c : Core) (n : Nat) : (s.putCore p c).lcidOf n = s.lcidOf n := rfl
@[simp] theorem putCore_rowAt (s : State) (p : Nat) (c : Core) (n : Nat) : (s.putCore p c).rowAt n = s.rowAt n := rfl
@[simp] theorem putCore_tileAt (s : State) (p : Nat) (c : Core) (n : Nat) : (s.putCore p c).tileAt n = s.tileAt n := rfl
@[simp] theorem putCore_memByte (s : State) (p : Nat) (c : Core) (x : Nat) : (s.putCore p c).memByte x = s.memByte x := by
  refine memByte_congr ?_ ?_ ?_ x <;> rfl

@[simp] theorem putLq_hartAt (s : State) (q : Nat) (l : LQ) (n : Nat) : (s.putLq q l).hartAt n = s.hartAt n := rfl
@[simp] theorem putLq_coreAt (s : State) (q : Nat) (l : LQ) (n : Nat) : (s.putLq q l).coreAt n = s.coreAt n := rfl
@[simp] theorem putLq_gangAt (s : State) (q : Nat) (l : LQ) (n : Nat) : (s.putLq q l).gangAt n = s.gangAt n := rfl
@[simp] theorem putLq_lcidOf (s : State) (q : Nat) (l : LQ) (n : Nat) : (s.putLq q l).lcidOf n = s.lcidOf n := rfl
@[simp] theorem putLq_rowAt (s : State) (q : Nat) (l : LQ) (n : Nat) : (s.putLq q l).rowAt n = s.rowAt n := rfl
@[simp] theorem putLq_tileAt (s : State) (q : Nat) (l : LQ) (n : Nat) : (s.putLq q l).tileAt n = s.tileAt n := rfl
@[simp] theorem putLq_memByte (s : State) (q : Nat) (l : LQ) (x : Nat) : (s.putLq q l).memByte x = s.memByte x := by
  refine memByte_congr ?_ ?_ ?_ x <;> rfl

@[simp] theorem putGang_hartAt (s : State) (k : Nat) (g : Gang) (n : Nat) : (s.putGang k g).hartAt n = s.hartAt n := rfl
@[simp] theorem putGang_coreAt (s : State) (k : Nat) (g : Gang) (n : Nat) : (s.putGang k g).coreAt n = s.coreAt n := rfl
@[simp] theorem putGang_lqAt (s : State) (k : Nat) (g : Gang) (n : Nat) : (s.putGang k g).lqAt n = s.lqAt n := rfl
@[simp] theorem putGang_launchAt (s : State) (k : Nat) (g : Gang) (n : Nat) : (s.putGang k g).launchAt n = s.launchAt n := rfl
@[simp] theorem putGang_lcidOf (s : State) (k : Nat) (g : Gang) (n : Nat) : (s.putGang k g).lcidOf n = s.lcidOf n := rfl
@[simp] theorem putGang_rowAt (s : State) (k : Nat) (g : Gang) (n : Nat) : (s.putGang k g).rowAt n = s.rowAt n := rfl
@[simp] theorem putGang_tileAt (s : State) (k : Nat) (g : Gang) (n : Nat) : (s.putGang k g).tileAt n = s.tileAt n := rfl
@[simp] theorem putGang_memByte (s : State) (k : Nat) (g : Gang) (x : Nat) : (s.putGang k g).memByte x = s.memByte x := by
  refine memByte_congr ?_ ?_ ?_ x <;> rfl

@[simp] theorem putRow_hartAt (s : State) (k : Nat) (r : Row) (n : Nat) : (s.putRow k r).hartAt n = s.hartAt n := rfl
@[simp] theorem putRow_coreAt (s : State) (k : Nat) (r : Row) (n : Nat) : (s.putRow k r).coreAt n = s.coreAt n := rfl
@[simp] theorem putRow_lqAt (s : State) (k : Nat) (r : Row) (n : Nat) : (s.putRow k r).lqAt n = s.lqAt n := rfl
@[simp] theorem putRow_gangAt (s : State) (k : Nat) (r : Row) (n : Nat) : (s.putRow k r).gangAt n = s.gangAt n := rfl
@[simp] theorem putRow_launchAt (s : State) (k : Nat) (r : Row) (n : Nat) : (s.putRow k r).launchAt n = s.launchAt n := rfl
@[simp] theorem putRow_lcidOf (s : State) (k : Nat) (r : Row) (n : Nat) : (s.putRow k r).lcidOf n = s.lcidOf n := rfl
@[simp] theorem putRow_tileAt (s : State) (k : Nat) (r : Row) (n : Nat) : (s.putRow k r).tileAt n = s.tileAt n := rfl
@[simp] theorem putRow_memByte (s : State) (k : Nat) (r : Row) (x : Nat) : (s.putRow k r).memByte x = s.memByte x := by
  refine memByte_congr ?_ ?_ ?_ x <;> rfl

@[simp] theorem putTile_hartAt (s : State) (k : Nat) (t : Tile) (n : Nat) : (s.putTile k t).hartAt n = s.hartAt n := rfl
@[simp] theorem putTile_coreAt (s : State) (k : Nat) (t : Tile) (n : Nat) : (s.putTile k t).coreAt n = s.coreAt n := rfl
@[simp] theorem putTile_lqAt (s : State) (k : Nat) (t : Tile) (n : Nat) : (s.putTile k t).lqAt n = s.lqAt n := rfl
@[simp] theorem putTile_gangAt (s : State) (k : Nat) (t : Tile) (n : Nat) : (s.putTile k t).gangAt n = s.gangAt n := rfl
@[simp] theorem putTile_launchAt (s : State) (k : Nat) (t : Tile) (n : Nat) : (s.putTile k t).launchAt n = s.launchAt n := rfl
@[simp] theorem putTile_lcidOf (s : State) (k : Nat) (t : Tile) (n : Nat) : (s.putTile k t).lcidOf n = s.lcidOf n := rfl
@[simp] theorem putTile_rowAt (s : State) (k : Nat) (t : Tile) (n : Nat) : (s.putTile k t).rowAt n = s.rowAt n := rfl
@[simp] theorem putTile_memByte (s : State) (k : Nat) (t : Tile) (x : Nat) : (s.putTile k t).memByte x = s.memByte x := by
  refine memByte_congr ?_ ?_ ?_ x <;> rfl

@[simp] theorem awake_hartAt (s : State) (n : Nat) : (awake s).hartAt n = s.hartAt n := rfl
@[simp] theorem awake_coreAt (s : State) (n : Nat) : (awake s).coreAt n = s.coreAt n := rfl
@[simp] theorem awake_lqAt (s : State) (n : Nat) : (awake s).lqAt n = s.lqAt n := rfl
@[simp] theorem awake_gangAt (s : State) (n : Nat) : (awake s).gangAt n = s.gangAt n := rfl
@[simp] theorem awake_launchAt (s : State) (n : Nat) : (awake s).launchAt n = s.launchAt n := rfl
@[simp] theorem awake_lcidOf (s : State) (n : Nat) : (awake s).lcidOf n = s.lcidOf n := rfl
@[simp] theorem awake_rowAt (s : State) (n : Nat) : (awake s).rowAt n = s.rowAt n := rfl
@[simp] theorem awake_tileAt (s : State) (n : Nat) : (awake s).tileAt n = s.tileAt n := rfl
@[simp] theorem awake_memByte (s : State) (x : Nat) : (awake s).memByte x = s.memByte x := by
  refine memByte_congr ?_ ?_ ?_ x <;> rfl

@[simp] theorem dropAnswers_hartAt (s : State) (id : Nat) (n : Nat) : (s.dropAnswers id).hartAt n = s.hartAt n := rfl
@[simp] theorem dropAnswers_coreAt (s : State) (id : Nat) (n : Nat) : (s.dropAnswers id).coreAt n = s.coreAt n := rfl
@[simp] theorem dropAnswers_lqAt (s : State) (id : Nat) (n : Nat) : (s.dropAnswers id).lqAt n = s.lqAt n := rfl
@[simp] theorem dropAnswers_gangAt (s : State) (id : Nat) (n : Nat) : (s.dropAnswers id).gangAt n = s.gangAt n := rfl
@[simp] theorem dropAnswers_launchAt (s : State) (id : Nat) (n : Nat) : (s.dropAnswers id).launchAt n = s.launchAt n := rfl
@[simp] theorem dropAnswers_lcidOf (s : State) (id : Nat) (n : Nat) : (s.dropAnswers id).lcidOf n = s.lcidOf n := rfl
@[simp] theorem dropAnswers_rowAt (s : State) (id : Nat) (n : Nat) : (s.dropAnswers id).rowAt n = s.rowAt n := rfl
@[simp] theorem dropAnswers_tileAt (s : State) (id : Nat) (n : Nat) : (s.dropAnswers id).tileAt n = s.tileAt n := rfl
@[simp] theorem dropAnswers_memByte (s : State) (id : Nat) (x : Nat) : (s.dropAnswers id).memByte x = s.memByte x := by
  refine memByte_congr ?_ ?_ ?_ x <;> rfl

theorem hartAt_putHart (s : State) (id n : Nat) (h : Hart) :
    (s.putHart id h).hartAt n = if n = id then some h else s.hartAt n := find_put s.harts id n h

@[simp] theorem hartAt_putHart_same (s : State) (id : Nat) (h : Hart) : (s.putHart id h).hartAt id = some h :=
  find_put_same s.harts id h

theorem gangAt_putGang (s : State) (k n : Nat) (g : Gang) :
    (s.putGang k g).gangAt n = if n = k then some g else s.gangAt n := find_put s.gangs k n g

@[simp] theorem gangAt_putGang_same (s : State) (k : Nat) (g : Gang) : (s.putGang k g).gangAt k = some g :=
  find_put_same s.gangs k g

theorem coreAt_putCore (s : State) (p n : Nat) (c : Core) :
    (s.putCore p c).coreAt n = if n = p then c else s.coreAt n := getD_setD s.cores p n Core.fresh c

@[simp] theorem coreAt_putCore_same (s : State) (p : Nat) (c : Core) : (s.putCore p c).coreAt p = c :=
  getD_setD_same s.cores p Core.fresh c

theorem lqAt_putLq (s : State) (q n : Nat) (l : LQ) :
    (s.putLq q l).lqAt n = if n = q then l else s.lqAt n := getD_setD s.lqs q n LQ.reset l

@[simp] theorem lqAt_putLq_same (s : State) (q : Nat) (l : LQ) : (s.putLq q l).lqAt q = l :=
  getD_setD_same s.lqs q LQ.reset l

theorem launchAt_putLaunch (s : State) (q n : Nat) (l : Option Launch) :
    (s.putLaunch q l).launchAt n = if n = q then l else s.launchAt n := by
  unfold State.launchAt State.putLaunch
  rw [lqAt_putLq]
  split <;> rfl

theorem rowAt_putRow (s : State) (k n : Nat) (r : Row) :
    (s.putRow k r).rowAt n = if n = k then r else s.rowAt n := getD_setD s.rows k n Row.clear r

@[simp] theorem rowAt_putRow_same (s : State) (k : Nat) (r : Row) : (s.putRow k r).rowAt k = r :=
  getD_setD_same s.rows k Row.clear r

theorem tileAt_putTile (s : State) (k n : Nat) (t : Tile) :
    (s.putTile k t).tileAt n = if n = k then t else s.tileAt n := getD_setD s.tiles k n Tile.free t

/-- The LCIDs after an exchange (R29). -/
theorem lcidOf_swapLcids (s : State) (p q n : Nat) :
    (s.swapLcids p q).lcidOf n = if n = q then s.lcidOf p else if n = p then s.lcidOf q else s.lcidOf n := by
  show SMap.getD (SMap.setD (SMap.setD s.lcids p p (s.lcidOf q)) q q (s.lcidOf p)) n n = _
  split
  · subst_vars
    exact getD_setD_same _ _ _ _
  · unfold SMap.getD
    rw [find_setD_other _ _ _ (by assumption)]
    split
    · subst_vars
      exact getD_setD_same s.lcids n n _
    · rw [find_setD_other _ _ _ (by assumption)]
      rfl

/-! ## Updates of a hart -/

@[simp] theorem setReg_queue (h : Hart) (r : Reg) (v : W64) : (h.setReg r v).queue = h.queue := by
  unfold Hart.setReg; split <;> rfl
@[simp] theorem setReg_hartid (h : Hart) (r : Reg) (v : W64) : (h.setReg r v).hartid = h.hartid := by
  unfold Hart.setReg; split <;> rfl
@[simp] theorem setReg_gang (h : Hart) (r : Reg) (v : W64) : (h.setReg r v).gang = h.gang := by
  unfold Hart.setReg; split <;> rfl
@[simp] theorem setReg_slot (h : Hart) (r : Reg) (v : W64) : (h.setReg r v).slot = h.slot := by
  unfold Hart.setReg; split <;> rfl
@[simp] theorem setReg_iter (h : Hart) (r : Reg) (v : W64) : (h.setReg r v).iter = h.iter := by
  unfold Hart.setReg; split <;> rfl
@[simp] theorem setReg_poisonVal (h : Hart) (r : Reg) (v : W64) : (h.setReg r v).poisonVal = h.poisonVal := by
  unfold Hart.setReg; split <;> rfl
@[simp] theorem setReg_pc (h : Hart) (r : Reg) (v : W64) : (h.setReg r v).pc = h.pc := by
  unfold Hart.setReg; split <;> rfl
@[simp] theorem setReg_ci (h : Hart) (r : Reg) (v : W64) : (h.setReg r v).ci = h.ci := by
  unfold Hart.setReg; split <;> rfl
@[simp] theorem setReg_entry (h : Hart) (r : Reg) (v : W64) : (h.setReg r v).entry = h.entry := by
  unfold Hart.setReg; split <;> rfl
@[simp] theorem setReg_view (h : Hart) (r : Reg) (v : W64) : (h.setReg r v).view = h.view := by
  unfold Hart.setReg; split <;> rfl
@[simp] theorem setReg_vl (h : Hart) (r : Reg) (v : W64) : (h.setReg r v).vl = h.vl := by
  unfold Hart.setReg; split <;> rfl
@[simp] theorem setReg_vstart (h : Hart) (r : Reg) (v : W64) : (h.setReg r v).vstart = h.vstart := by
  unfold Hart.setReg; split <;> rfl
@[simp] theorem setReg_rows (h : Hart) (r : Reg) (v : W64) : (h.setReg r v).rows = h.rows := by
  unfold Hart.setReg; split <;> rfl
@[simp] theorem setReg_fst (h : Hart) (r : Reg) (v : W64) : (h.setReg r v).fst = h.fst := by
  unfold Hart.setReg; split <;> rfl
@[simp] theorem setReg_frm (h : Hart) (r : Reg) (v : W64) : (h.setReg r v).frm = h.frm := by
  unfold Hart.setReg; split <;> rfl
@[simp] theorem setReg_vstat (h : Hart) (r : Reg) (v : W64) : (h.setReg r v).vstat = h.vstat := by
  unfold Hart.setReg; split <;> rfl
@[simp] theorem setReg_lb0 (h : Hart) (r : Reg) (v : W64) : (h.setReg r v).lb0 = h.lb0 := by
  unfold Hart.setReg; split <;> rfl
@[simp] theorem setReg_le0 (h : Hart) (r : Reg) (v : W64) : (h.setReg r v).le0 = h.le0 := by
  unfold Hart.setReg; split <;> rfl
@[simp] theorem setReg_lc0 (h : Hart) (r : Reg) (v : W64) : (h.setReg r v).lc0 = h.lc0 := by
  unfold Hart.setReg; split <;> rfl
@[simp] theorem setReg_lb1 (h : Hart) (r : Reg) (v : W64) : (h.setReg r v).lb1 = h.lb1 := by
  unfold Hart.setReg; split <;> rfl
@[simp] theorem setReg_le1 (h : Hart) (r : Reg) (v : W64) : (h.setReg r v).le1 = h.le1 := by
  unfold Hart.setReg; split <;> rfl
@[simp] theorem setReg_lc1 (h : Hart) (r : Reg) (v : W64) : (h.setReg r v).lc1 = h.lc1 := by
  unfold Hart.setReg; split <;> rfl
@[simp] theorem setReg_uh (h : Hart) (r : Reg) (v : W64) : (h.setReg r v).uh = h.uh := by
  unfold Hart.setReg; split <;> rfl
@[simp] theorem setReg_tcode (h : Hart) (r : Reg) (v : W64) : (h.setReg r v).tcode = h.tcode := by
  unfold Hart.setReg; split <;> rfl
@[simp] theorem setReg_tpc (h : Hart) (r : Reg) (v : W64) : (h.setReg r v).tpc = h.tpc := by
  unfold Hart.setReg; split <;> rfl
@[simp] theorem setReg_tci (h : Hart) (r : Reg) (v : W64) : (h.setReg r v).tci = h.tci := by
  unfold Hart.setReg; split <;> rfl
@[simp] theorem setReg_tval (h : Hart) (r : Reg) (v : W64) : (h.setReg r v).tval = h.tval := by
  unfold Hart.setReg; split <;> rfl
@[simp] theorem setReg_uhpc (h : Hart) (r : Reg) (v : W64) : (h.setReg r v).uhpc = h.uhpc := by
  unfold Hart.setReg; split <;> rfl
@[simp] theorem setReg_uwatch (h : Hart) (r : Reg) (v : W64) : (h.setReg r v).uwatch = h.uwatch := by
  unfold Hart.setReg; split <;> rfl
@[simp] theorem setReg_ph (h : Hart) (r : Reg) (v : W64) : (h.setReg r v).ph = h.ph := by
  unfold Hart.setReg; split <;> rfl
@[simp] theorem setReg_ppv (h : Hart) (r : Reg) (v : W64) : (h.setReg r v).ppv = h.ppv := by
  unfold Hart.setReg; split <;> rfl
@[simp] theorem setReg_ptcode (h : Hart) (r : Reg) (v : W64) : (h.setReg r v).ptcode = h.ptcode := by
  unfold Hart.setReg; split <;> rfl
@[simp] theorem setReg_ptpc (h : Hart) (r : Reg) (v : W64) : (h.setReg r v).ptpc = h.ptpc := by
  unfold Hart.setReg; split <;> rfl
@[simp] theorem setReg_ptci (h : Hart) (r : Reg) (v : W64) : (h.setReg r v).ptci = h.ptci := by
  unfold Hart.setReg; split <;> rfl
@[simp] theorem setReg_ptval (h : Hart) (r : Reg) (v : W64) : (h.setReg r v).ptval = h.ptval := by
  unfold Hart.setReg; split <;> rfl
@[simp] theorem setReg_tvec (h : Hart) (r : Reg) (v : W64) : (h.setReg r v).tvec = h.tvec := by
  unfold Hart.setReg; split <;> rfl
@[simp] theorem setReg_la (h : Hart) (r : Reg) (v : W64) : (h.setReg r v).la = h.la := by
  unfold Hart.setReg; split <;> rfl
@[simp] theorem setReg_det (h : Hart) (r : Reg) (v : W64) : (h.setReg r v).det = h.det := by
  unfold Hart.setReg; split <;> rfl
@[simp] theorem setReg_detq (h : Hart) (r : Reg) (v : W64) : (h.setReg r v).detq = h.detq := by
  unfold Hart.setReg; split <;> rfl
@[simp] theorem setReg_prof (h : Hart) (r : Reg) (v : W64) : (h.setReg r v).prof = h.prof := by
  unfold Hart.setReg; split <;> rfl
@[simp] theorem setReg_skew (h : Hart) (r : Reg) (v : W64) : (h.setReg r v).skew = h.skew := by
  unfold Hart.setReg; split <;> rfl
@[simp] theorem setReg_droop (h : Hart) (r : Reg) (v : W64) : (h.setReg r v).droop = h.droop := by
  unfold Hart.setReg; split <;> rfl
@[simp] theorem setReg_ctxbase (h : Hart) (r : Reg) (v : W64) : (h.setReg r v).ctxbase = h.ctxbase := by
  unfold Hart.setReg; split <;> rfl
@[simp] theorem setReg_xctl (h : Hart) (r : Reg) (v : W64) : (h.setReg r v).xctl = h.xctl := by
  unfold Hart.setReg; split <;> rfl
@[simp] theorem setReg_gangid (h : Hart) (r : Reg) (v : W64) : (h.setReg r v).gangid = h.gangid := by
  unfold Hart.setReg; split <;> rfl
@[simp] theorem setReg_adesc (h : Hart) (r : Reg) (v : W64) : (h.setReg r v).adesc = h.adesc := by
  unfold Hart.setReg; split <;> rfl
@[simp] theorem setReg_conv (h : Hart) (r : Reg) (v : W64) : (h.setReg r v).conv = h.conv := by
  unfold Hart.setReg; split <;> rfl
@[simp] theorem setReg_waiting (h : Hart) (r : Reg) (v : W64) : (h.setReg r v).waiting = h.waiting := by
  unfold Hart.setReg; split <;> rfl
@[simp] theorem setReg_done (h : Hart) (r : Reg) (v : W64) : (h.setReg r v).done = h.done := by
  unfold Hart.setReg; split <;> rfl
@[simp] theorem setReg_taken (h : Hart) (r : Reg) (v : W64) : (h.setReg r v).taken = h.taken := by
  unfold Hart.setReg; split <;> rfl
@[simp] theorem setReg_sent (h : Hart) (r : Reg) (v : W64) : (h.setReg r v).sent = h.sent := by
  unfold Hart.setReg; split <;> rfl
@[simp] theorem setReg_lost (h : Hart) (r : Reg) (v : W64) : (h.setReg r v).lost = h.lost := by
  unfold Hart.setReg; split <;> rfl
@[simp] theorem setReg_fills (h : Hart) (r : Reg) (v : W64) : (h.setReg r v).fills = h.fills := by
  unfold Hart.setReg; split <;> rfl
@[simp] theorem setReg_vfills (h : Hart) (r : Reg) (v : W64) : (h.setReg r v).vfills = h.vfills := by
  unfold Hart.setReg; split <;> rfl
@[simp] theorem setReg_drain (h : Hart) (r : Reg) (v : W64) : (h.setReg r v).drain = h.drain := by
  unfold Hart.setReg; split <;> rfl
@[simp] theorem setReg_mflags (h : Hart) (r : Reg) (v : W64) : (h.setReg r v).mflags = h.mflags := by
  unfold Hart.setReg; split <;> rfl
@[simp] theorem setReg_pwatch (h : Hart) (r : Reg) (v : W64) : (h.setReg r v).pwatch = h.pwatch := by
  unfold Hart.setReg; split <;> rfl
@[simp] theorem setReg_pwatchPc (h : Hart) (r : Reg) (v : W64) : (h.setReg r v).pwatchPc = h.pwatchPc := by
  unfold Hart.setReg; split <;> rfl
@[simp] theorem setReg_buf (h : Hart) (r : Reg) (v : W64) : (h.setReg r v).buf = h.buf := by
  unfold Hart.setReg; split <;> rfl
@[simp] theorem setReg_bufLines (h : Hart) (r : Reg) (v : W64) : (h.setReg r v).bufLines = h.bufLines := by
  unfold Hart.setReg; split <;> rfl
@[simp] theorem setReg_bufTouch (h : Hart) (r : Reg) (v : W64) : (h.setReg r v).bufTouch = h.bufTouch := by
  unfold Hart.setReg; split <;> rfl
@[simp] theorem setReg_qcount (h : Hart) (r : Reg) (v : W64) : (h.setReg r v).qcount = h.qcount := by
  unfold Hart.setReg; split <;> rfl
@[simp] theorem setReg_qlim (h : Hart) (r : Reg) (v : W64) : (h.setReg r v).qlim = h.qlim := by
  unfold Hart.setReg; split <;> rfl
@[simp] theorem setReg_qend (h : Hart) (r : Reg) (v : W64) : (h.setReg r v).qend = h.qend := by
  unfold Hart.setReg; split <;> rfl
@[simp] theorem setReg_blocked (h : Hart) (r : Reg) (v : W64) : (h.setReg r v).blocked = h.blocked := by
  unfold Hart.setReg; split <;> rfl
@[simp] theorem setReg_go (h : Hart) (r : Reg) (v : W64) : (h.setReg r v).go = h.go := by
  unfold Hart.setReg; split <;> rfl
@[simp] theorem setReg_preqs (h : Hart) (r : Reg) (v : W64) : (h.setReg r v).preqs = h.preqs := by
  unfold Hart.setReg; split <;> rfl
@[simp] theorem setReg_cwait (h : Hart) (r : Reg) (v : W64) : (h.setReg r v).cwait = h.cwait := by
  unfold Hart.setReg; split <;> rfl
@[simp] theorem setReg_barrier (h : Hart) (r : Reg) (v : W64) : (h.setReg r v).barrier = h.barrier := by
  unfold Hart.setReg; split <;> rfl
@[simp] theorem setReg_released (h : Hart) (r : Reg) (v : W64) : (h.setReg r v).released = h.released := by
  unfold Hart.setReg; split <;> rfl
@[simp] theorem setReg_waitLeft (h : Hart) (r : Reg) (v : W64) : (h.setReg r v).waitLeft = h.waitLeft := by
  unfold Hart.setReg; split <;> rfl
@[simp] theorem setReg_skips (h : Hart) (r : Reg) (v : W64) : (h.setReg r v).skips = h.skips := by
  unfold Hart.setReg; split <;> rfl
@[simp] theorem setReg_age (h : Hart) (r : Reg) (v : W64) : (h.setReg r v).age = h.age := by
  unfold Hart.setReg; split <;> rfl
@[simp] theorem setReg_yielded (h : Hart) (r : Reg) (v : W64) : (h.setReg r v).yielded = h.yielded := by
  unfold Hart.setReg; split <;> rfl

@[simp] theorem empty_queue (h : Hart) (r : Reg) : (h.empty r).queue = h.queue := by
  unfold Hart.empty; split <;> rfl
@[simp] theorem empty_hartid (h : Hart) (r : Reg) : (h.empty r).hartid = h.hartid := by
  unfold Hart.empty; split <;> rfl
@[simp] theorem empty_gang (h : Hart) (r : Reg) : (h.empty r).gang = h.gang := by
  unfold Hart.empty; split <;> rfl
@[simp] theorem empty_slot (h : Hart) (r : Reg) : (h.empty r).slot = h.slot := by
  unfold Hart.empty; split <;> rfl
@[simp] theorem empty_iter (h : Hart) (r : Reg) : (h.empty r).iter = h.iter := by
  unfold Hart.empty; split <;> rfl
@[simp] theorem empty_regs (h : Hart) (r : Reg) : (h.empty r).regs = h.regs := by
  unfold Hart.empty; split <;> rfl
@[simp] theorem empty_poisonVal (h : Hart) (r : Reg) : (h.empty r).poisonVal = h.poisonVal := by
  unfold Hart.empty; split <;> rfl
@[simp] theorem empty_pc (h : Hart) (r : Reg) : (h.empty r).pc = h.pc := by
  unfold Hart.empty; split <;> rfl
@[simp] theorem empty_ci (h : Hart) (r : Reg) : (h.empty r).ci = h.ci := by
  unfold Hart.empty; split <;> rfl
@[simp] theorem empty_entry (h : Hart) (r : Reg) : (h.empty r).entry = h.entry := by
  unfold Hart.empty; split <;> rfl
@[simp] theorem empty_view (h : Hart) (r : Reg) : (h.empty r).view = h.view := by
  unfold Hart.empty; split <;> rfl
@[simp] theorem empty_vl (h : Hart) (r : Reg) : (h.empty r).vl = h.vl := by
  unfold Hart.empty; split <;> rfl
@[simp] theorem empty_vstart (h : Hart) (r : Reg) : (h.empty r).vstart = h.vstart := by
  unfold Hart.empty; split <;> rfl
@[simp] theorem empty_rows (h : Hart) (r : Reg) : (h.empty r).rows = h.rows := by
  unfold Hart.empty; split <;> rfl
@[simp] theorem empty_fst (h : Hart) (r : Reg) : (h.empty r).fst = h.fst := by
  unfold Hart.empty; split <;> rfl
@[simp] theorem empty_frm (h : Hart) (r : Reg) : (h.empty r).frm = h.frm := by
  unfold Hart.empty; split <;> rfl
@[simp] theorem empty_vstat (h : Hart) (r : Reg) : (h.empty r).vstat = h.vstat := by
  unfold Hart.empty; split <;> rfl
@[simp] theorem empty_lb0 (h : Hart) (r : Reg) : (h.empty r).lb0 = h.lb0 := by
  unfold Hart.empty; split <;> rfl
@[simp] theorem empty_le0 (h : Hart) (r : Reg) : (h.empty r).le0 = h.le0 := by
  unfold Hart.empty; split <;> rfl
@[simp] theorem empty_lc0 (h : Hart) (r : Reg) : (h.empty r).lc0 = h.lc0 := by
  unfold Hart.empty; split <;> rfl
@[simp] theorem empty_lb1 (h : Hart) (r : Reg) : (h.empty r).lb1 = h.lb1 := by
  unfold Hart.empty; split <;> rfl
@[simp] theorem empty_le1 (h : Hart) (r : Reg) : (h.empty r).le1 = h.le1 := by
  unfold Hart.empty; split <;> rfl
@[simp] theorem empty_lc1 (h : Hart) (r : Reg) : (h.empty r).lc1 = h.lc1 := by
  unfold Hart.empty; split <;> rfl
@[simp] theorem empty_uh (h : Hart) (r : Reg) : (h.empty r).uh = h.uh := by
  unfold Hart.empty; split <;> rfl
@[simp] theorem empty_tcode (h : Hart) (r : Reg) : (h.empty r).tcode = h.tcode := by
  unfold Hart.empty; split <;> rfl
@[simp] theorem empty_tpc (h : Hart) (r : Reg) : (h.empty r).tpc = h.tpc := by
  unfold Hart.empty; split <;> rfl
@[simp] theorem empty_tci (h : Hart) (r : Reg) : (h.empty r).tci = h.tci := by
  unfold Hart.empty; split <;> rfl
@[simp] theorem empty_tval (h : Hart) (r : Reg) : (h.empty r).tval = h.tval := by
  unfold Hart.empty; split <;> rfl
@[simp] theorem empty_uhpc (h : Hart) (r : Reg) : (h.empty r).uhpc = h.uhpc := by
  unfold Hart.empty; split <;> rfl
@[simp] theorem empty_uwatch (h : Hart) (r : Reg) : (h.empty r).uwatch = h.uwatch := by
  unfold Hart.empty; split <;> rfl
@[simp] theorem empty_ph (h : Hart) (r : Reg) : (h.empty r).ph = h.ph := by
  unfold Hart.empty; split <;> rfl
@[simp] theorem empty_ppv (h : Hart) (r : Reg) : (h.empty r).ppv = h.ppv := by
  unfold Hart.empty; split <;> rfl
@[simp] theorem empty_ptcode (h : Hart) (r : Reg) : (h.empty r).ptcode = h.ptcode := by
  unfold Hart.empty; split <;> rfl
@[simp] theorem empty_ptpc (h : Hart) (r : Reg) : (h.empty r).ptpc = h.ptpc := by
  unfold Hart.empty; split <;> rfl
@[simp] theorem empty_ptci (h : Hart) (r : Reg) : (h.empty r).ptci = h.ptci := by
  unfold Hart.empty; split <;> rfl
@[simp] theorem empty_ptval (h : Hart) (r : Reg) : (h.empty r).ptval = h.ptval := by
  unfold Hart.empty; split <;> rfl
@[simp] theorem empty_tvec (h : Hart) (r : Reg) : (h.empty r).tvec = h.tvec := by
  unfold Hart.empty; split <;> rfl
@[simp] theorem empty_la (h : Hart) (r : Reg) : (h.empty r).la = h.la := by
  unfold Hart.empty; split <;> rfl
@[simp] theorem empty_det (h : Hart) (r : Reg) : (h.empty r).det = h.det := by
  unfold Hart.empty; split <;> rfl
@[simp] theorem empty_detq (h : Hart) (r : Reg) : (h.empty r).detq = h.detq := by
  unfold Hart.empty; split <;> rfl
@[simp] theorem empty_prof (h : Hart) (r : Reg) : (h.empty r).prof = h.prof := by
  unfold Hart.empty; split <;> rfl
@[simp] theorem empty_skew (h : Hart) (r : Reg) : (h.empty r).skew = h.skew := by
  unfold Hart.empty; split <;> rfl
@[simp] theorem empty_droop (h : Hart) (r : Reg) : (h.empty r).droop = h.droop := by
  unfold Hart.empty; split <;> rfl
@[simp] theorem empty_ctxbase (h : Hart) (r : Reg) : (h.empty r).ctxbase = h.ctxbase := by
  unfold Hart.empty; split <;> rfl
@[simp] theorem empty_xctl (h : Hart) (r : Reg) : (h.empty r).xctl = h.xctl := by
  unfold Hart.empty; split <;> rfl
@[simp] theorem empty_gangid (h : Hart) (r : Reg) : (h.empty r).gangid = h.gangid := by
  unfold Hart.empty; split <;> rfl
@[simp] theorem empty_adesc (h : Hart) (r : Reg) : (h.empty r).adesc = h.adesc := by
  unfold Hart.empty; split <;> rfl
@[simp] theorem empty_conv (h : Hart) (r : Reg) : (h.empty r).conv = h.conv := by
  unfold Hart.empty; split <;> rfl
@[simp] theorem empty_waiting (h : Hart) (r : Reg) : (h.empty r).waiting = h.waiting := by
  unfold Hart.empty; split <;> rfl
@[simp] theorem empty_done (h : Hart) (r : Reg) : (h.empty r).done = h.done := by
  unfold Hart.empty; split <;> rfl
@[simp] theorem empty_taken (h : Hart) (r : Reg) : (h.empty r).taken = h.taken := by
  unfold Hart.empty; split <;> rfl
@[simp] theorem empty_sent (h : Hart) (r : Reg) : (h.empty r).sent = h.sent := by
  unfold Hart.empty; split <;> rfl
@[simp] theorem empty_lost (h : Hart) (r : Reg) : (h.empty r).lost = h.lost := by
  unfold Hart.empty; split <;> rfl
@[simp] theorem empty_fills (h : Hart) (r : Reg) : (h.empty r).fills = h.fills := by
  unfold Hart.empty; split <;> rfl
@[simp] theorem empty_vfills (h : Hart) (r : Reg) : (h.empty r).vfills = h.vfills := by
  unfold Hart.empty; split <;> rfl
@[simp] theorem empty_drain (h : Hart) (r : Reg) : (h.empty r).drain = h.drain := by
  unfold Hart.empty; split <;> rfl
@[simp] theorem empty_mflags (h : Hart) (r : Reg) : (h.empty r).mflags = h.mflags := by
  unfold Hart.empty; split <;> rfl
@[simp] theorem empty_pwatch (h : Hart) (r : Reg) : (h.empty r).pwatch = h.pwatch := by
  unfold Hart.empty; split <;> rfl
@[simp] theorem empty_pwatchPc (h : Hart) (r : Reg) : (h.empty r).pwatchPc = h.pwatchPc := by
  unfold Hart.empty; split <;> rfl
@[simp] theorem empty_buf (h : Hart) (r : Reg) : (h.empty r).buf = h.buf := by
  unfold Hart.empty; split <;> rfl
@[simp] theorem empty_bufLines (h : Hart) (r : Reg) : (h.empty r).bufLines = h.bufLines := by
  unfold Hart.empty; split <;> rfl
@[simp] theorem empty_bufTouch (h : Hart) (r : Reg) : (h.empty r).bufTouch = h.bufTouch := by
  unfold Hart.empty; split <;> rfl
@[simp] theorem empty_qcount (h : Hart) (r : Reg) : (h.empty r).qcount = h.qcount := by
  unfold Hart.empty; split <;> rfl
@[simp] theorem empty_qlim (h : Hart) (r : Reg) : (h.empty r).qlim = h.qlim := by
  unfold Hart.empty; split <;> rfl
@[simp] theorem empty_qend (h : Hart) (r : Reg) : (h.empty r).qend = h.qend := by
  unfold Hart.empty; split <;> rfl
@[simp] theorem empty_blocked (h : Hart) (r : Reg) : (h.empty r).blocked = h.blocked := by
  unfold Hart.empty; split <;> rfl
@[simp] theorem empty_go (h : Hart) (r : Reg) : (h.empty r).go = h.go := by
  unfold Hart.empty; split <;> rfl
@[simp] theorem empty_preqs (h : Hart) (r : Reg) : (h.empty r).preqs = h.preqs := by
  unfold Hart.empty; split <;> rfl
@[simp] theorem empty_cwait (h : Hart) (r : Reg) : (h.empty r).cwait = h.cwait := by
  unfold Hart.empty; split <;> rfl
@[simp] theorem empty_barrier (h : Hart) (r : Reg) : (h.empty r).barrier = h.barrier := by
  unfold Hart.empty; split <;> rfl
@[simp] theorem empty_released (h : Hart) (r : Reg) : (h.empty r).released = h.released := by
  unfold Hart.empty; split <;> rfl
@[simp] theorem empty_waitLeft (h : Hart) (r : Reg) : (h.empty r).waitLeft = h.waitLeft := by
  unfold Hart.empty; split <;> rfl
@[simp] theorem empty_skips (h : Hart) (r : Reg) : (h.empty r).skips = h.skips := by
  unfold Hart.empty; split <;> rfl
@[simp] theorem empty_age (h : Hart) (r : Reg) : (h.empty r).age = h.age := by
  unfold Hart.empty; split <;> rfl
@[simp] theorem empty_yielded (h : Hart) (r : Reg) : (h.empty r).yielded = h.yielded := by
  unfold Hart.empty; split <;> rfl

@[simp] theorem later_queue (h : Hart) (r : Reg) (v : W64) : (h.later r v).queue = h.queue := by
  unfold Hart.later; split <;> simp
@[simp] theorem later_hartid (h : Hart) (r : Reg) (v : W64) : (h.later r v).hartid = h.hartid := by
  unfold Hart.later; split <;> simp
@[simp] theorem later_gang (h : Hart) (r : Reg) (v : W64) : (h.later r v).gang = h.gang := by
  unfold Hart.later; split <;> simp
@[simp] theorem later_slot (h : Hart) (r : Reg) (v : W64) : (h.later r v).slot = h.slot := by
  unfold Hart.later; split <;> simp
@[simp] theorem later_iter (h : Hart) (r : Reg) (v : W64) : (h.later r v).iter = h.iter := by
  unfold Hart.later; split <;> simp
@[simp] theorem later_regs (h : Hart) (r : Reg) (v : W64) : (h.later r v).regs = h.regs := by
  unfold Hart.later; split <;> simp
@[simp] theorem later_poisonVal (h : Hart) (r : Reg) (v : W64) : (h.later r v).poisonVal = h.poisonVal := by
  unfold Hart.later; split <;> simp
@[simp] theorem later_pc (h : Hart) (r : Reg) (v : W64) : (h.later r v).pc = h.pc := by
  unfold Hart.later; split <;> simp
@[simp] theorem later_ci (h : Hart) (r : Reg) (v : W64) : (h.later r v).ci = h.ci := by
  unfold Hart.later; split <;> simp
@[simp] theorem later_entry (h : Hart) (r : Reg) (v : W64) : (h.later r v).entry = h.entry := by
  unfold Hart.later; split <;> simp
@[simp] theorem later_view (h : Hart) (r : Reg) (v : W64) : (h.later r v).view = h.view := by
  unfold Hart.later; split <;> simp
@[simp] theorem later_vl (h : Hart) (r : Reg) (v : W64) : (h.later r v).vl = h.vl := by
  unfold Hart.later; split <;> simp
@[simp] theorem later_vstart (h : Hart) (r : Reg) (v : W64) : (h.later r v).vstart = h.vstart := by
  unfold Hart.later; split <;> simp
@[simp] theorem later_rows (h : Hart) (r : Reg) (v : W64) : (h.later r v).rows = h.rows := by
  unfold Hart.later; split <;> simp
@[simp] theorem later_fst (h : Hart) (r : Reg) (v : W64) : (h.later r v).fst = h.fst := by
  unfold Hart.later; split <;> simp
@[simp] theorem later_frm (h : Hart) (r : Reg) (v : W64) : (h.later r v).frm = h.frm := by
  unfold Hart.later; split <;> simp
@[simp] theorem later_vstat (h : Hart) (r : Reg) (v : W64) : (h.later r v).vstat = h.vstat := by
  unfold Hart.later; split <;> simp
@[simp] theorem later_lb0 (h : Hart) (r : Reg) (v : W64) : (h.later r v).lb0 = h.lb0 := by
  unfold Hart.later; split <;> simp
@[simp] theorem later_le0 (h : Hart) (r : Reg) (v : W64) : (h.later r v).le0 = h.le0 := by
  unfold Hart.later; split <;> simp
@[simp] theorem later_lc0 (h : Hart) (r : Reg) (v : W64) : (h.later r v).lc0 = h.lc0 := by
  unfold Hart.later; split <;> simp
@[simp] theorem later_lb1 (h : Hart) (r : Reg) (v : W64) : (h.later r v).lb1 = h.lb1 := by
  unfold Hart.later; split <;> simp
@[simp] theorem later_le1 (h : Hart) (r : Reg) (v : W64) : (h.later r v).le1 = h.le1 := by
  unfold Hart.later; split <;> simp
@[simp] theorem later_lc1 (h : Hart) (r : Reg) (v : W64) : (h.later r v).lc1 = h.lc1 := by
  unfold Hart.later; split <;> simp
@[simp] theorem later_uh (h : Hart) (r : Reg) (v : W64) : (h.later r v).uh = h.uh := by
  unfold Hart.later; split <;> simp
@[simp] theorem later_tcode (h : Hart) (r : Reg) (v : W64) : (h.later r v).tcode = h.tcode := by
  unfold Hart.later; split <;> simp
@[simp] theorem later_tpc (h : Hart) (r : Reg) (v : W64) : (h.later r v).tpc = h.tpc := by
  unfold Hart.later; split <;> simp
@[simp] theorem later_tci (h : Hart) (r : Reg) (v : W64) : (h.later r v).tci = h.tci := by
  unfold Hart.later; split <;> simp
@[simp] theorem later_tval (h : Hart) (r : Reg) (v : W64) : (h.later r v).tval = h.tval := by
  unfold Hart.later; split <;> simp
@[simp] theorem later_uhpc (h : Hart) (r : Reg) (v : W64) : (h.later r v).uhpc = h.uhpc := by
  unfold Hart.later; split <;> simp
@[simp] theorem later_uwatch (h : Hart) (r : Reg) (v : W64) : (h.later r v).uwatch = h.uwatch := by
  unfold Hart.later; split <;> simp
@[simp] theorem later_ph (h : Hart) (r : Reg) (v : W64) : (h.later r v).ph = h.ph := by
  unfold Hart.later; split <;> simp
@[simp] theorem later_ppv (h : Hart) (r : Reg) (v : W64) : (h.later r v).ppv = h.ppv := by
  unfold Hart.later; split <;> simp
@[simp] theorem later_ptcode (h : Hart) (r : Reg) (v : W64) : (h.later r v).ptcode = h.ptcode := by
  unfold Hart.later; split <;> simp
@[simp] theorem later_ptpc (h : Hart) (r : Reg) (v : W64) : (h.later r v).ptpc = h.ptpc := by
  unfold Hart.later; split <;> simp
@[simp] theorem later_ptci (h : Hart) (r : Reg) (v : W64) : (h.later r v).ptci = h.ptci := by
  unfold Hart.later; split <;> simp
@[simp] theorem later_ptval (h : Hart) (r : Reg) (v : W64) : (h.later r v).ptval = h.ptval := by
  unfold Hart.later; split <;> simp
@[simp] theorem later_tvec (h : Hart) (r : Reg) (v : W64) : (h.later r v).tvec = h.tvec := by
  unfold Hart.later; split <;> simp
@[simp] theorem later_la (h : Hart) (r : Reg) (v : W64) : (h.later r v).la = h.la := by
  unfold Hart.later; split <;> simp
@[simp] theorem later_det (h : Hart) (r : Reg) (v : W64) : (h.later r v).det = h.det := by
  unfold Hart.later; split <;> simp
@[simp] theorem later_detq (h : Hart) (r : Reg) (v : W64) : (h.later r v).detq = h.detq := by
  unfold Hart.later; split <;> simp
@[simp] theorem later_prof (h : Hart) (r : Reg) (v : W64) : (h.later r v).prof = h.prof := by
  unfold Hart.later; split <;> simp
@[simp] theorem later_skew (h : Hart) (r : Reg) (v : W64) : (h.later r v).skew = h.skew := by
  unfold Hart.later; split <;> simp
@[simp] theorem later_droop (h : Hart) (r : Reg) (v : W64) : (h.later r v).droop = h.droop := by
  unfold Hart.later; split <;> simp
@[simp] theorem later_ctxbase (h : Hart) (r : Reg) (v : W64) : (h.later r v).ctxbase = h.ctxbase := by
  unfold Hart.later; split <;> simp
@[simp] theorem later_xctl (h : Hart) (r : Reg) (v : W64) : (h.later r v).xctl = h.xctl := by
  unfold Hart.later; split <;> simp
@[simp] theorem later_gangid (h : Hart) (r : Reg) (v : W64) : (h.later r v).gangid = h.gangid := by
  unfold Hart.later; split <;> simp
@[simp] theorem later_adesc (h : Hart) (r : Reg) (v : W64) : (h.later r v).adesc = h.adesc := by
  unfold Hart.later; split <;> simp
@[simp] theorem later_conv (h : Hart) (r : Reg) (v : W64) : (h.later r v).conv = h.conv := by
  unfold Hart.later; split <;> simp
@[simp] theorem later_waiting (h : Hart) (r : Reg) (v : W64) : (h.later r v).waiting = h.waiting := by
  unfold Hart.later; split <;> simp
@[simp] theorem later_done (h : Hart) (r : Reg) (v : W64) : (h.later r v).done = h.done := by
  unfold Hart.later; split <;> simp
@[simp] theorem later_taken (h : Hart) (r : Reg) (v : W64) : (h.later r v).taken = h.taken := by
  unfold Hart.later; split <;> simp
@[simp] theorem later_sent (h : Hart) (r : Reg) (v : W64) : (h.later r v).sent = h.sent := by
  unfold Hart.later; split <;> simp
@[simp] theorem later_lost (h : Hart) (r : Reg) (v : W64) : (h.later r v).lost = h.lost := by
  unfold Hart.later; split <;> simp
@[simp] theorem later_vfills (h : Hart) (r : Reg) (v : W64) : (h.later r v).vfills = h.vfills := by
  unfold Hart.later; split <;> simp
@[simp] theorem later_drain (h : Hart) (r : Reg) (v : W64) : (h.later r v).drain = h.drain := by
  unfold Hart.later; split <;> simp
@[simp] theorem later_mflags (h : Hart) (r : Reg) (v : W64) : (h.later r v).mflags = h.mflags := by
  unfold Hart.later; split <;> simp
@[simp] theorem later_pwatch (h : Hart) (r : Reg) (v : W64) : (h.later r v).pwatch = h.pwatch := by
  unfold Hart.later; split <;> simp
@[simp] theorem later_pwatchPc (h : Hart) (r : Reg) (v : W64) : (h.later r v).pwatchPc = h.pwatchPc := by
  unfold Hart.later; split <;> simp
@[simp] theorem later_buf (h : Hart) (r : Reg) (v : W64) : (h.later r v).buf = h.buf := by
  unfold Hart.later; split <;> simp
@[simp] theorem later_bufLines (h : Hart) (r : Reg) (v : W64) : (h.later r v).bufLines = h.bufLines := by
  unfold Hart.later; split <;> simp
@[simp] theorem later_bufTouch (h : Hart) (r : Reg) (v : W64) : (h.later r v).bufTouch = h.bufTouch := by
  unfold Hart.later; split <;> simp
@[simp] theorem later_qcount (h : Hart) (r : Reg) (v : W64) : (h.later r v).qcount = h.qcount := by
  unfold Hart.later; split <;> simp
@[simp] theorem later_qlim (h : Hart) (r : Reg) (v : W64) : (h.later r v).qlim = h.qlim := by
  unfold Hart.later; split <;> simp
@[simp] theorem later_qend (h : Hart) (r : Reg) (v : W64) : (h.later r v).qend = h.qend := by
  unfold Hart.later; split <;> simp
@[simp] theorem later_blocked (h : Hart) (r : Reg) (v : W64) : (h.later r v).blocked = h.blocked := by
  unfold Hart.later; split <;> simp
@[simp] theorem later_go (h : Hart) (r : Reg) (v : W64) : (h.later r v).go = h.go := by
  unfold Hart.later; split <;> simp
@[simp] theorem later_preqs (h : Hart) (r : Reg) (v : W64) : (h.later r v).preqs = h.preqs := by
  unfold Hart.later; split <;> simp
@[simp] theorem later_cwait (h : Hart) (r : Reg) (v : W64) : (h.later r v).cwait = h.cwait := by
  unfold Hart.later; split <;> simp
@[simp] theorem later_barrier (h : Hart) (r : Reg) (v : W64) : (h.later r v).barrier = h.barrier := by
  unfold Hart.later; split <;> simp
@[simp] theorem later_released (h : Hart) (r : Reg) (v : W64) : (h.later r v).released = h.released := by
  unfold Hart.later; split <;> simp
@[simp] theorem later_waitLeft (h : Hart) (r : Reg) (v : W64) : (h.later r v).waitLeft = h.waitLeft := by
  unfold Hart.later; split <;> simp
@[simp] theorem later_skips (h : Hart) (r : Reg) (v : W64) : (h.later r v).skips = h.skips := by
  unfold Hart.later; split <;> simp
@[simp] theorem later_age (h : Hart) (r : Reg) (v : W64) : (h.later r v).age = h.age := by
  unfold Hart.later; split <;> simp
@[simp] theorem later_yielded (h : Hart) (r : Reg) (v : W64) : (h.later r v).yielded = h.yielded := by
  unfold Hart.later; split <;> simp

@[simp] theorem laterPoison_queue (h : Hart) (r : Reg) (v : W64) : (h.laterPoison r v).queue = h.queue := by
  unfold Hart.laterPoison; split <;> simp
@[simp] theorem laterPoison_hartid (h : Hart) (r : Reg) (v : W64) : (h.laterPoison r v).hartid = h.hartid := by
  unfold Hart.laterPoison; split <;> simp
@[simp] theorem laterPoison_gang (h : Hart) (r : Reg) (v : W64) : (h.laterPoison r v).gang = h.gang := by
  unfold Hart.laterPoison; split <;> simp
@[simp] theorem laterPoison_slot (h : Hart) (r : Reg) (v : W64) : (h.laterPoison r v).slot = h.slot := by
  unfold Hart.laterPoison; split <;> simp
@[simp] theorem laterPoison_iter (h : Hart) (r : Reg) (v : W64) : (h.laterPoison r v).iter = h.iter := by
  unfold Hart.laterPoison; split <;> simp
@[simp] theorem laterPoison_regs (h : Hart) (r : Reg) (v : W64) : (h.laterPoison r v).regs = h.regs := by
  unfold Hart.laterPoison; split <;> simp
@[simp] theorem laterPoison_poisonVal (h : Hart) (r : Reg) (v : W64) : (h.laterPoison r v).poisonVal = h.poisonVal := by
  unfold Hart.laterPoison; split <;> simp
@[simp] theorem laterPoison_pc (h : Hart) (r : Reg) (v : W64) : (h.laterPoison r v).pc = h.pc := by
  unfold Hart.laterPoison; split <;> simp
@[simp] theorem laterPoison_ci (h : Hart) (r : Reg) (v : W64) : (h.laterPoison r v).ci = h.ci := by
  unfold Hart.laterPoison; split <;> simp
@[simp] theorem laterPoison_entry (h : Hart) (r : Reg) (v : W64) : (h.laterPoison r v).entry = h.entry := by
  unfold Hart.laterPoison; split <;> simp
@[simp] theorem laterPoison_view (h : Hart) (r : Reg) (v : W64) : (h.laterPoison r v).view = h.view := by
  unfold Hart.laterPoison; split <;> simp
@[simp] theorem laterPoison_vl (h : Hart) (r : Reg) (v : W64) : (h.laterPoison r v).vl = h.vl := by
  unfold Hart.laterPoison; split <;> simp
@[simp] theorem laterPoison_vstart (h : Hart) (r : Reg) (v : W64) : (h.laterPoison r v).vstart = h.vstart := by
  unfold Hart.laterPoison; split <;> simp
@[simp] theorem laterPoison_rows (h : Hart) (r : Reg) (v : W64) : (h.laterPoison r v).rows = h.rows := by
  unfold Hart.laterPoison; split <;> simp
@[simp] theorem laterPoison_fst (h : Hart) (r : Reg) (v : W64) : (h.laterPoison r v).fst = h.fst := by
  unfold Hart.laterPoison; split <;> simp
@[simp] theorem laterPoison_frm (h : Hart) (r : Reg) (v : W64) : (h.laterPoison r v).frm = h.frm := by
  unfold Hart.laterPoison; split <;> simp
@[simp] theorem laterPoison_vstat (h : Hart) (r : Reg) (v : W64) : (h.laterPoison r v).vstat = h.vstat := by
  unfold Hart.laterPoison; split <;> simp
@[simp] theorem laterPoison_lb0 (h : Hart) (r : Reg) (v : W64) : (h.laterPoison r v).lb0 = h.lb0 := by
  unfold Hart.laterPoison; split <;> simp
@[simp] theorem laterPoison_le0 (h : Hart) (r : Reg) (v : W64) : (h.laterPoison r v).le0 = h.le0 := by
  unfold Hart.laterPoison; split <;> simp
@[simp] theorem laterPoison_lc0 (h : Hart) (r : Reg) (v : W64) : (h.laterPoison r v).lc0 = h.lc0 := by
  unfold Hart.laterPoison; split <;> simp
@[simp] theorem laterPoison_lb1 (h : Hart) (r : Reg) (v : W64) : (h.laterPoison r v).lb1 = h.lb1 := by
  unfold Hart.laterPoison; split <;> simp
@[simp] theorem laterPoison_le1 (h : Hart) (r : Reg) (v : W64) : (h.laterPoison r v).le1 = h.le1 := by
  unfold Hart.laterPoison; split <;> simp
@[simp] theorem laterPoison_lc1 (h : Hart) (r : Reg) (v : W64) : (h.laterPoison r v).lc1 = h.lc1 := by
  unfold Hart.laterPoison; split <;> simp
@[simp] theorem laterPoison_uh (h : Hart) (r : Reg) (v : W64) : (h.laterPoison r v).uh = h.uh := by
  unfold Hart.laterPoison; split <;> simp
@[simp] theorem laterPoison_tcode (h : Hart) (r : Reg) (v : W64) : (h.laterPoison r v).tcode = h.tcode := by
  unfold Hart.laterPoison; split <;> simp
@[simp] theorem laterPoison_tpc (h : Hart) (r : Reg) (v : W64) : (h.laterPoison r v).tpc = h.tpc := by
  unfold Hart.laterPoison; split <;> simp
@[simp] theorem laterPoison_tci (h : Hart) (r : Reg) (v : W64) : (h.laterPoison r v).tci = h.tci := by
  unfold Hart.laterPoison; split <;> simp
@[simp] theorem laterPoison_tval (h : Hart) (r : Reg) (v : W64) : (h.laterPoison r v).tval = h.tval := by
  unfold Hart.laterPoison; split <;> simp
@[simp] theorem laterPoison_uhpc (h : Hart) (r : Reg) (v : W64) : (h.laterPoison r v).uhpc = h.uhpc := by
  unfold Hart.laterPoison; split <;> simp
@[simp] theorem laterPoison_uwatch (h : Hart) (r : Reg) (v : W64) : (h.laterPoison r v).uwatch = h.uwatch := by
  unfold Hart.laterPoison; split <;> simp
@[simp] theorem laterPoison_ph (h : Hart) (r : Reg) (v : W64) : (h.laterPoison r v).ph = h.ph := by
  unfold Hart.laterPoison; split <;> simp
@[simp] theorem laterPoison_ppv (h : Hart) (r : Reg) (v : W64) : (h.laterPoison r v).ppv = h.ppv := by
  unfold Hart.laterPoison; split <;> simp
@[simp] theorem laterPoison_ptcode (h : Hart) (r : Reg) (v : W64) : (h.laterPoison r v).ptcode = h.ptcode := by
  unfold Hart.laterPoison; split <;> simp
@[simp] theorem laterPoison_ptpc (h : Hart) (r : Reg) (v : W64) : (h.laterPoison r v).ptpc = h.ptpc := by
  unfold Hart.laterPoison; split <;> simp
@[simp] theorem laterPoison_ptci (h : Hart) (r : Reg) (v : W64) : (h.laterPoison r v).ptci = h.ptci := by
  unfold Hart.laterPoison; split <;> simp
@[simp] theorem laterPoison_ptval (h : Hart) (r : Reg) (v : W64) : (h.laterPoison r v).ptval = h.ptval := by
  unfold Hart.laterPoison; split <;> simp
@[simp] theorem laterPoison_tvec (h : Hart) (r : Reg) (v : W64) : (h.laterPoison r v).tvec = h.tvec := by
  unfold Hart.laterPoison; split <;> simp
@[simp] theorem laterPoison_la (h : Hart) (r : Reg) (v : W64) : (h.laterPoison r v).la = h.la := by
  unfold Hart.laterPoison; split <;> simp
@[simp] theorem laterPoison_det (h : Hart) (r : Reg) (v : W64) : (h.laterPoison r v).det = h.det := by
  unfold Hart.laterPoison; split <;> simp
@[simp] theorem laterPoison_detq (h : Hart) (r : Reg) (v : W64) : (h.laterPoison r v).detq = h.detq := by
  unfold Hart.laterPoison; split <;> simp
@[simp] theorem laterPoison_prof (h : Hart) (r : Reg) (v : W64) : (h.laterPoison r v).prof = h.prof := by
  unfold Hart.laterPoison; split <;> simp
@[simp] theorem laterPoison_skew (h : Hart) (r : Reg) (v : W64) : (h.laterPoison r v).skew = h.skew := by
  unfold Hart.laterPoison; split <;> simp
@[simp] theorem laterPoison_droop (h : Hart) (r : Reg) (v : W64) : (h.laterPoison r v).droop = h.droop := by
  unfold Hart.laterPoison; split <;> simp
@[simp] theorem laterPoison_ctxbase (h : Hart) (r : Reg) (v : W64) : (h.laterPoison r v).ctxbase = h.ctxbase := by
  unfold Hart.laterPoison; split <;> simp
@[simp] theorem laterPoison_xctl (h : Hart) (r : Reg) (v : W64) : (h.laterPoison r v).xctl = h.xctl := by
  unfold Hart.laterPoison; split <;> simp
@[simp] theorem laterPoison_gangid (h : Hart) (r : Reg) (v : W64) : (h.laterPoison r v).gangid = h.gangid := by
  unfold Hart.laterPoison; split <;> simp
@[simp] theorem laterPoison_adesc (h : Hart) (r : Reg) (v : W64) : (h.laterPoison r v).adesc = h.adesc := by
  unfold Hart.laterPoison; split <;> simp
@[simp] theorem laterPoison_conv (h : Hart) (r : Reg) (v : W64) : (h.laterPoison r v).conv = h.conv := by
  unfold Hart.laterPoison; split <;> simp
@[simp] theorem laterPoison_waiting (h : Hart) (r : Reg) (v : W64) : (h.laterPoison r v).waiting = h.waiting := by
  unfold Hart.laterPoison; split <;> simp
@[simp] theorem laterPoison_done (h : Hart) (r : Reg) (v : W64) : (h.laterPoison r v).done = h.done := by
  unfold Hart.laterPoison; split <;> simp
@[simp] theorem laterPoison_taken (h : Hart) (r : Reg) (v : W64) : (h.laterPoison r v).taken = h.taken := by
  unfold Hart.laterPoison; split <;> simp
@[simp] theorem laterPoison_sent (h : Hart) (r : Reg) (v : W64) : (h.laterPoison r v).sent = h.sent := by
  unfold Hart.laterPoison; split <;> simp
@[simp] theorem laterPoison_lost (h : Hart) (r : Reg) (v : W64) : (h.laterPoison r v).lost = h.lost := by
  unfold Hart.laterPoison; split <;> simp
@[simp] theorem laterPoison_vfills (h : Hart) (r : Reg) (v : W64) : (h.laterPoison r v).vfills = h.vfills := by
  unfold Hart.laterPoison; split <;> simp
@[simp] theorem laterPoison_drain (h : Hart) (r : Reg) (v : W64) : (h.laterPoison r v).drain = h.drain := by
  unfold Hart.laterPoison; split <;> simp
@[simp] theorem laterPoison_mflags (h : Hart) (r : Reg) (v : W64) : (h.laterPoison r v).mflags = h.mflags := by
  unfold Hart.laterPoison; split <;> simp
@[simp] theorem laterPoison_pwatch (h : Hart) (r : Reg) (v : W64) : (h.laterPoison r v).pwatch = h.pwatch := by
  unfold Hart.laterPoison; split <;> simp
@[simp] theorem laterPoison_pwatchPc (h : Hart) (r : Reg) (v : W64) : (h.laterPoison r v).pwatchPc = h.pwatchPc := by
  unfold Hart.laterPoison; split <;> simp
@[simp] theorem laterPoison_buf (h : Hart) (r : Reg) (v : W64) : (h.laterPoison r v).buf = h.buf := by
  unfold Hart.laterPoison; split <;> simp
@[simp] theorem laterPoison_bufLines (h : Hart) (r : Reg) (v : W64) : (h.laterPoison r v).bufLines = h.bufLines := by
  unfold Hart.laterPoison; split <;> simp
@[simp] theorem laterPoison_bufTouch (h : Hart) (r : Reg) (v : W64) : (h.laterPoison r v).bufTouch = h.bufTouch := by
  unfold Hart.laterPoison; split <;> simp
@[simp] theorem laterPoison_qcount (h : Hart) (r : Reg) (v : W64) : (h.laterPoison r v).qcount = h.qcount := by
  unfold Hart.laterPoison; split <;> simp
@[simp] theorem laterPoison_qlim (h : Hart) (r : Reg) (v : W64) : (h.laterPoison r v).qlim = h.qlim := by
  unfold Hart.laterPoison; split <;> simp
@[simp] theorem laterPoison_qend (h : Hart) (r : Reg) (v : W64) : (h.laterPoison r v).qend = h.qend := by
  unfold Hart.laterPoison; split <;> simp
@[simp] theorem laterPoison_blocked (h : Hart) (r : Reg) (v : W64) : (h.laterPoison r v).blocked = h.blocked := by
  unfold Hart.laterPoison; split <;> simp
@[simp] theorem laterPoison_go (h : Hart) (r : Reg) (v : W64) : (h.laterPoison r v).go = h.go := by
  unfold Hart.laterPoison; split <;> simp
@[simp] theorem laterPoison_preqs (h : Hart) (r : Reg) (v : W64) : (h.laterPoison r v).preqs = h.preqs := by
  unfold Hart.laterPoison; split <;> simp
@[simp] theorem laterPoison_cwait (h : Hart) (r : Reg) (v : W64) : (h.laterPoison r v).cwait = h.cwait := by
  unfold Hart.laterPoison; split <;> simp
@[simp] theorem laterPoison_barrier (h : Hart) (r : Reg) (v : W64) : (h.laterPoison r v).barrier = h.barrier := by
  unfold Hart.laterPoison; split <;> simp
@[simp] theorem laterPoison_released (h : Hart) (r : Reg) (v : W64) : (h.laterPoison r v).released = h.released := by
  unfold Hart.laterPoison; split <;> simp
@[simp] theorem laterPoison_waitLeft (h : Hart) (r : Reg) (v : W64) : (h.laterPoison r v).waitLeft = h.waitLeft := by
  unfold Hart.laterPoison; split <;> simp
@[simp] theorem laterPoison_skips (h : Hart) (r : Reg) (v : W64) : (h.laterPoison r v).skips = h.skips := by
  unfold Hart.laterPoison; split <;> simp
@[simp] theorem laterPoison_age (h : Hart) (r : Reg) (v : W64) : (h.laterPoison r v).age = h.age := by
  unfold Hart.laterPoison; split <;> simp
@[simp] theorem laterPoison_yielded (h : Hart) (r : Reg) (v : W64) : (h.laterPoison r v).yielded = h.yielded := by
  unfold Hart.laterPoison; split <;> simp

@[simp] theorem advance_queue (h : Hart) : (h.advance).queue = h.queue := rfl
@[simp] theorem advance_hartid (h : Hart) : (h.advance).hartid = h.hartid := rfl
@[simp] theorem advance_gang (h : Hart) : (h.advance).gang = h.gang := rfl
@[simp] theorem advance_slot (h : Hart) : (h.advance).slot = h.slot := rfl
@[simp] theorem advance_iter (h : Hart) : (h.advance).iter = h.iter := rfl
@[simp] theorem advance_regs (h : Hart) : (h.advance).regs = h.regs := rfl
@[simp] theorem advance_full (h : Hart) : (h.advance).full = h.full := rfl
@[simp] theorem advance_poison (h : Hart) : (h.advance).poison = h.poison := rfl
@[simp] theorem advance_poisonVal (h : Hart) : (h.advance).poisonVal = h.poisonVal := rfl
@[simp] theorem advance_pc (h : Hart) : (h.advance).pc = h.pc := rfl
@[simp] theorem advance_ci (h : Hart) : (h.advance).ci = h.ci := rfl
@[simp] theorem advance_entry (h : Hart) : (h.advance).entry = h.entry := rfl
@[simp] theorem advance_view (h : Hart) : (h.advance).view = h.view := rfl
@[simp] theorem advance_vl (h : Hart) : (h.advance).vl = h.vl := rfl
@[simp] theorem advance_vstart (h : Hart) : (h.advance).vstart = h.vstart := rfl
@[simp] theorem advance_rows (h : Hart) : (h.advance).rows = h.rows := rfl
@[simp] theorem advance_fst (h : Hart) : (h.advance).fst = h.fst := rfl
@[simp] theorem advance_frm (h : Hart) : (h.advance).frm = h.frm := rfl
@[simp] theorem advance_vstat (h : Hart) : (h.advance).vstat = h.vstat := rfl
@[simp] theorem advance_lb0 (h : Hart) : (h.advance).lb0 = h.lb0 := rfl
@[simp] theorem advance_le0 (h : Hart) : (h.advance).le0 = h.le0 := rfl
@[simp] theorem advance_lc0 (h : Hart) : (h.advance).lc0 = h.lc0 := rfl
@[simp] theorem advance_lb1 (h : Hart) : (h.advance).lb1 = h.lb1 := rfl
@[simp] theorem advance_le1 (h : Hart) : (h.advance).le1 = h.le1 := rfl
@[simp] theorem advance_lc1 (h : Hart) : (h.advance).lc1 = h.lc1 := rfl
@[simp] theorem advance_uh (h : Hart) : (h.advance).uh = h.uh := rfl
@[simp] theorem advance_tcode (h : Hart) : (h.advance).tcode = h.tcode := rfl
@[simp] theorem advance_tpc (h : Hart) : (h.advance).tpc = h.tpc := rfl
@[simp] theorem advance_tci (h : Hart) : (h.advance).tci = h.tci := rfl
@[simp] theorem advance_tval (h : Hart) : (h.advance).tval = h.tval := rfl
@[simp] theorem advance_uhpc (h : Hart) : (h.advance).uhpc = h.uhpc := rfl
@[simp] theorem advance_uwatch (h : Hart) : (h.advance).uwatch = h.uwatch := rfl
@[simp] theorem advance_ph (h : Hart) : (h.advance).ph = h.ph := rfl
@[simp] theorem advance_ppv (h : Hart) : (h.advance).ppv = h.ppv := rfl
@[simp] theorem advance_ptcode (h : Hart) : (h.advance).ptcode = h.ptcode := rfl
@[simp] theorem advance_ptpc (h : Hart) : (h.advance).ptpc = h.ptpc := rfl
@[simp] theorem advance_ptci (h : Hart) : (h.advance).ptci = h.ptci := rfl
@[simp] theorem advance_ptval (h : Hart) : (h.advance).ptval = h.ptval := rfl
@[simp] theorem advance_tvec (h : Hart) : (h.advance).tvec = h.tvec := rfl
@[simp] theorem advance_la (h : Hart) : (h.advance).la = h.la := rfl
@[simp] theorem advance_det (h : Hart) : (h.advance).det = h.det := rfl
@[simp] theorem advance_detq (h : Hart) : (h.advance).detq = h.detq := rfl
@[simp] theorem advance_prof (h : Hart) : (h.advance).prof = h.prof := rfl
@[simp] theorem advance_skew (h : Hart) : (h.advance).skew = h.skew := rfl
@[simp] theorem advance_droop (h : Hart) : (h.advance).droop = h.droop := rfl
@[simp] theorem advance_ctxbase (h : Hart) : (h.advance).ctxbase = h.ctxbase := rfl
@[simp] theorem advance_xctl (h : Hart) : (h.advance).xctl = h.xctl := rfl
@[simp] theorem advance_gangid (h : Hart) : (h.advance).gangid = h.gangid := rfl
@[simp] theorem advance_adesc (h : Hart) : (h.advance).adesc = h.adesc := rfl
@[simp] theorem advance_fills (h : Hart) : (h.advance).fills = h.fills := rfl
@[simp] theorem advance_vfills (h : Hart) : (h.advance).vfills = h.vfills := rfl
@[simp] theorem advance_drain (h : Hart) : (h.advance).drain = h.drain := rfl
@[simp] theorem advance_mflags (h : Hart) : (h.advance).mflags = h.mflags := rfl
@[simp] theorem advance_pwatch (h : Hart) : (h.advance).pwatch = h.pwatch := rfl
@[simp] theorem advance_pwatchPc (h : Hart) : (h.advance).pwatchPc = h.pwatchPc := rfl
@[simp] theorem advance_buf (h : Hart) : (h.advance).buf = h.buf := rfl
@[simp] theorem advance_bufLines (h : Hart) : (h.advance).bufLines = h.bufLines := rfl
@[simp] theorem advance_bufTouch (h : Hart) : (h.advance).bufTouch = h.bufTouch := rfl
@[simp] theorem advance_qcount (h : Hart) : (h.advance).qcount = h.qcount := rfl
@[simp] theorem advance_qlim (h : Hart) : (h.advance).qlim = h.qlim := rfl
@[simp] theorem advance_qend (h : Hart) : (h.advance).qend = h.qend := rfl
@[simp] theorem advance_preqs (h : Hart) : (h.advance).preqs = h.preqs := rfl
@[simp] theorem advance_barrier (h : Hart) : (h.advance).barrier = h.barrier := rfl
@[simp] theorem advance_released (h : Hart) : (h.advance).released = h.released := rfl
@[simp] theorem advance_skips (h : Hart) : (h.advance).skips = h.skips := rfl
@[simp] theorem advance_age (h : Hart) : (h.advance).age = h.age := rfl
@[simp] theorem advance_yielded (h : Hart) : (h.advance).yielded = h.yielded := rfl

@[simp] theorem raise_queue (h : Hart) (f : BitVec 6) : (h.raise f).queue = h.queue := rfl
@[simp] theorem raise_hartid (h : Hart) (f : BitVec 6) : (h.raise f).hartid = h.hartid := rfl
@[simp] theorem raise_gang (h : Hart) (f : BitVec 6) : (h.raise f).gang = h.gang := rfl
@[simp] theorem raise_slot (h : Hart) (f : BitVec 6) : (h.raise f).slot = h.slot := rfl
@[simp] theorem raise_iter (h : Hart) (f : BitVec 6) : (h.raise f).iter = h.iter := rfl
@[simp] theorem raise_regs (h : Hart) (f : BitVec 6) : (h.raise f).regs = h.regs := rfl
@[simp] theorem raise_full (h : Hart) (f : BitVec 6) : (h.raise f).full = h.full := rfl
@[simp] theorem raise_poison (h : Hart) (f : BitVec 6) : (h.raise f).poison = h.poison := rfl
@[simp] theorem raise_poisonVal (h : Hart) (f : BitVec 6) : (h.raise f).poisonVal = h.poisonVal := rfl
@[simp] theorem raise_pc (h : Hart) (f : BitVec 6) : (h.raise f).pc = h.pc := rfl
@[simp] theorem raise_ci (h : Hart) (f : BitVec 6) : (h.raise f).ci = h.ci := rfl
@[simp] theorem raise_entry (h : Hart) (f : BitVec 6) : (h.raise f).entry = h.entry := rfl
@[simp] theorem raise_view (h : Hart) (f : BitVec 6) : (h.raise f).view = h.view := rfl
@[simp] theorem raise_vl (h : Hart) (f : BitVec 6) : (h.raise f).vl = h.vl := rfl
@[simp] theorem raise_vstart (h : Hart) (f : BitVec 6) : (h.raise f).vstart = h.vstart := rfl
@[simp] theorem raise_rows (h : Hart) (f : BitVec 6) : (h.raise f).rows = h.rows := rfl
@[simp] theorem raise_frm (h : Hart) (f : BitVec 6) : (h.raise f).frm = h.frm := rfl
@[simp] theorem raise_vstat (h : Hart) (f : BitVec 6) : (h.raise f).vstat = h.vstat := rfl
@[simp] theorem raise_lb0 (h : Hart) (f : BitVec 6) : (h.raise f).lb0 = h.lb0 := rfl
@[simp] theorem raise_le0 (h : Hart) (f : BitVec 6) : (h.raise f).le0 = h.le0 := rfl
@[simp] theorem raise_lc0 (h : Hart) (f : BitVec 6) : (h.raise f).lc0 = h.lc0 := rfl
@[simp] theorem raise_lb1 (h : Hart) (f : BitVec 6) : (h.raise f).lb1 = h.lb1 := rfl
@[simp] theorem raise_le1 (h : Hart) (f : BitVec 6) : (h.raise f).le1 = h.le1 := rfl
@[simp] theorem raise_lc1 (h : Hart) (f : BitVec 6) : (h.raise f).lc1 = h.lc1 := rfl
@[simp] theorem raise_uh (h : Hart) (f : BitVec 6) : (h.raise f).uh = h.uh := rfl
@[simp] theorem raise_tcode (h : Hart) (f : BitVec 6) : (h.raise f).tcode = h.tcode := rfl
@[simp] theorem raise_tpc (h : Hart) (f : BitVec 6) : (h.raise f).tpc = h.tpc := rfl
@[simp] theorem raise_tci (h : Hart) (f : BitVec 6) : (h.raise f).tci = h.tci := rfl
@[simp] theorem raise_tval (h : Hart) (f : BitVec 6) : (h.raise f).tval = h.tval := rfl
@[simp] theorem raise_uhpc (h : Hart) (f : BitVec 6) : (h.raise f).uhpc = h.uhpc := rfl
@[simp] theorem raise_uwatch (h : Hart) (f : BitVec 6) : (h.raise f).uwatch = h.uwatch := rfl
@[simp] theorem raise_ph (h : Hart) (f : BitVec 6) : (h.raise f).ph = h.ph := rfl
@[simp] theorem raise_ppv (h : Hart) (f : BitVec 6) : (h.raise f).ppv = h.ppv := rfl
@[simp] theorem raise_ptcode (h : Hart) (f : BitVec 6) : (h.raise f).ptcode = h.ptcode := rfl
@[simp] theorem raise_ptpc (h : Hart) (f : BitVec 6) : (h.raise f).ptpc = h.ptpc := rfl
@[simp] theorem raise_ptci (h : Hart) (f : BitVec 6) : (h.raise f).ptci = h.ptci := rfl
@[simp] theorem raise_ptval (h : Hart) (f : BitVec 6) : (h.raise f).ptval = h.ptval := rfl
@[simp] theorem raise_tvec (h : Hart) (f : BitVec 6) : (h.raise f).tvec = h.tvec := rfl
@[simp] theorem raise_la (h : Hart) (f : BitVec 6) : (h.raise f).la = h.la := rfl
@[simp] theorem raise_det (h : Hart) (f : BitVec 6) : (h.raise f).det = h.det := rfl
@[simp] theorem raise_detq (h : Hart) (f : BitVec 6) : (h.raise f).detq = h.detq := rfl
@[simp] theorem raise_prof (h : Hart) (f : BitVec 6) : (h.raise f).prof = h.prof := rfl
@[simp] theorem raise_skew (h : Hart) (f : BitVec 6) : (h.raise f).skew = h.skew := rfl
@[simp] theorem raise_droop (h : Hart) (f : BitVec 6) : (h.raise f).droop = h.droop := rfl
@[simp] theorem raise_ctxbase (h : Hart) (f : BitVec 6) : (h.raise f).ctxbase = h.ctxbase := rfl
@[simp] theorem raise_xctl (h : Hart) (f : BitVec 6) : (h.raise f).xctl = h.xctl := rfl
@[simp] theorem raise_gangid (h : Hart) (f : BitVec 6) : (h.raise f).gangid = h.gangid := rfl
@[simp] theorem raise_adesc (h : Hart) (f : BitVec 6) : (h.raise f).adesc = h.adesc := rfl
@[simp] theorem raise_waiting (h : Hart) (f : BitVec 6) : (h.raise f).waiting = h.waiting := rfl
@[simp] theorem raise_done (h : Hart) (f : BitVec 6) : (h.raise f).done = h.done := rfl
@[simp] theorem raise_taken (h : Hart) (f : BitVec 6) : (h.raise f).taken = h.taken := rfl
@[simp] theorem raise_sent (h : Hart) (f : BitVec 6) : (h.raise f).sent = h.sent := rfl
@[simp] theorem raise_lost (h : Hart) (f : BitVec 6) : (h.raise f).lost = h.lost := rfl
@[simp] theorem raise_fills (h : Hart) (f : BitVec 6) : (h.raise f).fills = h.fills := rfl
@[simp] theorem raise_vfills (h : Hart) (f : BitVec 6) : (h.raise f).vfills = h.vfills := rfl
@[simp] theorem raise_drain (h : Hart) (f : BitVec 6) : (h.raise f).drain = h.drain := rfl
@[simp] theorem raise_mflags (h : Hart) (f : BitVec 6) : (h.raise f).mflags = h.mflags := rfl
@[simp] theorem raise_pwatch (h : Hart) (f : BitVec 6) : (h.raise f).pwatch = h.pwatch := rfl
@[simp] theorem raise_pwatchPc (h : Hart) (f : BitVec 6) : (h.raise f).pwatchPc = h.pwatchPc := rfl
@[simp] theorem raise_buf (h : Hart) (f : BitVec 6) : (h.raise f).buf = h.buf := rfl
@[simp] theorem raise_bufLines (h : Hart) (f : BitVec 6) : (h.raise f).bufLines = h.bufLines := rfl
@[simp] theorem raise_bufTouch (h : Hart) (f : BitVec 6) : (h.raise f).bufTouch = h.bufTouch := rfl
@[simp] theorem raise_qcount (h : Hart) (f : BitVec 6) : (h.raise f).qcount = h.qcount := rfl
@[simp] theorem raise_qlim (h : Hart) (f : BitVec 6) : (h.raise f).qlim = h.qlim := rfl
@[simp] theorem raise_qend (h : Hart) (f : BitVec 6) : (h.raise f).qend = h.qend := rfl
@[simp] theorem raise_blocked (h : Hart) (f : BitVec 6) : (h.raise f).blocked = h.blocked := rfl
@[simp] theorem raise_go (h : Hart) (f : BitVec 6) : (h.raise f).go = h.go := rfl
@[simp] theorem raise_preqs (h : Hart) (f : BitVec 6) : (h.raise f).preqs = h.preqs := rfl
@[simp] theorem raise_cwait (h : Hart) (f : BitVec 6) : (h.raise f).cwait = h.cwait := rfl
@[simp] theorem raise_barrier (h : Hart) (f : BitVec 6) : (h.raise f).barrier = h.barrier := rfl
@[simp] theorem raise_released (h : Hart) (f : BitVec 6) : (h.raise f).released = h.released := rfl
@[simp] theorem raise_waitLeft (h : Hart) (f : BitVec 6) : (h.raise f).waitLeft = h.waitLeft := rfl
@[simp] theorem raise_skips (h : Hart) (f : BitVec 6) : (h.raise f).skips = h.skips := rfl
@[simp] theorem raise_age (h : Hart) (f : BitVec 6) : (h.raise f).age = h.age := rfl
@[simp] theorem raise_yielded (h : Hart) (f : BitVec 6) : (h.raise f).yielded = h.yielded := rfl

@[simp] theorem keepFlags_queue (h : Hart) (f : BitVec 6) : (h.keepFlags f).queue = h.queue := by
  unfold Hart.keepFlags; split <;> rfl
@[simp] theorem keepFlags_hartid (h : Hart) (f : BitVec 6) : (h.keepFlags f).hartid = h.hartid := by
  unfold Hart.keepFlags; split <;> rfl
@[simp] theorem keepFlags_gang (h : Hart) (f : BitVec 6) : (h.keepFlags f).gang = h.gang := by
  unfold Hart.keepFlags; split <;> rfl
@[simp] theorem keepFlags_slot (h : Hart) (f : BitVec 6) : (h.keepFlags f).slot = h.slot := by
  unfold Hart.keepFlags; split <;> rfl
@[simp] theorem keepFlags_iter (h : Hart) (f : BitVec 6) : (h.keepFlags f).iter = h.iter := by
  unfold Hart.keepFlags; split <;> rfl
@[simp] theorem keepFlags_regs (h : Hart) (f : BitVec 6) : (h.keepFlags f).regs = h.regs := by
  unfold Hart.keepFlags; split <;> rfl
@[simp] theorem keepFlags_full (h : Hart) (f : BitVec 6) : (h.keepFlags f).full = h.full := by
  unfold Hart.keepFlags; split <;> rfl
@[simp] theorem keepFlags_poison (h : Hart) (f : BitVec 6) : (h.keepFlags f).poison = h.poison := by
  unfold Hart.keepFlags; split <;> rfl
@[simp] theorem keepFlags_poisonVal (h : Hart) (f : BitVec 6) : (h.keepFlags f).poisonVal = h.poisonVal := by
  unfold Hart.keepFlags; split <;> rfl
@[simp] theorem keepFlags_pc (h : Hart) (f : BitVec 6) : (h.keepFlags f).pc = h.pc := by
  unfold Hart.keepFlags; split <;> rfl
@[simp] theorem keepFlags_ci (h : Hart) (f : BitVec 6) : (h.keepFlags f).ci = h.ci := by
  unfold Hart.keepFlags; split <;> rfl
@[simp] theorem keepFlags_entry (h : Hart) (f : BitVec 6) : (h.keepFlags f).entry = h.entry := by
  unfold Hart.keepFlags; split <;> rfl
@[simp] theorem keepFlags_view (h : Hart) (f : BitVec 6) : (h.keepFlags f).view = h.view := by
  unfold Hart.keepFlags; split <;> rfl
@[simp] theorem keepFlags_vl (h : Hart) (f : BitVec 6) : (h.keepFlags f).vl = h.vl := by
  unfold Hart.keepFlags; split <;> rfl
@[simp] theorem keepFlags_vstart (h : Hart) (f : BitVec 6) : (h.keepFlags f).vstart = h.vstart := by
  unfold Hart.keepFlags; split <;> rfl
@[simp] theorem keepFlags_rows (h : Hart) (f : BitVec 6) : (h.keepFlags f).rows = h.rows := by
  unfold Hart.keepFlags; split <;> rfl
@[simp] theorem keepFlags_fst (h : Hart) (f : BitVec 6) : (h.keepFlags f).fst = h.fst := by
  unfold Hart.keepFlags; split <;> rfl
@[simp] theorem keepFlags_frm (h : Hart) (f : BitVec 6) : (h.keepFlags f).frm = h.frm := by
  unfold Hart.keepFlags; split <;> rfl
@[simp] theorem keepFlags_vstat (h : Hart) (f : BitVec 6) : (h.keepFlags f).vstat = h.vstat := by
  unfold Hart.keepFlags; split <;> rfl
@[simp] theorem keepFlags_lb0 (h : Hart) (f : BitVec 6) : (h.keepFlags f).lb0 = h.lb0 := by
  unfold Hart.keepFlags; split <;> rfl
@[simp] theorem keepFlags_le0 (h : Hart) (f : BitVec 6) : (h.keepFlags f).le0 = h.le0 := by
  unfold Hart.keepFlags; split <;> rfl
@[simp] theorem keepFlags_lc0 (h : Hart) (f : BitVec 6) : (h.keepFlags f).lc0 = h.lc0 := by
  unfold Hart.keepFlags; split <;> rfl
@[simp] theorem keepFlags_lb1 (h : Hart) (f : BitVec 6) : (h.keepFlags f).lb1 = h.lb1 := by
  unfold Hart.keepFlags; split <;> rfl
@[simp] theorem keepFlags_le1 (h : Hart) (f : BitVec 6) : (h.keepFlags f).le1 = h.le1 := by
  unfold Hart.keepFlags; split <;> rfl
@[simp] theorem keepFlags_lc1 (h : Hart) (f : BitVec 6) : (h.keepFlags f).lc1 = h.lc1 := by
  unfold Hart.keepFlags; split <;> rfl
@[simp] theorem keepFlags_uh (h : Hart) (f : BitVec 6) : (h.keepFlags f).uh = h.uh := by
  unfold Hart.keepFlags; split <;> rfl
@[simp] theorem keepFlags_tcode (h : Hart) (f : BitVec 6) : (h.keepFlags f).tcode = h.tcode := by
  unfold Hart.keepFlags; split <;> rfl
@[simp] theorem keepFlags_tpc (h : Hart) (f : BitVec 6) : (h.keepFlags f).tpc = h.tpc := by
  unfold Hart.keepFlags; split <;> rfl
@[simp] theorem keepFlags_tci (h : Hart) (f : BitVec 6) : (h.keepFlags f).tci = h.tci := by
  unfold Hart.keepFlags; split <;> rfl
@[simp] theorem keepFlags_tval (h : Hart) (f : BitVec 6) : (h.keepFlags f).tval = h.tval := by
  unfold Hart.keepFlags; split <;> rfl
@[simp] theorem keepFlags_uhpc (h : Hart) (f : BitVec 6) : (h.keepFlags f).uhpc = h.uhpc := by
  unfold Hart.keepFlags; split <;> rfl
@[simp] theorem keepFlags_uwatch (h : Hart) (f : BitVec 6) : (h.keepFlags f).uwatch = h.uwatch := by
  unfold Hart.keepFlags; split <;> rfl
@[simp] theorem keepFlags_ph (h : Hart) (f : BitVec 6) : (h.keepFlags f).ph = h.ph := by
  unfold Hart.keepFlags; split <;> rfl
@[simp] theorem keepFlags_ppv (h : Hart) (f : BitVec 6) : (h.keepFlags f).ppv = h.ppv := by
  unfold Hart.keepFlags; split <;> rfl
@[simp] theorem keepFlags_ptcode (h : Hart) (f : BitVec 6) : (h.keepFlags f).ptcode = h.ptcode := by
  unfold Hart.keepFlags; split <;> rfl
@[simp] theorem keepFlags_ptpc (h : Hart) (f : BitVec 6) : (h.keepFlags f).ptpc = h.ptpc := by
  unfold Hart.keepFlags; split <;> rfl
@[simp] theorem keepFlags_ptci (h : Hart) (f : BitVec 6) : (h.keepFlags f).ptci = h.ptci := by
  unfold Hart.keepFlags; split <;> rfl
@[simp] theorem keepFlags_ptval (h : Hart) (f : BitVec 6) : (h.keepFlags f).ptval = h.ptval := by
  unfold Hart.keepFlags; split <;> rfl
@[simp] theorem keepFlags_tvec (h : Hart) (f : BitVec 6) : (h.keepFlags f).tvec = h.tvec := by
  unfold Hart.keepFlags; split <;> rfl
@[simp] theorem keepFlags_la (h : Hart) (f : BitVec 6) : (h.keepFlags f).la = h.la := by
  unfold Hart.keepFlags; split <;> rfl
@[simp] theorem keepFlags_det (h : Hart) (f : BitVec 6) : (h.keepFlags f).det = h.det := by
  unfold Hart.keepFlags; split <;> rfl
@[simp] theorem keepFlags_detq (h : Hart) (f : BitVec 6) : (h.keepFlags f).detq = h.detq := by
  unfold Hart.keepFlags; split <;> rfl
@[simp] theorem keepFlags_prof (h : Hart) (f : BitVec 6) : (h.keepFlags f).prof = h.prof := by
  unfold Hart.keepFlags; split <;> rfl
@[simp] theorem keepFlags_skew (h : Hart) (f : BitVec 6) : (h.keepFlags f).skew = h.skew := by
  unfold Hart.keepFlags; split <;> rfl
@[simp] theorem keepFlags_droop (h : Hart) (f : BitVec 6) : (h.keepFlags f).droop = h.droop := by
  unfold Hart.keepFlags; split <;> rfl
@[simp] theorem keepFlags_ctxbase (h : Hart) (f : BitVec 6) : (h.keepFlags f).ctxbase = h.ctxbase := by
  unfold Hart.keepFlags; split <;> rfl
@[simp] theorem keepFlags_xctl (h : Hart) (f : BitVec 6) : (h.keepFlags f).xctl = h.xctl := by
  unfold Hart.keepFlags; split <;> rfl
@[simp] theorem keepFlags_gangid (h : Hart) (f : BitVec 6) : (h.keepFlags f).gangid = h.gangid := by
  unfold Hart.keepFlags; split <;> rfl
@[simp] theorem keepFlags_adesc (h : Hart) (f : BitVec 6) : (h.keepFlags f).adesc = h.adesc := by
  unfold Hart.keepFlags; split <;> rfl
@[simp] theorem keepFlags_conv (h : Hart) (f : BitVec 6) : (h.keepFlags f).conv = h.conv := by
  unfold Hart.keepFlags; split <;> rfl
@[simp] theorem keepFlags_waiting (h : Hart) (f : BitVec 6) : (h.keepFlags f).waiting = h.waiting := by
  unfold Hart.keepFlags; split <;> rfl
@[simp] theorem keepFlags_done (h : Hart) (f : BitVec 6) : (h.keepFlags f).done = h.done := by
  unfold Hart.keepFlags; split <;> rfl
@[simp] theorem keepFlags_taken (h : Hart) (f : BitVec 6) : (h.keepFlags f).taken = h.taken := by
  unfold Hart.keepFlags; split <;> rfl
@[simp] theorem keepFlags_sent (h : Hart) (f : BitVec 6) : (h.keepFlags f).sent = h.sent := by
  unfold Hart.keepFlags; split <;> rfl
@[simp] theorem keepFlags_lost (h : Hart) (f : BitVec 6) : (h.keepFlags f).lost = h.lost := by
  unfold Hart.keepFlags; split <;> rfl
@[simp] theorem keepFlags_fills (h : Hart) (f : BitVec 6) : (h.keepFlags f).fills = h.fills := by
  unfold Hart.keepFlags; split <;> rfl
@[simp] theorem keepFlags_vfills (h : Hart) (f : BitVec 6) : (h.keepFlags f).vfills = h.vfills := by
  unfold Hart.keepFlags; split <;> rfl
@[simp] theorem keepFlags_drain (h : Hart) (f : BitVec 6) : (h.keepFlags f).drain = h.drain := by
  unfold Hart.keepFlags; split <;> rfl
@[simp] theorem keepFlags_mflags (h : Hart) (f : BitVec 6) : (h.keepFlags f).mflags = h.mflags := by
  unfold Hart.keepFlags; split <;> rfl
@[simp] theorem keepFlags_buf (h : Hart) (f : BitVec 6) : (h.keepFlags f).buf = h.buf := by
  unfold Hart.keepFlags; split <;> rfl
@[simp] theorem keepFlags_bufLines (h : Hart) (f : BitVec 6) : (h.keepFlags f).bufLines = h.bufLines := by
  unfold Hart.keepFlags; split <;> rfl
@[simp] theorem keepFlags_bufTouch (h : Hart) (f : BitVec 6) : (h.keepFlags f).bufTouch = h.bufTouch := by
  unfold Hart.keepFlags; split <;> rfl
@[simp] theorem keepFlags_qcount (h : Hart) (f : BitVec 6) : (h.keepFlags f).qcount = h.qcount := by
  unfold Hart.keepFlags; split <;> rfl
@[simp] theorem keepFlags_qlim (h : Hart) (f : BitVec 6) : (h.keepFlags f).qlim = h.qlim := by
  unfold Hart.keepFlags; split <;> rfl
@[simp] theorem keepFlags_qend (h : Hart) (f : BitVec 6) : (h.keepFlags f).qend = h.qend := by
  unfold Hart.keepFlags; split <;> rfl
@[simp] theorem keepFlags_blocked (h : Hart) (f : BitVec 6) : (h.keepFlags f).blocked = h.blocked := by
  unfold Hart.keepFlags; split <;> rfl
@[simp] theorem keepFlags_go (h : Hart) (f : BitVec 6) : (h.keepFlags f).go = h.go := by
  unfold Hart.keepFlags; split <;> rfl
@[simp] theorem keepFlags_preqs (h : Hart) (f : BitVec 6) : (h.keepFlags f).preqs = h.preqs := by
  unfold Hart.keepFlags; split <;> rfl
@[simp] theorem keepFlags_cwait (h : Hart) (f : BitVec 6) : (h.keepFlags f).cwait = h.cwait := by
  unfold Hart.keepFlags; split <;> rfl
@[simp] theorem keepFlags_barrier (h : Hart) (f : BitVec 6) : (h.keepFlags f).barrier = h.barrier := by
  unfold Hart.keepFlags; split <;> rfl
@[simp] theorem keepFlags_released (h : Hart) (f : BitVec 6) : (h.keepFlags f).released = h.released := by
  unfold Hart.keepFlags; split <;> rfl
@[simp] theorem keepFlags_waitLeft (h : Hart) (f : BitVec 6) : (h.keepFlags f).waitLeft = h.waitLeft := by
  unfold Hart.keepFlags; split <;> rfl
@[simp] theorem keepFlags_skips (h : Hart) (f : BitVec 6) : (h.keepFlags f).skips = h.skips := by
  unfold Hart.keepFlags; split <;> rfl
@[simp] theorem keepFlags_age (h : Hart) (f : BitVec 6) : (h.keepFlags f).age = h.age := by
  unfold Hart.keepFlags; split <;> rfl
@[simp] theorem keepFlags_yielded (h : Hart) (f : BitVec 6) : (h.keepFlags f).yielded = h.yielded := by
  unfold Hart.keepFlags; split <;> rfl

@[simp] theorem takeFlags_queue (h : Hart) : (h.takeFlags).queue = h.queue := by
  unfold Hart.takeFlags; split <;> simp
@[simp] theorem takeFlags_hartid (h : Hart) : (h.takeFlags).hartid = h.hartid := by
  unfold Hart.takeFlags; split <;> simp
@[simp] theorem takeFlags_gang (h : Hart) : (h.takeFlags).gang = h.gang := by
  unfold Hart.takeFlags; split <;> simp
@[simp] theorem takeFlags_slot (h : Hart) : (h.takeFlags).slot = h.slot := by
  unfold Hart.takeFlags; split <;> simp
@[simp] theorem takeFlags_iter (h : Hart) : (h.takeFlags).iter = h.iter := by
  unfold Hart.takeFlags; split <;> simp
@[simp] theorem takeFlags_regs (h : Hart) : (h.takeFlags).regs = h.regs := by
  unfold Hart.takeFlags; split <;> simp
@[simp] theorem takeFlags_full (h : Hart) : (h.takeFlags).full = h.full := by
  unfold Hart.takeFlags; split <;> simp
@[simp] theorem takeFlags_poison (h : Hart) : (h.takeFlags).poison = h.poison := by
  unfold Hart.takeFlags; split <;> simp
@[simp] theorem takeFlags_poisonVal (h : Hart) : (h.takeFlags).poisonVal = h.poisonVal := by
  unfold Hart.takeFlags; split <;> simp
@[simp] theorem takeFlags_pc (h : Hart) : (h.takeFlags).pc = h.pc := by
  unfold Hart.takeFlags; split <;> simp
@[simp] theorem takeFlags_ci (h : Hart) : (h.takeFlags).ci = h.ci := by
  unfold Hart.takeFlags; split <;> simp
@[simp] theorem takeFlags_entry (h : Hart) : (h.takeFlags).entry = h.entry := by
  unfold Hart.takeFlags; split <;> simp
@[simp] theorem takeFlags_view (h : Hart) : (h.takeFlags).view = h.view := by
  unfold Hart.takeFlags; split <;> simp
@[simp] theorem takeFlags_vl (h : Hart) : (h.takeFlags).vl = h.vl := by
  unfold Hart.takeFlags; split <;> simp
@[simp] theorem takeFlags_vstart (h : Hart) : (h.takeFlags).vstart = h.vstart := by
  unfold Hart.takeFlags; split <;> simp
@[simp] theorem takeFlags_rows (h : Hart) : (h.takeFlags).rows = h.rows := by
  unfold Hart.takeFlags; split <;> simp
@[simp] theorem takeFlags_frm (h : Hart) : (h.takeFlags).frm = h.frm := by
  unfold Hart.takeFlags; split <;> simp
@[simp] theorem takeFlags_vstat (h : Hart) : (h.takeFlags).vstat = h.vstat := by
  unfold Hart.takeFlags; split <;> simp
@[simp] theorem takeFlags_lb0 (h : Hart) : (h.takeFlags).lb0 = h.lb0 := by
  unfold Hart.takeFlags; split <;> simp
@[simp] theorem takeFlags_le0 (h : Hart) : (h.takeFlags).le0 = h.le0 := by
  unfold Hart.takeFlags; split <;> simp
@[simp] theorem takeFlags_lc0 (h : Hart) : (h.takeFlags).lc0 = h.lc0 := by
  unfold Hart.takeFlags; split <;> simp
@[simp] theorem takeFlags_lb1 (h : Hart) : (h.takeFlags).lb1 = h.lb1 := by
  unfold Hart.takeFlags; split <;> simp
@[simp] theorem takeFlags_le1 (h : Hart) : (h.takeFlags).le1 = h.le1 := by
  unfold Hart.takeFlags; split <;> simp
@[simp] theorem takeFlags_lc1 (h : Hart) : (h.takeFlags).lc1 = h.lc1 := by
  unfold Hart.takeFlags; split <;> simp
@[simp] theorem takeFlags_uh (h : Hart) : (h.takeFlags).uh = h.uh := by
  unfold Hart.takeFlags; split <;> simp
@[simp] theorem takeFlags_tcode (h : Hart) : (h.takeFlags).tcode = h.tcode := by
  unfold Hart.takeFlags; split <;> simp
@[simp] theorem takeFlags_tpc (h : Hart) : (h.takeFlags).tpc = h.tpc := by
  unfold Hart.takeFlags; split <;> simp
@[simp] theorem takeFlags_tci (h : Hart) : (h.takeFlags).tci = h.tci := by
  unfold Hart.takeFlags; split <;> simp
@[simp] theorem takeFlags_tval (h : Hart) : (h.takeFlags).tval = h.tval := by
  unfold Hart.takeFlags; split <;> simp
@[simp] theorem takeFlags_uhpc (h : Hart) : (h.takeFlags).uhpc = h.uhpc := by
  unfold Hart.takeFlags; split <;> simp
@[simp] theorem takeFlags_uwatch (h : Hart) : (h.takeFlags).uwatch = h.uwatch := by
  unfold Hart.takeFlags; split <;> simp
@[simp] theorem takeFlags_ph (h : Hart) : (h.takeFlags).ph = h.ph := by
  unfold Hart.takeFlags; split <;> simp
@[simp] theorem takeFlags_ppv (h : Hart) : (h.takeFlags).ppv = h.ppv := by
  unfold Hart.takeFlags; split <;> simp
@[simp] theorem takeFlags_ptcode (h : Hart) : (h.takeFlags).ptcode = h.ptcode := by
  unfold Hart.takeFlags; split <;> simp
@[simp] theorem takeFlags_ptpc (h : Hart) : (h.takeFlags).ptpc = h.ptpc := by
  unfold Hart.takeFlags; split <;> simp
@[simp] theorem takeFlags_ptci (h : Hart) : (h.takeFlags).ptci = h.ptci := by
  unfold Hart.takeFlags; split <;> simp
@[simp] theorem takeFlags_ptval (h : Hart) : (h.takeFlags).ptval = h.ptval := by
  unfold Hart.takeFlags; split <;> simp
@[simp] theorem takeFlags_tvec (h : Hart) : (h.takeFlags).tvec = h.tvec := by
  unfold Hart.takeFlags; split <;> simp
@[simp] theorem takeFlags_la (h : Hart) : (h.takeFlags).la = h.la := by
  unfold Hart.takeFlags; split <;> simp
@[simp] theorem takeFlags_det (h : Hart) : (h.takeFlags).det = h.det := by
  unfold Hart.takeFlags; split <;> simp
@[simp] theorem takeFlags_detq (h : Hart) : (h.takeFlags).detq = h.detq := by
  unfold Hart.takeFlags; split <;> simp
@[simp] theorem takeFlags_prof (h : Hart) : (h.takeFlags).prof = h.prof := by
  unfold Hart.takeFlags; split <;> simp
@[simp] theorem takeFlags_skew (h : Hart) : (h.takeFlags).skew = h.skew := by
  unfold Hart.takeFlags; split <;> simp
@[simp] theorem takeFlags_droop (h : Hart) : (h.takeFlags).droop = h.droop := by
  unfold Hart.takeFlags; split <;> simp
@[simp] theorem takeFlags_ctxbase (h : Hart) : (h.takeFlags).ctxbase = h.ctxbase := by
  unfold Hart.takeFlags; split <;> simp
@[simp] theorem takeFlags_xctl (h : Hart) : (h.takeFlags).xctl = h.xctl := by
  unfold Hart.takeFlags; split <;> simp
@[simp] theorem takeFlags_gangid (h : Hart) : (h.takeFlags).gangid = h.gangid := by
  unfold Hart.takeFlags; split <;> simp
@[simp] theorem takeFlags_adesc (h : Hart) : (h.takeFlags).adesc = h.adesc := by
  unfold Hart.takeFlags; split <;> simp
@[simp] theorem takeFlags_waiting (h : Hart) : (h.takeFlags).waiting = h.waiting := by
  unfold Hart.takeFlags; split <;> simp
@[simp] theorem takeFlags_done (h : Hart) : (h.takeFlags).done = h.done := by
  unfold Hart.takeFlags; split <;> simp
@[simp] theorem takeFlags_taken (h : Hart) : (h.takeFlags).taken = h.taken := by
  unfold Hart.takeFlags; split <;> simp
@[simp] theorem takeFlags_sent (h : Hart) : (h.takeFlags).sent = h.sent := by
  unfold Hart.takeFlags; split <;> simp
@[simp] theorem takeFlags_lost (h : Hart) : (h.takeFlags).lost = h.lost := by
  unfold Hart.takeFlags; split <;> simp
@[simp] theorem takeFlags_fills (h : Hart) : (h.takeFlags).fills = h.fills := by
  unfold Hart.takeFlags; split <;> simp
@[simp] theorem takeFlags_vfills (h : Hart) : (h.takeFlags).vfills = h.vfills := by
  unfold Hart.takeFlags; split <;> simp
@[simp] theorem takeFlags_drain (h : Hart) : (h.takeFlags).drain = h.drain := by
  unfold Hart.takeFlags; split <;> simp
@[simp] theorem takeFlags_buf (h : Hart) : (h.takeFlags).buf = h.buf := by
  unfold Hart.takeFlags; split <;> simp
@[simp] theorem takeFlags_bufLines (h : Hart) : (h.takeFlags).bufLines = h.bufLines := by
  unfold Hart.takeFlags; split <;> simp
@[simp] theorem takeFlags_bufTouch (h : Hart) : (h.takeFlags).bufTouch = h.bufTouch := by
  unfold Hart.takeFlags; split <;> simp
@[simp] theorem takeFlags_qcount (h : Hart) : (h.takeFlags).qcount = h.qcount := by
  unfold Hart.takeFlags; split <;> simp
@[simp] theorem takeFlags_qlim (h : Hart) : (h.takeFlags).qlim = h.qlim := by
  unfold Hart.takeFlags; split <;> simp
@[simp] theorem takeFlags_qend (h : Hart) : (h.takeFlags).qend = h.qend := by
  unfold Hart.takeFlags; split <;> simp
@[simp] theorem takeFlags_blocked (h : Hart) : (h.takeFlags).blocked = h.blocked := by
  unfold Hart.takeFlags; split <;> simp
@[simp] theorem takeFlags_go (h : Hart) : (h.takeFlags).go = h.go := by
  unfold Hart.takeFlags; split <;> simp
@[simp] theorem takeFlags_preqs (h : Hart) : (h.takeFlags).preqs = h.preqs := by
  unfold Hart.takeFlags; split <;> simp
@[simp] theorem takeFlags_cwait (h : Hart) : (h.takeFlags).cwait = h.cwait := by
  unfold Hart.takeFlags; split <;> simp
@[simp] theorem takeFlags_barrier (h : Hart) : (h.takeFlags).barrier = h.barrier := by
  unfold Hart.takeFlags; split <;> simp
@[simp] theorem takeFlags_released (h : Hart) : (h.takeFlags).released = h.released := by
  unfold Hart.takeFlags; split <;> simp
@[simp] theorem takeFlags_waitLeft (h : Hart) : (h.takeFlags).waitLeft = h.waitLeft := by
  unfold Hart.takeFlags; split <;> simp
@[simp] theorem takeFlags_skips (h : Hart) : (h.takeFlags).skips = h.skips := by
  unfold Hart.takeFlags; split <;> simp
@[simp] theorem takeFlags_age (h : Hart) : (h.takeFlags).age = h.age := by
  unfold Hart.takeFlags; split <;> simp
@[simp] theorem takeFlags_yielded (h : Hart) : (h.takeFlags).yielded = h.yielded := by
  unfold Hart.takeFlags; split <;> simp

end Sys2Proof.Laws
end

