-- ==== Sys2Proof/Laws/Regs.lean ====
section
/-! SUPPORT. Scalar registers (R65 to R68) and taking a trap (R368): what each shared operation leaves. -/

namespace Sys2Proof.Laws

open Sys2Proof Sys2Proof.Machine

/-! ## Registers -/

@[simp] theorem reg_zero (h : Hart) : h.reg 0 = 0 := rfl

/-- A register after a write: a write to s0 is discarded. -/
theorem reg_setReg (h : Hart) (d r : Reg) (v : W64) :
    (h.setReg d v).reg r = if r = d ∧ d ≠ 0 then v else h.reg r := by
  unfold Hart.setReg Hart.reg
  by_cases hd : d = 0
  · simp [hd]
  · simp only [hd, if_false, ne_eq, not_false_eq_true, and_true]
    by_cases hr : r = 0
    · have : ¬ r = d := fun x => hd (x ▸ hr)
      simp only [hr, if_true]
      rw [if_neg (fun x => hd x.symm)]
    · simp only [hr, if_false]
      rw [Vector.getElem_set]
      by_cases he : r = d
      · simp [he]
      · rw [if_neg he, if_neg]
        intro x
        exact he (BitVec.eq_of_toNat_eq x.symm)

theorem reg_setReg_same (h : Hart) (d : Reg) (v : W64) (hd : d ≠ 0) : (h.setReg d v).reg d = v := by
  rw [reg_setReg, if_pos ⟨rfl, hd⟩]

theorem reg_setReg_other (h : Hart) {d r : Reg} (v : W64) (hr : r ≠ d) : (h.setReg d v).reg r = h.reg r := by
  rw [reg_setReg, if_neg (fun x => hr x.1)]

@[simp] theorem reg_advance (h : Hart) (r : Reg) : h.advance.reg r = h.reg r := rfl

@[simp] theorem reg_raise (h : Hart) (f : BitVec 6) (r : Reg) : (h.raise f).reg r = h.reg r := rfl

theorem reg_congr {h h' : Hart} (e : h'.regs = h.regs) (r : Reg) : h'.reg r = h.reg r := by
  simp [Hart.reg, e]

/-- A register on its way keeps its value until it is delivered. -/
@[simp] theorem reg_empty (h : Hart) (d r : Reg) : (h.empty d).reg r = h.reg r := reg_congr (empty_regs h d) r

@[simp] theorem reg_later (h : Hart) (d r : Reg) (v : W64) : (h.later d v).reg r = h.reg r := reg_congr (later_regs h d v) r

@[simp] theorem reg_laterPoison (h : Hart) (d r : Reg) (v : W64) : (h.laterPoison d v).reg r = h.reg r :=
  reg_congr (laterPoison_regs h d v) r

/-- A write fills its register and clears its poison mark (R66, R68); s0 is always full. -/
theorem isFull_setReg (h : Hart) (d : Reg) (v : W64) : (h.setReg d v).isFull d = true := by
  unfold Hart.isFull Hart.setReg
  by_cases hd : d = 0
  · simp [hd]
  · have := d.isLt
    simp only [hd, if_false]
    have e : (1#64 <<< d.toNat).getLsbD d.toNat = true := by
      rw [BitVec.getLsbD_shiftLeft]
      simp
      omega
    simp [BitVec.getLsbD_or, e]

/-! ## Taking a trap (R368, R373) -/

/-- A trap whose handler there is: the hart is in it. -/
theorem takeTrap_some {s : State} {id : Nat} {h h' : Hart} {c : Cause} {addr : W64} {k : Nat} {tval : W64}
    (e : h.dropConv.trapped c addr k tval = some h') : s.takeTrap id h c addr k tval = s.putHart id h' := by
  simp only [State.takeTrap, e]

/-- A trap with no handler ends the launch. -/
theorem takeTrap_none {s : State} {id : Nat} {h : Hart} {c : Cause} {addr : W64} {k : Nat} {tval : W64}
    (e : h.dropConv.trapped c addr k tval = none) :
    s.takeTrap id h c addr k tval =
      (s.putHart id { h.dropConv with conv := none }).endLaunch h.queue c.code addr tval h.hartid := by
  simp only [State.takeTrap, e]

@[simp] theorem endLaunch_mem (s : State) (q st : Nat) (pc v : W64) (n : Nat) : (s.endLaunch q st pc v n).mem = s.mem := by
  unfold State.endLaunch
  split
  · split <;> rfl
  · rfl

@[simp] theorem endLaunch_redirects (s : State) (q st : Nat) (pc v : W64) (n : Nat) :
    (s.endLaunch q st pc v n).redirects = s.redirects := by
  unfold State.endLaunch
  split
  · split <;> rfl
  · rfl

@[simp] theorem endLaunch_rows (s : State) (q st : Nat) (pc v : W64) (n : Nat) : (s.endLaunch q st pc v n).rows = s.rows := by
  unfold State.endLaunch
  split
  · split <;> rfl
  · rfl

@[simp] theorem endLaunch_harts (s : State) (q st : Nat) (pc v : W64) (n : Nat) : (s.endLaunch q st pc v n).harts = s.harts := by
  unfold State.endLaunch
  split
  · split <;> rfl
  · rfl

/-- Taking a trap changes no byte of memory, no redirect and no row. -/
theorem takeTrap_keeps (s : State) (id : Nat) (h : Hart) (c : Cause) (addr : W64) (k : Nat) (tval : W64) :
    (s.takeTrap id h c addr k tval).mem = s.mem ∧ (s.takeTrap id h c addr k tval).redirects = s.redirects ∧
    (s.takeTrap id h c addr k tval).rows = s.rows := by
  unfold State.takeTrap
  split <;> simp

/-! ## Rows (R92, R99) -/

/-- With no upset listed, a row as a pass sees it is the row. -/
theorem rawRow_clean (s : State) (k : Nat) (h : s.upsets = []) : s.rawRow k = s.rowAt k := by
  simp [State.rawRow, h]

/-- With no upset listed, nothing is corrected. -/
theorem mendGroup_clean (s : State) (k d : Nat) (h : s.upsets = []) : s.mendGroup k d = s := by
  simp [State.mendGroup, h]

theorem mendRow_rows (s : State) (k start width : Nat) (h : s.upsets = []) : (s.mendRow k start width).rows = s.rows := by
  unfold State.mendRow
  simp only
  split <;> rw [if_pos (by simp [h])]

/-- A row after a field of a row is written. -/
theorem rowAt_writeRow (s : State) (k n start width v : Nat) (h : s.upsets = []) :
    (s.writeRow k start width v).rowAt n =
      if n = k then { s.rowAt k with data := putBits (s.rowAt k).data start width v } else s.rowAt n := by
  unfold State.writeRow
  simp only
  rw [rowAt_putRow]
  simp only [State.rowAt, mendRow_rows s k start width h]

/-- A row after words of a row are marked. -/
theorem rowAt_markRow (s : State) (k n : Nat) (m : BitVec 16) (full : Bool) (h : s.upsets = []) :
    (s.markRow k m full).rowAt n =
      if n = k then { s.rowAt k with full := if full then (s.rowAt k).full ||| m else (s.rowAt k).full &&& ~~~m }
      else s.rowAt n := by
  unfold State.markRow
  simp only
  rw [mendGroup_clean s k 8 h, rowAt_putRow]

/-- A row after a tag of a row is set. -/
theorem rowAt_tagRow (s : State) (k n : Nat) (t : Tag) (b : Bool) (h : s.upsets = []) :
    (s.tagRow k t b).rowAt n =
      if n = k then
        { s.rowAt k with
          tags := if b then (s.rowAt k).tags ||| (1#8 <<< t.toNat) else (s.rowAt k).tags &&& ~~~(1#8 <<< t.toNat) }
      else s.rowAt n := by
  unfold State.tagRow
  simp only
  rw [mendGroup_clean s k 8 h, rowAt_putRow]

end Sys2Proof.Laws
end

