-- ==== Sys2Proof/Laws/Run.lean ====
section
/-! SUPPORT. What an instruction goes through around its own effect, said once: an instruction that runs has its effect and
advances; what a completion, a stop and a wait leave. -/

namespace Sys2Proof.Laws

open Sys2Proof Sys2Proof.Machine

/-! ## Before the effect -/

theorem rightCheck_none (h : Hart) (g : Gang) (i : Instr) (h1 : shapeIllegal h g i = false) (h2 : lacksRight h i = false) :
    rightCheck h g i = none := by
  simp [rightCheck, h1, h2]

theorem readiness_ready (h : Hart) (f : Foot) (hs : ∀ x ∈ f.src, h.isFull x.1 = true ∧ h.isPoisoned x.1 = false)
    (hd : h.barrier.isNone = true → ∀ r ∈ f.dst, h.isFull r = true ∨ h.isPoisoned r = true) : readiness h f = .ready := by
  have h1 : f.src.find? (fun x => h.isPoisoned x.1) = none := by
    rw [List.find?_eq_none]
    intro x hx
    simp [(hs x hx).2]
  have h2 : (f.src.any fun x => !h.isFull x.1) = false := by
    rw [List.any_eq_false]
    intro x hx
    simp [(hs x hx).1]
  have h3 : (h.barrier.isNone && f.dst.any fun r => !h.isFull r && !h.isPoisoned r) = false := by
    cases hb : h.barrier.isNone
    · rfl
    · simp only [Bool.true_and, List.any_eq_false]
      intro r hr
      rcases hd hb r hr with h | h <;> simp [h]
  simp only [readiness, h1, h2, h3, Bool.false_eq_true, if_false]

/-- Nothing stands before the effect of an instruction that runs. -/
theorem before_none {i : Instr} {s : State} {id : Nat} {h : Hart} {g : Gang} (r : Runs i s id h g) :
    before i s id h g = none := by
  obtain ⟨⟨-, -, -, -, -, h1, h2, h3, h4, hv0, hb, -, h5, h6, h7, h8, h9⟩, h10⟩ := r
  have hr := readiness_ready h (foot h i) h4 (fun _ r hr => .inl (h10 r hr))
  have hl : landed h (foot h i) = true := by simp [landed, h6]
  have hv : ¬ h.vlmax g < h.vl := Nat.not_lt.mpr h5
  have hd : (h.det && !h.go && (isSync i || s.committing h.queue)) = false := by
    cases hd : h.det <;> cases hs : isSync i <;> cases hc : s.committing h.queue <;> simp_all
  have hc : (if h.gatesChecked then none else rightCheck h g i) = none := by
    split
    · rfl
    · exact rightCheck_none h g i h1 h2
  have hx : s.lateCheck h g i = none := by
    unfold State.lateCheck
    split
    · exact h3
    · rfl
  unfold before
  simp only [hc, hr, hx, hv0, hb, hv, decide_false, Bool.and_false, Bool.false_eq_true, if_false, hd, hl, h7, h8, Bool.not_true,
    Bool.or_self]

/-- An instruction that runs comes to what its effect comes to. -/
theorem run_of_runs {i : Instr} {s : State} {id : Nat} {h : Hart} {g : Gang} (r : Runs i s id h g)
    (body : State → Nat → Hart → Gang → Nat → Res) : run i body s = conclude id (body s id h g (h.vlmax g)) := by
  have hb := before_none r
  obtain ⟨⟨h1, h2, h3, h4, h5, -⟩, -⟩ := r
  have hl : elemLimit h g = h.vlmax g := by
    unfold stopped at h5
    unfold elemLimit
    split
    · rename_i c hc
      simp only [hc] at h5
      split
      · rename_i st hst
        simp [hst] at h5
      · rfl
    · rfl
  unfold run
  simp only [h1, h2, h3, h5, Bool.false_and, Bool.false_eq_true, if_false, hb, hl]

theorem conclude_done (id : Nat) (s : State) : conclude id (.done s) = .next (finished s id) := rfl

/-- An instruction that runs and whose effect is done completes. -/
theorem run_done {i : Instr} {s u : State} {id : Nat} {h : Hart} {g : Gang} (r : Runs i s id h g)
    {body : State → Nat → Hart → Gang → Nat → Res} (e : body s id h g (h.vlmax g) = .done u) :
    run i body s = .next (finished u id) := by
  rw [run_of_runs r, e]
  rfl

/-- An instruction whose effect is on the hart alone. -/
theorem runHart_runs {i : Instr} {s : State} {id : Nat} {h : Hart} {g : Gang} (r : Runs i s id h g) (f : Hart → Hart) :
    runHart i f s = .next (finishedWith s id (f h)) := run_done r rfl

/-- An instruction that writes one register from the hart's registers. -/
theorem runReg_runs {i : Instr} {s : State} {id : Nat} {h : Hart} {g : Gang} (r : Runs i s id h g) (d : Reg) (f : Hart → W64) :
    runReg i d f s = .next (finishedWith s id (h.setReg d (f h))) := runHart_runs r _

/-! ## After the effect -/

theorem onHart_of {s : State} {id : Nat} {h : Hart} (e : s.hartAt id = some h) (f : Hart → Hart) :
    s.onHart id f = s.putHart id (f h) := by
  unfold State.onHart
  rw [e]

@[simp] theorem onHart_mem (s : State) (id : Nat) (f : Hart → Hart) : (s.onHart id f).mem = s.mem := by
  unfold State.onHart
  split <;> rfl

@[simp] theorem onHart_rowAt (s : State) (id : Nat) (f : Hart → Hart) (k : Nat) : (s.onHart id f).rowAt k = s.rowAt k := by
  unfold State.onHart
  split <;> rfl

@[simp] theorem onHart_memByte (s : State) (id : Nat) (f : Hart → Hart) (a : Nat) : (s.onHart id f).memByte a = s.memByte a := by
  unfold State.onHart
  split
  · exact putHart_memByte _ _ _ _
  · rfl

@[simp] theorem onHart_coreAt (s : State) (id : Nat) (f : Hart → Hart) (p : Nat) : (s.onHart id f).coreAt p = s.coreAt p := by
  unfold State.onHart
  split <;> rfl

@[simp] theorem onHart_gangAt (s : State) (id : Nat) (f : Hart → Hart) (k : Nat) : (s.onHart id f).gangAt k = s.gangAt k := by
  unfold State.onHart
  split <;> rfl

@[simp] theorem onHart_lqAt (s : State) (id : Nat) (f : Hart → Hart) (q : Nat) : (s.onHart id f).lqAt q = s.lqAt q := by
  unfold State.onHart
  split <;> rfl

/-- The hart of a completed instruction is its hart, advanced. -/
theorem hartAt_finished {s : State} {id : Nat} {h : Hart} (e : s.hartAt id = some h) :
    (finished s id).hartAt id = some h.advance := by
  unfold finished
  rw [onHart_of e]
  simp

theorem hartAt_finished_other {s : State} {id n : Nat} (hn : n ≠ id) : (finished s id).hartAt n = s.hartAt n := by
  unfold finished
  simp only [dropAnswers_hartAt]
  unfold State.onHart
  split
  · simp [hartAt_putHart, hn]
  · rfl

@[simp] theorem finished_memByte (s : State) (id a : Nat) : (finished s id).memByte a = s.memByte a := by
  simp [finished]

@[simp] theorem finished_rowAt (s : State) (id k : Nat) : (finished s id).rowAt k = s.rowAt k := by
  simp [finished]

@[simp] theorem finished_coreAt (s : State) (id p : Nat) : (finished s id).coreAt p = s.coreAt p := by
  simp [finished]

@[simp] theorem finished_gangAt (s : State) (id k : Nat) : (finished s id).gangAt k = s.gangAt k := by
  simp [finished]

@[simp] theorem finished_lqAt (s : State) (id q : Nat) : (finished s id).lqAt q = s.lqAt q := by
  simp [finished]

@[simp] theorem finished_mem (s : State) (id : Nat) : (finished s id).mem = s.mem := by
  simp [finished]

theorem hartAt_finishedWith (s : State) (id : Nat) (h : Hart) : (finishedWith s id h).hartAt id = some h.advance :=
  hartAt_finished (hartAt_putHart_same s id h)

theorem hartAt_finishedWith_other (s : State) (id n : Nat) (h : Hart) (hn : n ≠ id) :
    (finishedWith s id h).hartAt n = s.hartAt n :=
  (hartAt_finished_other hn).trans (by simp [hartAt_putHart, hn])

@[simp] theorem finishedWith_memByte (s : State) (id a : Nat) (h : Hart) : (finishedWith s id h).memByte a = s.memByte a := by
  simp [finishedWith]

@[simp] theorem finishedWith_rowAt (s : State) (id k : Nat) (h : Hart) : (finishedWith s id h).rowAt k = s.rowAt k := by
  simp [finishedWith]

/-! ## What a step of an instruction can come to -/

/-- Every instruction with a hart to run it goes on: its result is a next state. -/
theorem conclude_next (id : Nat) (r : Res) : ∃ t, conclude id r = .next t := by
  cases r with
  | done s => exact ⟨_, rfl⟩
  | stop s c tval e =>
    unfold conclude
    simp only
    split
    · exact ⟨_, rfl⟩
    · split <;> exact ⟨_, rfl⟩
  | pause s e => exact ⟨_, rfl⟩
  | wait s => exact ⟨_, rfl⟩
  | busy s => exact ⟨_, rfl⟩

/-- An instruction goes on whenever its hart and its gang are there. -/
theorem run_next (i : Instr) (body : State → Nat → Hart → Gang → Nat → Res) (s : State) (id : Nat) (h : Hart) (g : Gang)
    (h1 : s.cur = some id) (h2 : s.hartAt id = some h) (h3 : s.gangAt h.gang = some g) : ∃ t, run i body s = .next t := by
  unfold run
  simp only [h1, h2, h3]
  split
  · exact conclude_next _ _
  · split <;> exact conclude_next _ _

end Sys2Proof.Laws
end

