-- ==== Sys2Proof/Tests/Slice0.lean ====
section
/-! SUPPORT. The model's own tests: an ill-formed term for each check of WellFormed, words written out from the spec's
encodings, a state that meets the hypotheses of each statement, and a step or two of an instruction by hand. -/

namespace Sys2Proof.Tests

open Sys2Proof Sys2Proof.Machine Sys2Proof.Claims

-- One check at a time: many long checks at once take more threads than a build may have.
set_option Elab.async false

/-! ## Forms to start from -/

/-- Field operand f(s, w) as R46 encodes it. -/
def F (s w : Nat) : BitVec 15 := BitVec.ofNat 15 (s + 512 * (w - 1))

/-- A V form of a type on three fields. -/
def vf (ty : Nat) (d a b : BitVec 15) : VForm :=
  { mask := 0, ord := false, D := d, A := a, B := b, pa := false, pb := false, type := BitVec.ofNat 5 ty, fn4 := 0, x := 0 }

/-- An S form with no policy bits. -/
def sf (d a b : Reg) (so : BitVec 2) (ext : Nat) : SForm := ⟨d, a, b, false, false, so, BitVec.ofNat 32 ext⟩

/-- D, A, B three words of 32 bits, signed. -/
def v3 : VForm := vf 1 (F 64 32) (F 0 32) (F 32 32)
/-- The same without B. -/
def v2 : VForm := vf 1 (F 64 32) (F 0 32) 0
/-- FP32 on three fields, and on two. -/
def f3 : VForm := vf 2 (F 64 32) (F 0 32) (F 32 32)
def f2 : VForm := vf 2 (F 64 32) (F 0 32) 0
/-- BF16 on three fields. -/
def h3 : VForm := vf 3 (F 64 16) (F 0 16) (F 32 16)

/-- None of the terms is well formed. -/
def refused (l : List Instr) : Bool := l.all fun i => !WellFormed i
/-- Every term is well formed. -/
def accepted (l : List Instr) : Bool := l.all WellFormed

/-! ## WellFormed: one term for each check -/

/-- R42, R50, R111: control registers, fences, loops and the tag instructions. -/
theorem test_illformed_c : refused
    [.fence 0, .fence 0x100, .fence 0x02D, .fence 0x020, .fence 0x008, .fence 0x0A8, .loop false 1 0, .crd 1 0x007, .crd 1 0x013,
     .crd 1 0x026, .crd 1 0x036, .crd 1 0x045, .crd 1 0x051, .crd 1 0x064, .crd 1 0x073, .crd 1 0x085, .cwr 1 0x0A0,
     .tand 0 1 2 ⟨false, 1, false⟩, .tor 0 1 2 ⟨false, 0, true⟩, .txor 0 1 2 ⟨false, 1, false⟩, .tandn 0 1 2 ⟨false, 1, false⟩,
     .tnot 0 1 ⟨false, 1, false⟩, .tset 0 ⟨false, 1, false⟩, .tclr 0 ⟨false, 1, false⟩, .tmov 0 1 ⟨false, 1, false⟩,
     .tcnt 0 1 ⟨false, 1, false⟩, .tany 0 1 ⟨false, 1, false⟩, .tfirst 0 1 ⟨false, 1, false⟩,
     .tpick 0 1 2 ⟨false, 1, false⟩, .tpick 1 1 2 Mask.none] = true := by decide +kernel

/-- R78, R81, R85, R91: the scalar S and L forms. -/
theorem test_illformed_scalar : refused
    [.addw (sf 1 2 3 0 5), .addw { sf 1 2 0 0 5 with pb := true }, .addw (sf 1 2 0 1 5), .movw (sf 1 2 0 0 5),
     .movw (sf 1 0 2 0 5), .movw { sf 1 0 0 0 5 with pa := true }, .movw { sf 1 0 0 0 5 with pb := true }, .movw (sf 1 0 0 1 5),
     .movhi (sf 1 2 3 0 5), .movhi { sf 1 2 0 0 5 with pb := true }, .movhi (sf 1 2 0 1 5),
     .lds (sf 1 2 3 3 0), .lds { sf 1 2 0 3 0 with pb := true }, .lds (sf 1 2 0 3 0x40000000), .lds (sf 1 2 0 3 0x2A000000),
     .lds (sf 1 2 0 3 0x06000000), .lds (sf 1 2 0 3 0x08000000), .sts (sf 1 2 0 3 0x01000000), .sts (sf 1 2 3 3 0),
     .bc (sf 6 2 3 0 4), .bc (sf 0 2 3 1 4), .jl (sf 1 0 0 0 4), .jl (sf 0 1 0 0 4), .jl (sf 0 0 1 0 4),
     .jl { sf 0 0 0 0 4 with pa := true }, .jl { sf 0 0 0 0 4 with pb := true }, .jl (sf 0 0 0 1 4),
     .sel (sf 1 2 3 0 64), .sel (sf 1 2 3 1 4), .bext (sf 1 2 3 0 0), .bext { sf 1 2 0 0 0 with pb := true },
     .bext (sf 1 2 0 0 0x2000), .bext (sf 1 2 0 0 0x0FC5), .bext (sf 1 2 0 1 0), .bins (sf 1 2 3 0 0x1000),
     .bins (sf 1 2 3 0 0x0FC5), .bins (sf 1 2 3 1 0), .lpset (sf 1 2 3 0 2), .lpset (sf 1 2 3 1 0),
     .movl (sf 1 2 0 0 0) 0, .movl (sf 1 0 2 0 0) 0, .movl { sf 1 0 0 0 0 with pa := true } 0,
     .movl { sf 1 0 0 0 0 with pb := true } 0, .movl (sf 1 0 0 1 0) 0, .addl (sf 1 2 3 0 0) 0,
     .addl { sf 1 2 0 0 0 with pb := true } 0, .addl (sf 1 2 0 1 0) 0, .andl (sf 1 2 3 0 0) 0, .orl (sf 1 2 3 0 0) 0,
     .xorl (sf 1 2 3 0 0) 0, .bcl (sf 6 2 0 0 0) 0, .bcl (sf 0 2 3 0 0) 0, .bcl { sf 0 2 0 0 0 with pb := true } 0,
     .bcl (sf 0 2 0 1 0) 0, .loopl (sf 2 0 0 0 4) 1, .loopl (sf 0 1 0 0 4) 1, .loopl (sf 0 0 1 0 4) 1,
     .loopl { sf 0 0 0 0 4 with pa := true } 1, .loopl { sf 0 0 0 0 4 with pb := true } 1, .loopl (sf 0 0 0 1 4) 1,
     .loopl (sf 0 0 0 0 0) 1] = true := by decide +kernel

/-- R106, R110, R116: searches, tagged writes, tag shifts and microcode. -/
theorem test_illformed_assoc : refused
    [.asrch (sf 1 2 3 0 0x3E00), .asrch (sf 0 2 3 1 0x3E00), .asrch (sf 0 2 3 0 0x2003E00), .asrch (sf 0 2 3 0 0x103E00),
     .asrch (sf 0 2 3 0 0x3FFF), .awr (sf 0 2 3 0 0xC3E00), .awr (sf 0 2 3 0 0x0BE00), .awr (sf 1 2 3 0 0x3E00),
     .asrchl (sf 1 2 0 0 0x3E00), .asrchl (sf 0 2 0 0 0x2003E00), .asrchl (sf 0 2 0 0 0x103E00), .asrchl (sf 0 2 0 0 0x3FFF),
     .asrchl (sf 0 16 0 0 0x0600), .awrl (sf 0 2 0 0 0x0BE00), .awrl (sf 0 2 0 0 0xC3E00), .awrl (sf 0 16 0 0 0x0600),
     .tshup (sf 1 2 0 0 0x8000), .tshup (sf 0 2 1 0 0x8000), .tshup { sf 0 2 0 0 0x8000 with pb := true },
     .tshup (sf 0 2 0 1 0x8000), .tshup (sf 0 2 0 0 0x8008), .tshdn (sf 0 2 0 0 0x88000), .tshdn (sf 0 2 0 0 0x2008000),
     .tshdn (sf 0 2 0 0 0x108000), .tshdn (sf 0 2 0 0 0x8001), .amcodeRun (sf 0 1 2 1 0xC00), .amcodeRun (sf 1 1 2 0 0xC00),
     .amcodeRun (sf 0 1 2 0 0xBFF), .amcodeRun (sf 0 1 2 0 0x1C00), .amcodeRun (sf 0 1 2 0 0x2000C00),
     .amcodeRun (sf 0 1 2 0 0x100C00), .amcodeLoad (sf 0 1 2 0 0xC00), .amcodeLoad (sf 0 1 2 1 0x800C00)] = true := by
  decide +kernel

/-- R47, R48, R133, R134: the binary and unary associative arithmetic. -/
theorem test_illformed_arith : refused
    [.vadd { v3 with mask := 1 }, .vadd { v3 with fn4 := 8 }, .vadd { v3 with ord := true }, .vadd { v3 with type := 8 },
     .vadd f3, .vadds h3, .vadd { v3 with D := F 500 32 }, .vadd { v3 with A := F 500 32 }, .vadd { v3 with D := F 64 16 },
     .vadd { h3 with D := F 64 32, A := F 0 32, B := F 32 32 }, .vadd { v3 with fn4 := 3 }, .vadd { v3 with B := F 500 32 },
     .vadd { v3 with B := F 32 16 }, .vadd { v3 with x := 1 }, .vadd { v3 with fn4 := 1, B := 64 },
     .vadd { v3 with fn4 := 1, B := 3, x := 1 }, .vadd { v3 with fn4 := 2 }, .vadd { v3 with fn4 := 2, B := 0, pb := true },
     .vadd { h3 with fn4 := 2, B := 0, x := 0x10000 }, .vadd { v3 with fn4 := 4 }, .vadd { v3 with D := F 16 32 },
     .vadd { v3 with D := F 40 32 }, .vsub { v3 with fn4 := 4 }, .vsubs h3, .vabsd h3, .vmin f3, .vmax f3, .vand h3, .vor h3,
     .vxor h3, .vshl v3, .vshr { v3 with fn4 := 5, B := 3 }, .vsra { v3 with fn4 := 1, B := 3, type := 0 },
     .vneg { v2 with type := 2 }, .vneg { v2 with D := F 64 16 }, .vneg { v2 with B := 1 }, .vneg { v2 with fn4 := 1 },
     .vneg { v2 with x := 1 }, .vneg { v2 with type := 0, fn4 := 4 }, .vneg { v2 with D := F 16 32 }, .vabs { v2 with type := 0 },
     .vnot { v2 with fn4 := 4 }, .vpopc v2, .vpopc { v2 with type := 0, B := 1 }, .vpopc { v2 with type := 0, fn4 := 1 },
     .vpopc { v2 with type := 0, x := 1 }, .vpopc { v2 with type := 0, D := F 16 32 }, .vpopc { v2 with type := 0, D := F 500 32 },
     .vpopc { v2 with type := 0, A := F 500 32 }] = true := by decide +kernel

/-- R134, R138, R142: products, VMULH, VMAC and VDIV. -/
theorem test_illformed_products : refused
    [.vmul { v3 with type := 2 }, .vmul { v3 with D := F 500 32 }, .vmul { v3 with A := F 500 32 },
     .vmul { h3 with A := F 0 32, B := F 32 32 }, .vmul { v3 with D := F 64 16 }, .vmul { v3 with fn4 := 3 },
     .vmul { h3 with fn4 := 4 }, .vmul { v3 with D := F 0 32 }, .vmul { v3 with D := F 32 32 }, .vdiv h3,
     .vmull { v3 with D := F 128 64, A := F 0 64, B := F 64 64 }, .vmull v3, .vmull { v3 with D := F 64 64, fn4 := 4 },
     .vmulh { h3 with x := 0x1F60 }, .vmulh { v3 with x := 0x3E60, D := F 64 16 }, .vmulh { v3 with x := 0x3E60, fn4 := 2, B := 0 },
     .vmulh { v3 with x := 0x3E60, fn4 := 4 }, .vmulh { v3 with x := 0x3E60, B := F 32 16 },
     .vmulh { v3 with x := 0x3E60, fn4 := 1, B := 64 }, .vmulh { v3 with x := 0xBE60 }, .vmulh { v3 with x := 0x3FF0 },
     .vmulh { v3 with x := 0x1E60 }, .vmulh { v3 with x := 0x3E60, D := F 0 32 }, .vmulh { v3 with x := 0x3E00 },
     .vmulh { v3 with x := 0x3E20 }, .vmulh { v3 with x := 0x3E40 }, .vmac f3, .vmac { v3 with D := F 500 32 },
     .vmac { v3 with A := F 500 32 }, .vmac { h3 with A := F 0 32, B := F 32 32 }, .vmac { h3 with D := F 64 32 },
     .vmac { v3 with fn4 := 3 }, .vmac { h3 with fn4 := 4 }, .vmac { v3 with D := F 0 32 }] = true := by decide +kernel

/-- R141, R143, R144, R145: compare, select, move, conversion, quantise and rescale. -/
theorem test_illformed_moves : refused
    [.vcmp { f3 with D := 0 }, .vcmp { v3 with D := 0x30 }, .vcmp { v3 with D := 0x40 }, .vcmp { v3 with D := 0, A := F 500 32 },
     .vcmp { h3 with D := 0, A := F 0 32, B := F 32 32 }, .vcmp { v3 with D := 0, fn4 := 3 }, .vcmp { v3 with D := 0, fn4 := 4 },
     .vsel { v3 with type := 7 }, .vsel { v3 with D := F 64 16 }, .vsel { v3 with fn4 := 2 }, .vsel { v3 with fn4 := 4 },
     .vsel { v3 with x := 8 }, .vsel { v3 with B := F 32 16 }, .vsel { v3 with fn4 := 1, B := 64 }, .vsel { v3 with D := F 16 32 },
     .vmov { v2 with type := 7 }, .vmov { v2 with fn4 := 4 }, .vmov { v2 with D := F 500 32 }, .vmov { v2 with type := 3 },
     .vmov { v2 with A := F 0 16 }, .vmov { v2 with B := 1 }, .vmov { v2 with x := 1 }, .vmov { v2 with D := F 16 32 },
     .vmov { v2 with fn4 := 1, B := 3 }, .vmov { v2 with fn4 := 1, A := 0, pa := true }, .vmov { v2 with fn4 := 1, A := 0, B := 64 },
     .vmov { v2 with fn4 := 1, A := 0, x := 1 }, .vmov { v2 with fn4 := 2 }, .vmov { v2 with fn4 := 2, A := 0, B := 1 },
     .vmov { v2 with fn4 := 2, A := 0, type := 3, D := F 64 16, x := 0x10000 }, .vmov { v2 with fn4 := 3 },
     .vcvt { v2 with type := 7, x := 1 }, .vcvt { v2 with x := 8 }, .vcvt { v2 with x := 7, A := F 0 8 },
     .vcvt { f2 with x := 0x21 }, .vcvt { f2 with x := 0x41 }, .vcvt { f2 with x := 1, B := 1 }, .vcvt { f2 with x := 1, fn4 := 6 },
     .vcvt { f2 with x := 1, D := F 500 32 }, .vcvt { f2 with x := 1, A := F 500 32 }, .vcvt { f2 with x := 1, D := F 64 16 },
     .vcvt { f2 with x := 3 }, .vcvt { f2 with x := 1, D := F 0 32 }, .fcvt { f2 with x := 7, A := F 0 8 },
     .fcvt { f2 with x := 1, D := F 16 32 }, .vbfpq { v2 with x := 1 }, .vbfpq { vf 7 (F 508 8) (F 0 32) 0 with x := 2 },
     .vbfpq { vf 7 (F 500 8) (F 0 32) 0 with x := 2 }, .vbfpq { vf 7 (F 64 16) (F 0 32) 0 with x := 2 },
     .vbfpq { vf 7 (F 64 8) (F 500 32) 0 with x := 2 }, .vbfpq { vf 7 (F 64 8) (F 0 8) 0 with x := 7 },
     .vbfpq { vf 7 (F 64 8) (F 0 32) 0 with x := 0x22 }, .vbfpq { vf 7 (F 64 8) (F 0 16) 0 with x := 2 },
     .vbfpq { vf 7 (F 64 8) (F 0 32) 0 with x := 2, fn4 := 1 }, .vbfpq { vf 7 (F 64 8) (F 0 32) 1 with x := 2 },
     .vbfpq { vf 7 (F 0 8) (F 0 32) 0 with x := 2 }, .vscale { vf 1 (F 64 8) 0 0 with fn4 := 2 },
     .vscale { vf 7 (F 508 8) 0 0 with fn4 := 2 }, .vscale { vf 7 (F 64 16) 0 0 with fn4 := 2 },
     .vscale { vf 7 (F 500 8) 0 0 with fn4 := 2 }, .vscale { vf 7 (F 64 8) 1 0 with fn4 := 2 },
     .vscale { vf 7 (F 64 8) 0 0 with fn4 := 2, pa := true }, .vscale { vf 7 (F 64 8) 0 0 with fn4 := 6 },
     .vscale { vf 7 (F 64 8) 0 64 with fn4 := 1 }, .vscale { vf 7 (F 64 8) 0 3 with fn4 := 1, x := 1 },
     .vscale { vf 7 (F 64 8) 0 1 with fn4 := 2 }, .vscale (vf 7 (F 64 8) 0 0)] = true := by decide +kernel

/-- R149, R161, R349: reductions, scan, selection, similarity, Cellar. -/
theorem test_illformed_reduce : refused
    [.vrsum { vf 2 0 (F 0 32) 0 with type := 2 }, .vrsum (vf 1 0 (F 500 32) 0), .vrsum (vf 7 0 (F 0 16) 0), .vrsum (vf 1 64 (F 0 32) 0),
     .vrsum (vf 1 0 (F 0 32) 1), .vrsum { vf 1 0 (F 0 32) 0 with fn4 := 4 }, .vrsum { vf 7 0 (F 0 8) 0 with fn4 := 2 },
     .vrsum { vf 1 0 (F 0 32) 0 with x := 1 }, .vrmin (vf 7 0 (F 0 8) 0), .vrmin (vf 1 0 (F 500 32) 0), .vrmin (vf 3 0 (F 0 32) 0),
     .vrmax (vf 1 512 (F 0 32) 0), .vrmax (vf 1 0 (F 0 32) 1), .vrmax { vf 1 0 (F 0 32) 0 with fn4 := 4 },
     .vrmax { vf 1 0 (F 0 32) 0 with fn4 := 2 }, .vrmax { vf 1 0 (F 0 32) 0 with x := 1 }, .vscan (vf 2 (F 64 32) (F 0 32) 0),
     .vscan { v2 with D := F 500 32 }, .vscan { v2 with A := F 500 32 }, .vscan { v2 with D := F 64 16 }, .vscan { v2 with D := F 16 32 },
     .vscan { v2 with B := 1 }, .vscan { v2 with fn4 := 4 }, .vscan { v2 with fn4 := 2, x := 8 }, .vscan { v2 with x := 1 },
     .vtopk (vf 7 0x240 (F 0 8) 3), .vtopk (vf 1 0x240 (F 500 32) 3), .vtopk (vf 3 0x240 (F 0 32) 3), .vtopk (vf 1 0x1240 (F 0 32) 3),
     .vtopk (vf 1 0x240 (F 0 32) 64), .vtopk { vf 1 0x240 (F 0 32) 3 with fn4 := 4 }, .vtopk { vf 1 0x240 (F 0 32) 3 with fn4 := 2 },
     .vtopk { vf 1 0x240 (F 0 32) 3 with x := 1 }, .vtopk (vf 1 0x40 (F 0 32) 3 |> fun v => { v with D := 0x240 &&& 0x1C0 ||| 0x200 }),
     .vtopk { vf 1 0x240 (F 0 32) 3 with mask := 9 }, .vsimh (vf 1 (F 64 8) (F 0 32) 3), .vsimh (vf 0 (F 508 8) (F 0 32) 3),
     .vsimh (vf 0 (F 64 8) (F 500 32) 3), .vsimh (vf 0 (F 0 8) (F 0 32) 3), .vsimh (vf 0 (F 64 8) (F 0 32) 64),
     .vsimh { vf 0 (F 64 8) (F 0 32) 3 with fn4 := 4 }, .vsimh { vf 0 (F 64 8) (F 0 32) 3 with fn4 := 2 },
     .vsimh { vf 0 (F 64 8) (F 0 32) 3 with x := 1 }, .vsimd (vf 2 (F 64 8) (F 0 32) 3), .vsimd (vf 0 (F 0 8) (F 0 32) 3),
     .vsimd (vf 0 (F 64 8) (F 0 32) 64), .vsimd { vf 0 (F 64 8) (F 0 32) 3 with fn4 := 4 }, .vsimd { vf 0 (F 64 8) (F 0 32) 3 with x := 1 },
     .vsimd { vf 0 (F 64 8) (F 0 12) 3 with fn4 := 3 }, .vcbound (vf 0 (F 64 32) (F 0 64) 3), .vcbound (vf 2 (F 64 16) (F 0 64) 3),
     .vcbound (vf 2 (F 64 32) (F 0 32) 3), .vcbound (vf 2 (F 64 32) (F 0 64) 64), .vcbound { vf 2 (F 64 32) (F 0 64) 3 with fn4 := 1 },
     .vcbound { vf 2 (F 64 32) (F 0 64) 3 with x := 1 }, .vcbound (vf 2 (F 32 32) (F 0 64) 3), .vcwalk (vf 1 (F 64 64) (F 0 32) (F 128 64)),
     .vcwalk (vf 0 (F 64 32) (F 0 32) (F 128 64)), .vcwalk (vf 0 (F 64 64) (F 0 64) (F 128 64)),
     .vcwalk { vf 0 (F 64 64) (F 0 32) (F 128 64) with x := 64 }, .vcwalk (vf 0 (F 0 64) (F 0 32) (F 128 64)),
     .vcwalk (vf 0 (F 64 64) (F 0 32) (F 128 32)), .vcwalk (vf 0 (F 64 64) (F 0 32) (F 64 64)),
     .vcwalk { vf 0 (F 64 64) (F 0 32) 64 with fn4 := 1 }, .vcwalk { vf 0 (F 64 64) (F 0 32) 0 with fn4 := 2 }] = true := by
  decide +kernel

/-- UNMK of a 16-bit score and a 32-bit token, tc t1, sp s10, sd s20, mask t0. -/
def um : VForm := { vf 3 (F 64 32) (F 0 16) (F 32 32) with mask := 8, x := 0x2851 }

/-- R349: VCDIRTY and UNMK. -/
theorem test_illformed_unmask : refused
    [.vcdirty (vf 1 0 (F 0 32) 3), .vcdirty (vf 0 8 (F 0 32) 3), .vcdirty (vf 0 0 (F 500 32) 3), .vcdirty (vf 0 0 (F 0 64) 3),
     .vcdirty (vf 0 0 (F 0 32) 64), .vcdirty { vf 0 0 (F 0 32) 3 with fn4 := 1 }, .vcdirty { vf 0 0 (F 0 32) 3 with x := 64 },
     .unmk { um with mask := 0 }, .unmk { um with fn4 := 8 }, .unmk { um with fn4 := 1 }, .unmk { um with x := 0xA851 },
     .unmk { um with D := F 500 32 }, .unmk { um with A := F 508 16 }, .unmk { um with B := F 500 32 }, .unmk { um with type := 2 },
     .unmk { um with A := F 0 8 }, .unmk { um with type := 0, A := F 0 17 }, .unmk { um with B := F 128 33 },
     .unmk { um with D := F 64 16 }, .unmk { um with D := F 0 32 }, .unmk { um with D := F 32 32 }, .unmk { um with x := 0x2850 },
     .unmk { um with x := 0x29E1 }, .unmk { um with x := 0x1851 }, .unmk { um with ord := true }] = true := by decide +kernel

/-- R168, R172, R181: the element pipe. -/
theorem test_illformed_pipe : refused
    [.fadd { f3 with type := 5 }, .fadd { f3 with D := F 64 16 }, .fadd { f3 with x := 2 }, .fadd { f3 with x := 1, B := 64 },
     .fadd { f3 with B := F 32 16 }, .fadd { f3 with B := F 500 32 }, .fadd { f3 with fn4 := 6 }, .fadd { f3 with D := F 16 32 },
     .fadd { f3 with D := F 40 32 }, .fadd { f3 with mask := 1 }, .fsub { f3 with fn4 := 6 }, .fmul { f3 with fn4 := 6 },
     .fdiv { f3 with fn4 := 6 }, .fmin { f3 with fn4 := 1 }, .fmax { f3 with fn4 := 1 }, .fabs { f2 with fn4 := 1 },
     .fabs { f2 with B := 1 }, .fabs { f2 with x := 1 }, .fneg { f2 with type := 1 }, .fneg { f2 with D := F 16 32 },
     .fsqrt { f2 with fn4 := 6 }, .frcp { f2 with fn4 := 1 }, .frsq { f2 with fn4 := 1 }, .fexp2 { f2 with fn4 := 1 },
     .flog2 { f2 with fn4 := 1 }, .fsin { f2 with fn4 := 2 }, .fsin { f2 with type := 3, D := F 64 16, A := F 0 16, fn4 := 1 },
     .fcos { f2 with fn4 := 2 }, .ftanh { f2 with fn4 := 1 }, .fsig { f2 with fn4 := 1 }, .ferf { f2 with fn4 := 1 },
     .ffma { f3 with x := 0xBE60 }, .ffma { f3 with x := 0x3FFF }, .ffma { f3 with x := 0x1E60 }, .ffma { f3 with x := 0x3E60, fn4 := 6 },
     .ffma { f3 with x := 0x3E60, B := F 32 16 }, .ffma { f3 with x := 0x3E60, D := F 16 32 }, .ffma { f3 with x := 0x3E50 },
     .ffms { f3 with x := 0x3E60, type := 1 }, .ffms { f3 with x := 0x3E60, D := F 40 32 }, .fcmp { f3 with D := 0x30 },
     .fcmp { f3 with D := 0x40 }, .fcmp { f3 with D := 0, type := 5 }, .fcmp { f3 with D := 0, A := F 500 32 },
     .fcmp { f3 with D := 0, A := F 0 16 }, .fcmp { f3 with D := 0, x := 2 }, .fcmp { f3 with D := 0, fn4 := 1 },
     .frsum (vf 5 0 (F 0 8) 0), .frsum (vf 2 0 (F 500 32) 0), .frsum (vf 2 0 (F 0 16) 0), .frsum (vf 2 64 (F 0 32) 0),
     .frsum (vf 2 0 (F 0 32) 1), .frsum { vf 2 0 (F 0 32) 0 with x := 1 }, .frmax { vf 2 0 (F 0 32) 0 with fn4 := 2 }] = true := by
  decide +kernel

/-- R185, R186, R189: gang and exchange instructions. -/
theorem test_illformed_exchange : refused
    [.gang (sf 1 0 0 1 0), .gang (sf 1 1 0 0 0), .gang (sf 1 0 1 0 0), .gang { sf 1 0 0 0 0 with pa := true },
     .gang { sf 1 0 0 0 0 with pb := true }, .gang (sf 1 0 0 0 1), .vbcast (sf 0 1 0 1 0x1F003E00), .vbcast (sf 1 1 0 0 0x1F003E00),
     .vbcast (sf 0 1 1 0 0x1F003E00), .vbcast (sf 0 1 32 0 0x1F003E00), .vbcast { sf 0 1 0 0 0x1F003E00 with pb := true },
     .vbcast (sf 0 1 0 0 0x1F007FFF), .vbcast (sf 0 1 0 0 0x3FFFBE00), .vbcast (sf 0 1 0 0 0x0F003E00),
     .vbcast (sf 0 1 0 0 0x5F003E00), .vbcast (sf 0 1 0 0 0x1F083E00), .vext (sf 1 2 0 1 0x1F000000), .vext (sf 1 2 1 0 0x1F000000),
     .vext { sf 1 2 0 0 0x1F000000 with pb := true }, .vext (sf 1 2 0 0 0x1F000001), .vext (sf 1 2 0 0 0x3FFF8000),
     .vext (sf 1 2 0 0 0x9F000000), .vins (sf 1 2 0 1 0x3E00), .vins (sf 1 2 1 0 0x3E00), .vins { sf 1 2 0 0 0x3E00 with pb := true },
     .vins (sf 1 2 0 0 0x7FFF), .vins (sf 1 2 0 0 0xBE00), .vslide (sf 1 2 0 2 0x1F103E00), .vslide (sf 1 2 1 0 0x1F103E00),
     .vslide (sf 1 2 0 0 0x0F103E00), .vslide (sf 1 2 0 0 0x5F103E00), .vslide (sf 1 2 0 0 0x1F003E00), .vpermr (sf 1 2 0 0 0x1F103E00),
     .vgrant (sf 1 2 1 0 0), .vgrant { sf 1 2 0 0 0 with pb := true }, .vgrant (sf 1 2 0 1 0), .vgrant (sf 1 2 0 0 1)] = true := by
  decide +kernel

/-- A product of FP16 on fields of eight values a row. -/
def mm : VForm := vf 4 0 (F 0 64) (F 64 64)

/-- R202, R203, R209: the matrix class. -/
theorem test_illformed_matrix : refused
    [.mma { mm with mask := 1 }, .mma { mm with ord := true }, .mma { vf 0 0 (F 0 64) (F 64 64) with D := 0x80 }, .mma { mm with type := 2 },
     .mma { mm with D := 0x40 }, .mma { vf 7 0 (F 0 64) (F 64 64) with D := 0 }, .mma { mm with D := 0x400 }, .mma { mm with A := F 500 64 },
     .mma { mm with B := F 500 64 }, .mma { mm with B := F 64 32 }, .mma { vf 4 0 (F 0 24) (F 64 24) with type := 4 }, .mma { mm with fn4 := 1 },
     .mma { mm with mask := 8, fn4 := 6 }, .mma { mm with fn4 := 2 }, .mma { mm with x := 0x40000 }, .mmas { mm with fn4 := 1 },
     .mmau { mm with x := 1 }, .mmau { mm with x := 0x1000 }, .mmau { mm with mask := 8 }, .mlda (sf 1 2 0 0 0x3E00),
     .mlda (sf 0 2 1 0 0x3E00), .mlda { sf 0 2 0 0 0x3E00 with pb := true }, .mlda (sf 0 2 0 1 0x3E00), .mlda (sf 0 2 0 0 0x4003E00),
     .mlda (sf 0 2 0 0 0x1003E00), .mlda (sf 0 2 0 0 0x7FFF), .mlda (sf 0 2 0 0 0x1E00), .mlda (sf 0 2 0 0 0x2003E00),
     .msta (sf 0 2 0 0 0x2003E00), .mzero (sf 1 0 0 0 0), .mzero (sf 0 1 0 0 0), .mzero (sf 0 0 1 0 0), .mzero (sf 0 0 0 0 0x400000),
     .mzero (sf 0 0 0 0 1), .mdesc (sf 1 2 0 0 0), .mdesc (sf 0 2 1 0 0), .mdesc { sf 0 2 0 0 0 with pb := true }, .mdesc (sf 0 2 0 1 0),
     .mdesc (sf 0 2 0 0 4), .mdescRd (sf 1 2 0 1 0), .mdescRd { sf 1 0 0 1 0 with pa := true }, .mdescRd (sf 1 0 1 1 0),
     .mdescRd { sf 1 0 0 1 0 with pb := true }, .mdescRd (sf 1 0 0 0 0), .mdescRd (sf 1 0 0 1 4), .mwait (sf 1 0 0 0 0),
     .mwait (sf 0 0 0 0 0x800000), .mwait (sf 0 0 0 0 0x200000), .mwait (sf 0 0 0 0 1), .mwait (sf 0 0 0 0 0x480000),
     .mchk (sf 1 1 0 0 0), .mchk (sf 1 0 0 0 0x200000), .mchk (sf 1 0 0 0 1)] = true := by decide +kernel

/-- R226, R234, R233: vector memory. -/
theorem test_illformed_vmem : refused
    [.vld (sf 1 2 0 0 0x3E00), .vld (sf 0 2 3 0 0x3E00), .vld { sf 0 2 0 0 0x3E00 with pb := true }, .vld (sf 0 2 0 3 0x3E00),
     .vld (sf 0 2 0 1 0x2BE00), .vld (sf 0 2 0 0 0x23E00), .vst (sf 0 2 0 0 0x43E00), .vld (sf 0 2 0 1 0x43E00), .vld (sf 0 2 0 0 0x103E00),
     .vld (sf 0 2 0 0 0x40003E00), .vld (sf 0 2 0 0 0x7FFF), .vld (sf 0 2 0 0 0x2E00), .vld (sf 0 2 0 0 0x2003E00),
     .vst (sf 0 2 0 0 0x20003E00), .vlds (sf 0 2 3 0 0x2003E00), .vsts (sf 0 2 3 0 0x2003E00), .vldff (sf 0 2 3 0 0x3E00),
     .vldx (sf 0 2 0 0 0x22003E20), .vldx (sf 0 2 0 0 0x3E003E20), .vldx (sf 0 2 0 0 0x3E00), .vldx (sf 0 2 3 0 0x2003E00),
     .vstx (sf 0 2 0 0 0x22003E20), .rld (sf 0 2 0 0 0x3E00), .rst (sf 0 2 0 0 1), .pref (sf 1 2 3 0 0), .pref (sf 0 2 3 1 0),
     .pref { sf 0 2 3 0 0 with pb := true }, .pref (sf 0 2 3 0 2), .cwb (sf 0 2 3 0 2)] = true := by decide +kernel

/-- R256, R257, R263, R279: atomics and synchronisation. -/
theorem test_illformed_sync : refused
    [.amo (sf 1 2 3 1 0), .amo (sf 1 2 3 2 11), .amo (sf 1 2 3 3 1), .amo (sf 1 2 3 2 0x1A0), .amo (sf 1 2 3 2 0x500), .amo (sf 1 2 3 2 0x20),
     .amo (sf 1 2 3 2 0x10), .amo (sf 0 2 3 2 0x110), .amo (sf 0 2 3 2 0x1A), .amo (sf 1 2 3 2 0x800), .amo (sf 1 2 3 2 0x20000),
     .vamo (sf 0 2 1 1 0x7C000000), .vamo (sf 0 2 1 0 0x7C00000B), .vamo (sf 0 2 1 0 0xFFFE0000), .vamo (sf 0 2 1 0 0x3C000000),
     .vamo (sf 0 2 2 0 0xFC000001), .vamo (sf 0 2 1 0 0x7C0001A0), .vamo (sf 0 2 1 0 0x7C000500), .vamo (sf 0 2 1 0 0x7C000020),
     .vamo (sf 0 2 1 0 0x7C000110), .vamo (sf 0 2 1 0 0x7C00001A), .vamo (sf 1 2 1 0 0x7C000000), .vamo (sf 0 2 33 0 0x7C000000),
     .vamo { sf 0 2 1 0 0x7C000000 with pb := true }, .vamo (sf 0 2 17 0 0x7C000000), .vamo (sf 0 2 1 0 0x7C002000), .vamo (sf 0 2 0 0 0x7C000000),
     .ldf (sf 1 2 0 1 0), .ldf { sf 1 2 0 2 0 with pb := true }, .ldf (sf 1 2 3 2 0), .ldf (sf 1 2 0 2 0xA0000), .ldf (sf 1 2 0 2 0x100000),
     .ldfe (sf 1 2 0 1 0), .ste (sf 1 2 0 1 0), .stf (sf 1 2 0 2 0x10000), .feset (sf 1 2 3 0 0), .feset { sf 0 2 3 0 0 with pb := true },
     .feset (sf 0 2 3 2 0), .feset (sf 0 2 3 0 1), .feset (sf 0 2 3 0 0xA0000), .feset (sf 0 2 3 0 0x100000), .waita (sf 1 2 3 1 0),
     .waita (sf 1 2 3 2 6), .waita (sf 1 2 3 2 0x10), .waita (sf 1 2 3 2 0x1400), .waita (sf 1 2 3 2 0x2000), .stwk (sf 1 2 3 2 0),
     .stwk (sf 0 2 3 1 0), .stwk (sf 0 2 3 2 5), .stwk (sf 0 2 3 2 8), .barGang (sf 1 0 0 1 0), .barGang (sf 1 2 0 0 0),
     .barGang { sf 1 0 0 0 0 with pa := true }, .barGang { sf 1 0 0 0 0 with pb := true }, .barGang (sf 1 0 3 0 0), .barGang (sf 1 0 3 0 3),
     .barClus (sf 1 2 0 0 0), .barClus { sf 1 2 0 1 0 with pb := true }, .barClus (sf 1 2 3 1 0), .barClus (sf 1 2 3 1 3),
     .dqpush (sf 1 2 0 1 0), .dqpush (sf 1 2 3 0 0), .dqpush { sf 1 2 0 0 0 with pb := true }, .dqpush (sf 1 2 0 0 1), .dqpop (sf 1 0 0 1 0),
     .dqpop (sf 1 2 0 0 0), .dqpop { sf 1 0 0 0 0 with pa := true }, .dqpop (sf 1 0 3 0 0), .dqpop { sf 1 0 0 0 0 with pb := true },
     .dqpop (sf 1 0 0 0 2), .dqsteal (sf 1 2 0 1 0), .dqsteal (sf 1 2 3 0 0), .dqsteal { sf 1 2 0 0 0 with pb := true },
     .dqsteal (sf 1 2 0 0 1)] = true := by decide +kernel

/-- R299, R309, R314: copy and Pantry. -/
theorem test_illformed_copy_pantry : refused
    [.cpush (sf 1 2 0 1 0), .cpush (sf 1 2 0 0 0x80), .cpush (sf 1 2 3 0 0), .cpush { sf 1 2 0 0 0 with pb := true }, .cpush (sf 1 2 0 0 0x20),
     .cstat (sf 1 2 0 0 0), .cstat { sf 1 0 0 0 0 with pa := true }, .ckill (sf 1 2 0 0 0), .cwait (sf 0 0 0 1 0), .cwait (sf 1 0 0 0 0),
     .cwait (sf 0 1 0 0 0), .cwait { sf 0 0 0 0 0 with pa := true }, .cwait { sf 0 0 0 0 0 with pb := true }, .cwait (sf 0 0 3 0 0),
     .cwait (sf 0 0 0 0 0x40), .cwait (sf 0 0 0 0 0x21), .cwait (sf 0 0 0 0 0x80), .ckillRel (sf 0 2 0 0 0), .ckillRel (sf 1 2 0 1 0),
     .ckillRel (sf 0 2 3 1 0), .ckillRel { sf 0 2 0 1 0 with pb := true }, .ckillRel (sf 0 2 0 1 0x20), .ckillRel (sf 0 2 0 1 1),
     .xrow (sf 1 2 3 1 0), .xrow (sf 1 2 3 0 0x20), .xrow (sf 1 2 3 0 1), .xrow (sf 1 2 3 0 0x80), .pdep (sf 0 1 2 1 0),
     .pdep (sf 0 1 2 0 0x10000000), .pdep (sf 0 1 2 0 0x400000), .pdep (sf 0 1 2 0 0x80000), .pdep (sf 0 1 2 0 1), .pdep (sf 3 1 2 0 0),
     .pdep (sf 0 1 63 0 0x10000), .pcopy (sf 3 1 2 1 1), .pcopy (sf 3 1 2 0 0x20000001), .pcopy (sf 3 1 2 0 5), .pcopy (sf 3 1 2 0 0),
     .pcopy (sf 3 1 63 0 0x10005), .pcopy (sf 3 1 63 0 0x10000001), .pcopy (sf 3 1 2 0 0x0FC3003D), .pcopy (sf 3 1 2 0 0x00C1000D),
     .ptake (sf 3 1 2 1 1), .ptake (sf 4 1 2 0 0x00C2003D), .pcnt (sf 3 1 2 1 1), .pcnt (sf 3 1 2 0 0x20000001), .pcnt (sf 3 1 2 0 0x10000001),
     .pcnt (sf 3 1 2 0 0x100001), .pcnt (sf 3 1 2 0 0x200001), .pcnt (sf 3 1 2 0 0x400001), .pcnt (sf 3 1 2 0 5), .pcnt (sf 3 1 2 0 0),
     .pcnt (sf 3 1 63 0 0x10005), .pcnl (sf 3 0 0 1 5), .pcnl (sf 3 1 0 0 5), .pcnl (sf 3 0 1 0 5), .pcnl { sf 3 0 0 0 5 with pa := true },
     .pcnl { sf 3 0 0 0 5 with pb := true }, .pcnl (sf 3 0 0 0 64), .cwalk (sf 1 2 3 1 0), .cwalk (sf 1 2 3 0 0x80), .cdirty (sf 0 2 3 2 0),
     .cdirty (sf 1 2 3 0 0), .cdirty (sf 0 2 3 0 0x10000000)] = true := by decide +kernel

/-- R374: the privileged class. -/
theorem test_illformed_privileged : refused
    [.launch (sf 1 2 3 1 0), .launch (sf 1 2 3 0 1), .launch { sf 1 2 0 0 0 with pb := true }, .preempt (sf 1 2 3 0 0),
     .preempt (sf 1 2 0 1 0), .preempt { sf 1 2 0 0 0 with pb := true }, .ctxsv (sf 1 2 3 1 0), .ctxld (sf 1 2 3 0 1), .migr (sf 1 2 3 1 0),
     .lcidset (sf 1 2 3 0 1), .tlbinv (sf 1 2 3 0 0), .tlbinv (sf 0 2 3 1 0), .tlbinva (sf 1 0 3 0 0), .tlbinva (sf 0 2 3 0 0),
     .tlbinva { sf 0 0 3 0 0 with pa := true }, .tlbinva (sf 0 0 3 0 1)] = true := by decide +kernel
/-! ## Words written out from the spec's encodings (R42 to R46, R56) -/

/-- Every word decodes to its instruction. -/
def decodes (l : List (List Parcel × Instr)) : Bool := l.all fun x => (decode x.1).toOption == some x.2

/-- R75, R76, R78. -/
theorem test_decode_scalar : decodes
    [([0xFFF08104], .addi 1 2 0xFFF),
     ([0x03F07F14], .slli 63 1 63),
     ([0x80000428], .movi 4 0x800),
     ([0x0451032C], .sub 3 4 5),
     ([0x4FF1032C], .divn 3 4 63),
     ([0x6001032C], .popc 3 4),
     ([0x10020401, 0x80000000], .addw ⟨1, 2, 0, true, false, 0, 0x80000000⟩),
     ([0x00020421, 0x00001103], .bext ⟨1, 2, 0, false, false, 0, 0x1103⟩),
     ([0x20C2041D, 0x0000003F], .sel ⟨1, 2, 3, false, true, 0, 63⟩),
     ([0x00002682, 0xDEADBEEF, 0x01234567], .movl ⟨9, 0, 0, false, false, 0, 0xDEADBEEF⟩ 0x01234567)] = true := by decide +kernel

/-- R80, R81, R84, R85, R88, R69. -/
theorem test_decode_loads_and_control : decodes
    [([0x01020730], .ld 7 8 0x010),
     ([0xFF820734], .st 7 8 0xFF8),
     ([0x40061411, 0x1C000008], .sts ⟨5, 6, 0, false, false, 1, 0x1C000008⟩),
     ([0xFFF27F38], .beqz 9 0x3FFFF),
     ([0x00308144], .jal 0x003081),
     ([0x000FC04C], .jalr 63 0),
     ([0x00811015, 0xFFFFFFFE], .bc ⟨4, 1, 2, false, false, 0, 0xFFFFFFFE⟩),
     ([0x00010696, 0x00000010, 0xFFFFFFFF], .bcl ⟨1, 1, 0, false, false, 0, 16⟩ 0xFFFFFFFF),
     ([0x00C14150], .loop true 5 12),
     ([0x01000254], .crd 2 0x010),
     ([0x06008058], .cwr 2 0x060)] = true := by decide +kernel

/-- R105, R106, R110, R111, R116. -/
theorem test_decode_tags_and_searches : decodes
    [([0x00008180], .setvl 1 2),
     ([0xE8510384], .tand 3 4 5 ⟨true, 6, true⟩),
     ([0x00000798], .tset 7 ⟨false, 0, false⟩),
     ([0x000128AC], .tfirst 40 4 ⟨false, 0, false⟩),
     ([0xA05543B0], .tpick 3 5 21 ⟨true, 2, false⟩),
     ([0x00810301, 0x00BA9E08], .asrch ⟨0, 1, 2, false, false, 0, 0xBA9E08⟩),
     ([0x00030311, 0x00048000], .tshup ⟨0, 3, 0, false, false, 0, 0x48000⟩),
     ([0x00810319, 0x00000C00], .amcodeRun ⟨0, 1, 2, false, false, 0, 0xC00⟩),
     ([0x40810319, 0x00000FFF], .amcodeLoad ⟨0, 1, 2, false, false, 1, 0xFFF⟩)] = true := by decide +kernel

/-- R44, R133 to R145. -/
theorem test_decode_associative : decodes
    [([0x3E402C02, 0xAF881F00, 0x00000080], .vadd ⟨15936, 15872, 15904, true, false, false, 11, 1, 8, 0⟩),
     ([0x7E40001A, 0x00015F00, 0x00000010], .vmac ⟨32320, 15872, 5, false, false, false, 0, 0, 1, 0⟩),
     ([0x002B004E, 0x8F881F00, 0x00000000], .vcmp ⟨43, 15872, 15904, false, false, false, 0, 1, 0, 0⟩),
     ([0x1E40005A, 0x00001F00, 0x00000252], .vcvt ⟨7744, 15872, 0, false, false, false, 0, 4, 5, 2⟩),
     ([0x0E40006E, 0x80000000, 0xFFFFFF23], .vscale ⟨3648, 0, 0, false, false, false, 0, 7, 2, 16777215⟩)] = true := by decide +kernel

/-- R149, R349. -/
theorem test_decode_reductions : decodes
    [([0x003F0102, 0x80003F00, 0x00000030], .vrsum ⟨63, 32256, 0, false, false, false, 0, 1, 3, 0⟩),
     ([0x02850112, 0x00025F00, 0x00000011], .vtopk ⟨645, 15872, 9, false, false, false, 0, 2, 1, 0⟩),
     ([0x0E40011A, 0x80025F00, 0x00000020], .vsimd ⟨3648, 15872, 9, false, false, false, 0, 1, 2, 0⟩),
     ([0x3E40212A, 0x8F880F00, 0x00285101], .unmk ⟨15936, 7680, 15904, false, false, false, 8, 3, 0, 10321⟩)] = true := by decide +kernel

/-- R168, R172. -/
theorem test_decode_element_pipe : decodes
    [([0x3E400182, 0x0F881F00, 0x00000051], .fadd ⟨15936, 15872, 15904, false, false, false, 0, 2, 5, 0⟩),
     ([0x3E40018E, 0x0F881F00, 0x003E6001], .ffma ⟨15936, 15872, 15904, false, false, false, 0, 2, 0, 15968⟩),
     ([0x3E4001C6, 0x00001F00, 0x00000011], .fsin ⟨15936, 15872, 0, false, false, false, 0, 2, 1, 0⟩),
     ([0x000C01DE, 0x00000F00, 0x00000002], .frmax ⟨12, 7680, 0, false, false, false, 0, 4, 0, 0⟩)] = true := by decide +kernel

/-- R184 to R189. -/
theorem test_decode_exchange : decodes
    [([0x00000601, 0x00000000], .gang ⟨1, 0, 0, false, false, 0, 0⟩),
     ([0x42C20611, 0x1F003E40], .vslide ⟨1, 2, 11, false, false, 1, 0x1F003E40⟩),
     ([0x00020619, 0x00000000], .vgrant ⟨1, 2, 0, false, false, 0, 0⟩)] = true := by decide +kernel

/-- R202, R209. -/
theorem test_decode_matrix : decodes
    [([0x00350202, 0x1F903F00, 0x00308102], .mma ⟨53, 32256, 32320, false, false, false, 0, 4, 0, 12417⟩),
     ([0x4000068D, 0x00000002], .mdescRd ⟨1, 0, 0, false, false, 1, 2⟩),
     ([0x0001028D, 0x00000002], .mdesc ⟨0, 1, 0, false, false, 0, 2⟩),
     ([0x00000695, 0x00138000], .mchk ⟨1, 0, 0, false, false, 0, 0x138000⟩)] = true := by decide +kernel

/-- R226. -/
theorem test_decode_vector_memory : decodes
    [([0x40020101, 0x0001BE00], .vld ⟨0, 2, 0, false, false, 1, 0x1BE00⟩),
     ([0x00020115, 0x24003E40], .vstx ⟨0, 2, 0, false, false, 0, 0x24003E40⟩),
     ([0x1002011D, 0x00000000], .rld ⟨0, 2, 0, true, false, 0, 0⟩)] = true := by decide +kernel

/-- R256, R257, R263, R279. -/
theorem test_decode_synchronisation : decodes
    [([0x80C20581, 0x0000200A], .amo ⟨1, 2, 3, false, false, 2, 0x200A⟩),
     ([0x00420185, 0x7C000005], .vamo ⟨0, 2, 1, false, false, 0, 0x7C000005⟩),
     ([0xC0C2058D, 0x00050000], .ldfe ⟨1, 2, 3, false, false, 3, 0x50000⟩),
     ([0x010005A5, 0x00000001], .barGang ⟨1, 0, 4, false, false, 0, 1⟩),
     ([0x400205A5, 0x00000000], .barClus ⟨1, 2, 0, false, false, 1, 0⟩),
     ([0x000205D9, 0x00000000], .dqsteal ⟨1, 2, 0, false, false, 0, 0⟩)] = true := by decide +kernel

/-- R293, R309, R331. -/
theorem test_decode_copy_and_pantry : decodes
    [([0x000205A9, 0x0000000D], .cpush ⟨1, 2, 0, false, false, 0, 13⟩),
     ([0x400201B5, 0x00000008], .ckillRel ⟨0, 2, 0, false, false, 1, 8⟩),
     ([0x00810DC5, 0x0141000D], .ptake ⟨3, 1, 2, false, false, 0, 0x141000D⟩),
     ([0x00000DC9, 0x00000005], .pcnl ⟨3, 0, 0, false, false, 0, 5⟩),
     ([0x00C205DD, 0x00000044], .cwalk ⟨1, 2, 3, false, false, 0, 0x44⟩)] = true := by decide +kernel

/-- R362, R369 to R371, R242, R374. -/
theorem test_decode_system : decodes
    [([0x123000C0], .brk 0x123),
     ([0xFFF000C4], .svc 0xFFF),
     ([0x07B000C8], .fence 0x07B),
     ([0x000000D0], .yield),
     ([0x000000D8], .eret),
     ([0x00C20781, 0x00000000], .launch ⟨1, 2, 3, false, false, 0, 0⟩),
     ([0x00C0039D, 0x00000000], .tlbinva ⟨0, 0, 3, false, false, 0, 0⟩),
     ([0x00C20791, 0x00000000], .migr ⟨1, 2, 3, false, false, 0, 0⟩)] = true := by decide +kernel

/-- R4, R34, R50, R56: words that no instruction has. -/
theorem test_decode_refused : [[0x00000003], [0x0000005C], [0x00000100], [0x7C00002C], [0x0000002D, 0], [0x000001E5, 0],
    [0x00000072, 0, 0], [0x00000282 + 0x1C, 0, 0], [0x00008002, 0, 0], [0x3E000182, 0x0F901F10], ([] : List Parcel)].all
      (fun w => (decode w).toOption == none) = true := by decide +kernel

/-! ## A small machine -/

/-- The registers of the test hart: numbers, then addresses of memory (s5), the core's local store (s6), control space
(s11), Pantry space (s18) and another device (s20), counts, and masks. -/
def regs0 : Vector W64 64 := Vector.ofFn fun i =>
  match i.val with
  | 1 => 7 | 2 => 2 | 4 => -7 | 5 => 0x110000 | 6 => 0xFFFFFFC000000 | 7 => 3 | 8 => 64 | 9 => -1 | 10 => BitVec.intMin 64
  | 11 => 0x120000 | 12 => 0x100 | 13 => 0x40 | 14 => 0x110040 | 15 => 0xFFFFFFC000040 | 16 => 0x800000000 | 18 => 0x130000 | 19 => 4 | 20 => 0x140000 | _ => 0

/-- A gang of one core, core 0, one hart with the whole grant. -/
def g0 : Gang := ⟨0, 0, 1, 1, 4, 0, 0, 1, 0, 0, false⟩

/-- Its hart, in the privileged view, VL 4. -/
def h0 : Hart := { Hart.fresh with view := true, vl := 4, pc := 0x100000, regs := regs0 }

/-- A hart inside a convoy of one instruction. -/
def on (h : Hart) (i : Instr) : Hart := { h with conv := some ⟨[i], [0], h.pc + 4, 0, none, none, 0, [none], [none], [none]⟩ }

/-- Launch queue 0, running. -/
def lq0 : LQ := { LQ.reset with state := 1, en := true, launch := some Place.launch }

/-- The machine with that hart: a page of code at 0x100000, a page of data at 0x110000 (physical 0x20000), a page of
control space at 0x120000, a page of Pantry region 5 at 0x130000, a page of device 1 at 0x140000, which port 3 leads
to. -/
def m0 (h : Hart) : State :=
  { State.reset with
    cur := some 0, harts := [(0, h)], gangs := [(0, g0)], lqs := [(0, lq0)], dev := { DevCtl.reset with bootOk := true }
    prgn := [(5, 0x8000000000000801)], routes := [(1, 0xB)]
    tlb := [⟨0, none, 0, 0x100000, 0x10000, 0x100A5, false, 0⟩, ⟨0, none, 0, 0x110000, 0x10000, 0x20065, false, 0⟩,
      ⟨0, none, 0, 0x120000, 0x10000, 0x300000000265, false, 0⟩, ⟨0, none, 0, 0x130000, 0x10000, 0x50165, true, 2⟩,
      ⟨0, none, 0, 0x140000, 0x10000, 0x400000000065, false, 0⟩] }

/-- The machine at an instruction. -/
def at0 (i : Instr) : State := m0 (on h0 i)

/-- A well-formed instruction runs. -/
def canIn (i : Instr) (s : State) (h : Hart) : Bool := decide (Runs i s 0 h g0) && WellFormed i
/-- It runs in the small machine. -/
def can (i : Instr) : Bool := canIn i (at0 i) (on h0 i)

/-- It runs in the same machine with another hart. -/
def canAt (h : Hart) (i : Instr) : Bool := canIn i (m0 (on h i)) (on h i)

/-- Whether a result is the given value. -/
def got {ε α : Type} [DecidableEq α] (x : Except ε α) (a : α) : Bool := x.toOption == some a

theorem eq_of_got {ε α : Type} [DecidableEq α] {x : Except ε α} {a : α} (h : got x a = true) : x = .ok a := by
  cases x with
  | error e => simp [got, Except.toOption] at h
  | ok b => simp_all [got, Except.toOption]

/-! ## Hypotheses met: scalar and control instructions -/

/-- A scalar arithmetic instruction of each kind. -/
def scalarForms : List Instr :=
  [.addi 1 2 0xFFF, .andi 1 2 3, .ori 1 2 3, .xori 1 2 3, .slli 1 2 63, .srli 1 2 63, .srai 1 2 63, .slti 1 2 0x800,
   .sltin 1 2 0x800, .movi 1 0x800, .add 1 2 4, .sub 1 2 4, .and 1 2 4, .or 1 2 4, .xor 1 2 4, .andn 1 2 4, .sll 1 2 4,
   .srl 1 2 4, .sra 1 2 4, .slt 1 2 4, .sltn 1 2 4, .min 1 2 4, .max 1 2 4, .minn 1 2 4, .maxn 1 2 4, .mul 1 2 4,
   .mulh 1 2 4, .mulhn 1 2 4, .div 1 4 2, .divn 1 4 2, .rem 1 4 2, .remn 1 4 2, .clz 1 2, .ctz 1 2, .popc 1 2, .mov 1 2,
   .mov 0 2, .addw (sf 1 2 0 0 0x80000000), .movw (sf 1 0 0 0 5), .movhi (sf 1 2 0 0 5), .sel (sf 1 2 4 0 63),
   .bext (sf 1 2 0 0 0x1F03), .bext (sf 1 2 0 0 0x0FC0), .bins (sf 1 2 4 0 0x0FC0), .movl (sf 1 0 0 0 5) 0x80000000, .addl (sf 1 2 0 0 5) 6,
   .andl (sf 1 2 0 0 5) 6, .orl (sf 1 2 0 0 5) 6, .xorl (sf 1 2 0 0 5) 6]

theorem test_meets_ScalarResults :
    (scalarForms.all fun i => decide (can i = true ∧ (aluResult (on h0 i) i).isSome = true)) = true := by decide +kernel

/-- Every row of the table of R77 has its operands: 0, -2^63 by -1, -7 by 2 (2^64 - 7 as a natural). -/
theorem test_meets_DivisionEdges :
    ([(17, 17), (10, 9), (4, 2)].all fun x : Reg × Reg =>
      decide (can (.div 1 x.1 x.2) = true ∧ can (.rem 1 x.1 x.2) = true ∧ can (.divn 1 x.1 x.2) = true ∧ can (.remn 1 x.1 x.2) = true)) = true ∧
    h0.reg 17 = 0 ∧ h0.reg 10 = BitVec.intMin 64 ∧ h0.reg 9 = -1 ∧ h0.reg 4 = -7 ∧ h0.reg 2 = 2 ∧
    h0.reg 4 = BitVec.ofInt 64 (2 ^ 64 - 7) ∧ (1 : Reg) ≠ 0 := by decide +kernel

/-- The machine with a line of NOPs at the hart's pc. -/
def withLine (s : State) : State := s.setMemBytes 0x10000 (leBytes 64 (Place.line 32 0))

def transferForms : List Instr :=
  [.nop, .beqz 17 0x3FFFF, .beqz 1 5, .bnez 17 5, .bnez 1 5, .j 0x800000, .jal 5, .jr 5 0xFFF, .jalr 63 8, .bc (sf 0 1 2 0 4),
   .bc (sf 5 1 2 0 0xFFFFFFFF), .jl (sf 0 0 0 0 4), .bcl (sf 4 1 0 0 4) 0xFFFFFFFF]

theorem test_meets_Transfers :
    (transferForms.all fun i => decide (can i = true ∧ (transferOf (on h0 i) i).isSome = true)) = true ∧
    ([.loop true 1 5, .loopl (sf 1 0 0 0 5) 0xFFFFFFFF].all fun i : Instr => decide (can i = true ∧ (loopOf (on h0 i) i).isSome = true)) = true ∧
    can (.lpset (sf 1 2 7 0 1)) = true := by decide +kernel

/-- With a count of 0 the end convoy has a successor. -/
theorem test_meets_Transfers_skip :
    ([.loop false 17 3, .loopl (sf 0 0 0 0 3) 0].all fun i : Instr =>
      let h := on h0 i
      let s := withLine (m0 h)
      decide (canIn i s h = true ∧ loopOf h i = some (false, 3, 0) ∧
        s.successorOf (s.agentOf h) (h.pc + BitVec.ofNat 64 12) = some 0x100010)) = true := by decide +kernel

/-- Every control register is read; those a hart may write are written with a value their fields take. -/
theorem test_meets_ControlRegisters :
    (((List.range 0xA0).filter fun n => Legal.crNumber (BitVec.ofNat 12 n)).all fun n =>
      decide (can (.crd 1 (BitVec.ofNat 12 n)) = true ∧ (at0 .nop).flagsPending 0 = false ∧
        (n ∈ [0x050, 0x061, 0x062, 0x063] ∨ can (.cwr 17 (BitVec.ofNat 12 n)) = true))) = true ∧
    can (.cwr 2 0x061) = true ∧ can (.cwr 13 0x062) = true ∧ can (.cwr 13 0x063) = true ∧
    canAt { h0 with regs := h0.regs.set 1 0x0001000000000001, xctl := 0x7F } (.cwr 1 0x050) = true := by decide +kernel

theorem test_meets_VectorLength :
    can (.setvl 1 9) = true ∧ can (.setvl 0 17) = true ∧ can (.gang (sf 1 0 0 0 0)) = true ∧ can (.vgrant (sf 1 9 0 0 0)) = true ∧
    can (.vgrant (sf 1 17 0 0 0)) = true ∧ (at0 (.vgrant (sf 1 9 0 0 0))).gangBusy 0 = false := by decide +kernel

/-! ## Hypotheses met: scalar memory -/

/-- A load or store of the test hart: its instruction, address, size and physical address. -/
def reaches (i : Instr) (k : Access) (va : W64) (n pa : Nat) : Bool :=
  decide (can i = true ∧ va.toNat % n = 0 ∧ (at0 i).accessHeld 0 pa n = false ∧ (at0 i).physPoison pa n = false ∧
    (at0 i).storeReserved pa n = false ∧ (at0 i).pageMoving pa = false ∧ (on h0 i).det = false ∧
    (at0 i).settledFor 0 (on h0 i) 4 = true ∧ (at0 i).storeWaits 0 (on h0 i) pa = false ∧ (on h0 i).go = false ∧
    (at0 i).upsets = [] ∧ (at0 i).lines.length < 24576) &&
  got ((at0 i).access ((at0 i).agentOf (on h0 i)) va k n) pa

theorem test_meets_ScalarLoads :
    reaches (.ld 1 5 8) .load 0x110008 8 0x20008 = true ∧ loadOf h0 (.ld 1 5 8) = some (1, 0x110008, 8, false) ∧
    (at0 .nop).home 0x20008 = .mem 0x20008 ∧
    reaches (.lds (sf 1 6 0 0 0x010000FF)) .load 0xFFFFFFC0000FF 1 0x2000000000FF = true ∧
    (at0 .nop).home 0x2000000000FF = .ls 0 0xFF ∧
    reaches (.lds (sf 1 11 0 2 0)) .load 0x120000 4 0x300000000000 = true ∧ (at0 .nop).home 0x300000000000 = .ctrl 0 ∧
    reaches (.ld 1 20 0) .load 0x140000 8 0x400000000000 = true ∧ (at0 .nop).home 0x400000000000 = .remote := by decide +kernel

/-- A plain load reads memory; with a store of the hart's own on the way to exactly these bytes, that store. -/
theorem test_meets_ScalarLoads_value : (m0 h0).home 0x20008 = .mem 0x20008 ∧ h0.buf = [] ∧ h0.drain = [] ∧
    ({ h0 with drain := [⟨3, false, 0x20008, [1, 2]⟩] } : Hart).drain = [] ++ [⟨3, false, 0x20008, [1, 2]⟩] := by decide +kernel

/-- Misaligned, not mapped, a byte of control space, Pantry space; and poisoned data. -/
theorem test_meets_ScalarLoads_faults :
    ([(Instr.ld 1 5 4, Cause.align), (.ld 1 17 8, .dataXlate), (.lds (sf 1 11 0 0 0), .dataProt), (.lds (sf 1 18 0 0 0), .dataProt)].all fun x =>
      match loadOf h0 x.1 with
      | some (_, va, n, _) => can x.1 && failureOf (at0 x.1) ((at0 x.1).agentOf (on h0 x.1)) va n .load n == some x.2
      | none => false) = true ∧
    (let i := Instr.ld 1 5 8
     let s := { at0 i with poison := [(0x20000 / 64, true)] }
     canIn i s (on h0 i) = true ∧ s.physPoison 0x20008 8 = true ∧ s.home 0x20008 = .mem 0x20008 ∧ s.accessHeld 0 0x20008 8 = false ∧
     got (s.access (s.agentOf (on h0 i)) 0x110008 .load 8) 0x20008 = true) := by decide +kernel

theorem test_meets_ScalarStores_faults :
    ([(Instr.st 1 5 4, Cause.align), (.st 1 17 8, .dataXlate), (.sts (sf 1 11 0 0 0), .dataProt), (.sts (sf 1 18 0 2 0x1A000000), .dataProt)].all fun x =>
      match storeOf h0 x.1 with
      | some (va, n, _, _, _) => can x.1 && failureOf (at0 x.1) ((at0 x.1).agentOf (on h0 x.1)) va n .store n == some x.2
      | none => false) = true := by decide +kernel

theorem test_meets_ScalarStores :
    reaches (.st 1 5 8) .store 0x110008 8 0x20008 = true ∧ storeOf h0 (.st 1 5 8) = some (0x110008, 8, 7, 0, 0) ∧
    reaches (.sts (sf 1 5 0 1 0x1A00000E)) .store 0x11000E 2 0x2000E = true ∧
    storeOf h0 (.sts (sf 1 5 0 1 0x1A00000E)) = some (0x11000E, 2, 7, 1, 3) ∧ (at0 .nop).home 0x2000E = .mem 0x2000E ∧
    reaches (.sts (sf 1 6 0 2 0x3C)) .store 0xFFFFFFC00003C 4 0x20000000003C = true ∧
    (at0 .nop).home 0x20000000003C = .ls 0 0x3C ∧ reaches (.st 1 20 0) .store 0x140000 8 0x400000000000 = true ∧
    (at0 .nop).linksDown.getLsbD ((at0 .nop).portOf 0x400000000000) = false ∧
    reaches (.sts (sf 1 11 0 2 0)) .store 0x120000 4 0x300000000000 = true ∧
    (at0 .nop).gatesRegion h0 0 4 7 = false ∧
    canAt { h0 with det := true } (.st 1 5 8) = true ∧ (at0 .nop).fits { h0 with det := true } 0x20008 8 = true := by decide +kernel

theorem test_meets_OrderAndHints :
    can (.pref (sf 0 5 2 0 1)) = true ∧ can (.cwb (sf 0 5 2 0 0)) = true ∧
    ((linesOf (h0.reg 5) 2).all fun va => ((at0 .nop).access ((at0 .nop).agentOf h0) va .writeback 0).toOption.isSome) = true ∧
    can (.fence 0x07B) = true ∧ (at0 .nop).storesDone 0 h0 3 = true ∧ (at0 .nop).remoteOut 0 true = false ∧ (at0 .nop).sending h0 = false ∧
    (at0 .nop).acquiring 0 h0 = false ∧ h0.drain = [] ∧ (at0 .nop).atoms = [] ∧ can (.fence 0x048) = true := by decide +kernel
/-! ## Hypotheses met: tags, arithmetic, the element pipe -/

/-- What the elementwise statements ask of an instruction, in the small machine. -/
def laneMet (lane : State → Hart → Gang → Instr → Option Lane) (i : Instr) : Bool :=
  let s := at0 i
  let h := on h0 i
  match lane s h g0 i with
  | some l =>
    can i && decide (Sound s ∧ Apart s h g0 ∧ ReadsFull s h g0 l.mask l.reads ∧
      Unreserved s h g0 (acted s h g0 l.mask) l.touched ∧ acted s h g0 l.mask ≠ [])
  | none => false

/-- A mask that takes every element of the small machine, whose tags are clear. -/
def notT2 : Mask := ⟨true, 2, true⟩

def tagForms : List Instr :=
  [.tand 0 1 2 notT2, .tor 7 7 7 notT2, .txor 0 1 2 Mask.none, .tandn 0 1 2 Mask.none, .tnot 0 1 Mask.none, .tmov 0 1 Mask.none,
   .tset 2 notT2, .tclr 0 Mask.none, .asrch (sf 0 1 2 0 0x003E00), .asrch (sf 0 1 2 0 0x1A48010), .asrchl (sf 0 2 0 0 0x0C7E00),
   .vcmp { v3 with D := 0x2F }, .vcmp { h3 with D := 0, fn4 := 1, B := 3 }, .fcmp { f3 with D := 0x11 }, .fcmp { f3 with D := 0, x := 1, B := 3 }]

theorem test_meets_TagResults : tagForms.all (laneMet fun _ h _ => tagged h) = true := by decide +kernel

def arithForms : List Instr :=
  [.vadd v3, .vadd { v3 with fn4 := 1, B := 63 }, .vadd { v3 with fn4 := 2, B := 0, x := 0xFFFFFF }, .vadd h3, .vsub { v3 with D := F 0 32 },
   .vadds { v3 with mask := 0xA, fn4 := 8 }, .vsubs v3, .vmul { v3 with fn4 := 4 }, .vmul h3, .vmull { v3 with D := F 64 64 }, .vabsd v3, .vdiv v3,
   .vdiv { v3 with fn4 := 4, type := 0 }, .vmac { v3 with D := F 64 64, fn4 := 4 }, .vmac h3, .vmulh { v3 with x := 0x3E60 }, .vneg { v2 with fn4 := 4 },
   .vneg { h3 with B := 0 }, .vabs v2, .vabs { h3 with B := 0 }, .vmin v3, .vmax h3, .vand v3, .vor v3, .vxor { v3 with B := F 0 32 }, .vnot v2,
   .vshl { v3 with fn4 := 6, B := 0, x := 31 }, .vshl { v3 with fn4 := 1, B := 9 }, .vshr { v3 with fn4 := 2, B := 0, x := 32 },
   .vsra { v3 with fn4 := 1, B := 8 }, .vsel { v3 with x := 7 }, .vsel { v3 with fn4 := 1, B := 1, type := 2 }, .vmov v2,
   .vmov { v2 with fn4 := 1, A := 0, B := 5 }, .vmov { v2 with fn4 := 2, A := 0, x := 0x800000 }, .vpopc { v2 with type := 0 },
   .vsimh { vf 0 (F 64 8) (F 0 64) 9 with fn4 := 1 }, .vsimd { vf 1 (F 64 1) (F 0 64) 9 with fn4 := 3 }, .vsimd (vf 0 (F 64 32) (F 0 8) 9),
   .vcvt { f2 with x := 1 }, .vcvt { v2 with x := 0x21, fn4 := 5 }, .vcvt { vf 2 (F 64 32) (F 0 8) 0 with x := 7 }]

theorem test_meets_VectorArithmetic : arithForms.all (laneMet arith) = true ∧
    (at0 .nop).scalesFull h0 g0 ((at0 .nop).activeEls h0 g0 Mask.none) = true := by decide +kernel

def pipeForms : List Instr :=
  [.fadd f3, .fadd { f3 with fn4 := 5, x := 1, B := 63 }, .fsub { f3 with D := F 0 32 }, .fmul { f3 with fn4 := 1 }, .fdiv f3, .fsqrt f2,
   .ffma { f3 with x := 0x3E60 }, .ffms { f3 with x := 0x3E40 }, .fmin f3, .fmax { f3 with x := 1, B := 3 }, .fabs f2, .fneg f2,
   .fcvt { f2 with x := 1 }, .fcvt { vf 5 (F 64 8) (F 0 16) 0 with x := 0x24 }, .frcp f2, .frsq f2, .fexp2 f2, .flog2 f2, .fsin { f2 with fn4 := 1 }, .fsin f2,
   .fcos f2, .ftanh f2, .fsig { vf 4 (F 64 16) (F 0 16) 0 with mask := 0xA, fn4 := 8 }, .ferf f2]

theorem test_meets_ElementPipe : pipeForms.all (laneMet pipe) = true := by decide +kernel

/-! ## Hypotheses met: counts, moves, tagged writes, microcode -/

theorem test_meets_TagCounts :
    ([.tcnt 1 2 Mask.none, .tany 0 2 notT2, .tfirst 63 7 ⟨true, 2, false⟩].all fun i : Instr =>
      can i && (counting (on h0 i) i).isSome) = true ∧ Sound (at0 .nop) := by decide +kernel

theorem test_meets_TagMoves :
    ([.tshup (sf 0 9 0 0 0x8000), .tshdn (sf 0 2 0 0 0x1A48000), .tpick 3 1 9 Mask.none, .tpick 0 7 17 notT2].all fun i : Instr =>
      can i && (moving (at0 i) (on h0 i) g0 i).isSome) = true ∧ Sound (at0 .nop) ∧ Apart (at0 .nop) h0 g0 := by decide +kernel

theorem test_meets_TaggedWrites :
    ([.awr (sf 0 1 9 0 0x43E00), .awr (sf 0 1 2 0 0x83E00), .awrl (sf 0 2 0 0 0x03E00), .awrl (sf 0 1 0 0 0x1A07E10)].all fun i : Instr =>
      match writing (on h0 i) i with
      | some (o, _, _) => can i && decide (Unreserved (at0 i) (on h0 i) g0 (acted (at0 i) (on h0 i) g0 o.mask) (Fld.words o.fld))
      | none => false) = true ∧ Sound (at0 .nop) ∧ Apart (at0 .nop) h0 g0 := by decide +kernel

/-- A hart with every expert gate open, and a routine of a compare pass and a write pass at entry 3072 (R115, R116). -/
def hx : Hart := { h0 with xctl := 0x7F }
def mx (i : Instr) : State :=
  { m0 (on hx i) with ucode := [(0, 0x1900000000000000), (1, 0xD980100000000000)], cores := [(0, { Core.fresh with ucodeOwner := some 0 })] }

theorem test_meets_Microcode_run :
    let o := sf 0 17 2 0 0x1A00C00
    let s := mx (.amcodeRun o)
    let h := on hx (.amcodeRun o)
    canIn (.amcodeRun o) s h = true ∧ Sound s ∧ Apart s h g0 ∧
    s.runRoutine h g0 0xC00 = some [0x1900000000000000, 0xD980100000000000] ∧
    ReadsFull s h g0 o.mask ((List.range 3).map (Uword.field (h.reg o.a))) ∧
    Unreserved s h g0 (acted s h g0 o.mask) (Fld.words (Uword.field (h.reg o.a) 2)) := by decide +kernel

theorem test_meets_Microcode_load :
    let i := Instr.amcodeLoad (sf 0 5 2 1 0xFFE)
    canAt hx i = true ∧ (m0 (on hx i)).runInProgress 0 0 = false ∧
    (match (m0 (on hx i)).readWords 0 (on hx i) ((List.range 2).map fun j => 0x110000 + BitVec.ofNat 64 (8 * j)) with
      | .words ws => ws == [0, 0]
      | _ => false) = true := by decide +kernel

/-! ## Hypotheses met: reductions, exchange, blocks -/

/-- The hypotheses of a reduction of field A. -/
def reduces (i : Instr) (v : VForm) : Bool :=
  can i && decide (ReadsFull (at0 i) (on h0 i) g0 v.m [v.A] ∧ actives (at0 i) (on h0 i) g0 v.m ≠ [])

/-- Nothing is active: the mask asks for a tag no row has. -/
def idles (i : Instr) (v : VForm) : Bool := can i && decide (actives (at0 i) (on h0 i) g0 v.m = [])

theorem test_meets_SumReductions :
    Sound (at0 .nop) ∧ Apart (at0 .nop) h0 g0 ∧ ([vf 0 1 (F 0 64) 0, { vf 1 0 (F 0 1) 0 with fn4 := 3 }, vf 7 1 (F 0 8) 0].all fun v => reduces (.vrsum v) v) = true ∧
    (at0 .nop).scalesFull h0 g0 ((at0 .nop).activeEls h0 g0 Mask.none) = true ∧
    ([vf 2 1 (F 0 32) 0, { vf 3 1 (F 0 16) 0 with fn4 := 1 }].all fun v => reduces (.frsum v) v && canAt { h0 with la := true } (.frsum v)) = true ∧
    h0.la = false := by decide +kernel

theorem test_meets_ExtremeReductions :
    ([vf 1 1 (F 0 32) 0, { vf 5 1 (F 0 8) 0 with fn4 := 1 }].all fun v =>
      reduces (.vrmin v) v && reduces (.vrmax v) v && ((actives (at0 .nop) h0 g0 v.m).map (fieldA (at0 .nop) h0 g0 v) == [0, 0, 0, 0])) = true ∧
    reduces (.frmax (vf 4 1 (F 0 16) 0)) (vf 4 1 (F 0 16) 0) = true := by decide +kernel

theorem test_meets_IdleReductions :
    ((List.range 7).all fun ty => [0, 1].all fun acc : Nat =>
      let w := match ty with | 0 => 64 | 1 => 1 | 2 => 32 | 3 => 16 | 4 => 16 | _ => 8
      let v := { vf ty 1 (F 0 w) 0 with mask := 0xA, fn4 := BitVec.ofNat 4 acc }
      idles (.vrmin v) v && idles (.vrmax v) v && (ty < 2 || 4 < ty || (idles (.frmax v) v && !(acc == 1 && (fmtOf ty).isNan ((h0.reg 1).toNat % 2 ^ w))))) = true ∧
    idles (.vrsum { vf 7 1 (F 0 8) 0 with mask := 0xA }) { vf 7 1 (F 0 8) 0 with mask := 0xA } = true := by decide +kernel

theorem test_meets_RunningSum :
    ([v2, { v2 with fn4 := 3, x := 7 }, { v2 with D := F 0 32, type := 0 }].all fun v =>
      reduces (.vscan v) v && decide (Unreserved (at0 .nop) h0 g0 (acted (at0 .nop) h0 g0 v.m) (Fld.words v.D))) = true := by decide +kernel

theorem test_meets_TopK :
    ([vf 1 0x281 (F 0 32) 2, { vf 2 0x281 (F 0 32) 9 with fn4 := 1 }, vf 0 0x281 (F 0 8) 17].all fun v => reduces (.vtopk v) v) = true := by decide +kernel

theorem test_meets_Exchange :
    Sound (at0 .nop) ∧ Apart (at0 .nop) h0 g0 ∧
    ([.vbcast (sf 0 7 0 0 0x1F003E20), .vbcast (sf 0 9 0x1A 0 0x1F003E20), .vslide (sf 1 2 0 0 0x1F103E00), .vslide (sf 1 2 0 1 0x1F103E00),
      .vpermr (sf 0 7 0 0 0x1F103E00), .vpermr (sf 0 7 0 1 0x1F103E00)].all fun i : Instr =>
        match exchanged (on h0 i) i with
        | some (o, _, _) => can i && decide (AllFull (at0 i) (on h0 i) g0 o.xA ∧
            Unreserved (at0 i) (on h0 i) g0 (actives (at0 i) (on h0 i) g0 o.xmask) (Fld.words o.fld))
        | none => false) = true ∧
    can (.vext (sf 1 7 0 0 0x5F000000)) = true ∧ can (.vext (sf 1 9 0 0 0x1F000000)) = true ∧ can (.vins (sf 1 7 0 0 0x3E00)) = true ∧
    AllFull (at0 .nop) h0 g0 (F 0 32) ∧ Unreserved (at0 .nop) h0 g0 [3] (Fld.words (F 0 32)) := by decide +kernel

theorem test_meets_Blocks :
    let v := { vf 7 (F 64 8) (F 0 32) 0 with x := 2 }
    let u := { vf 7 (F 64 8) 0 0 with fn4 := 2, x := 0xFFFFFF }
    reduces (.vbfpq v) v = true ∧ can (.vscale u) = true ∧
    Unreserved (at0 .nop) h0 g0 ((actedBlocks (at0 .nop) h0 g0 v.m).flatMap fun b => (List.range 32).map (32 * b + ·)) (15 :: Fld.words v.D) ∧
    ReadsFull (at0 .nop) h0 g0 u.m [u.D] ∧ (at0 .nop).scalesFull h0 g0 ((at0 .nop).activeEls h0 g0 u.m) = true ∧
    Unreserved (at0 .nop) h0 g0 ((actedBlocks (at0 .nop) h0 g0 u.m).map (32 * ·)) [15] := by
  decide +kernel

/-! ## Hypotheses met: the matrix engines -/

/-- A hart with the unfold descriptors of a 2 by 2 image of one FP16 chunk (R200, R201). -/
def hu : Hart :=
  { h0 with adesc := h0.adesc.set 0 (4 * 2 ^ 18) |>.set 1 0x0001000100010001 |>.set 2 0x0000010101010101 }

def productForms : List Instr :=
  [.mma { mm with x := 0x007451 }, .mma { mm with D := 0x0F, type := 4, mask := 0xA, fn4 := 2, x := 0x007451 }, .mma { vf 0 0x1C3 (F 0 64) (F 64 64) with x := 0x011451 },
   .mmas { mm with x := 0x208451 }, .mmau { mm with x := 0x000440 }]

theorem test_meets_MatrixEntry :
    ((productForms ++ ([.mlda (sf 0 17 0 0 0x3E00), .mlda (sf 0 17 0 0 0x22BE10), .msta (sf 0 17 0 0 0x3E00), .mzero (sf 0 0 0 0 0x38000)] : List Instr)).all
      fun i =>
        let h := on hu i
        let s := m0 h
        canIn i s h && reportsTile i && match tileName i with
          | some (t, e) => decide (s.report g0 h.slot t e = none ∧ (s.coreAt (g0.first + e)).mqueue.length < 8 ∧ s.settledFor 0 h 3 = true ∧ s.upsets = [])
          | none => false) = true ∧
    ((coveredRows (sf 0 17 0 0 0x3E00) 0).all fun q =>
      !(at0 .nop).reserved (gridKey (at0 .nop) h0 g0 0 q) (Fld.words (F 0 32))) = true := by decide +kernel

theorem test_meets_MatrixSupport :
    can (.mdesc (sf 0 9 0 0 3)) = true ∧ can (.mdescRd (sf 1 0 0 1 3)) = true ∧ can (.mwait (sf 0 0 0 0 0x400000)) = true ∧
    can (.mwait (sf 0 0 0 0 0)) = true ∧ can (.mchk (sf 1 0 0 0 0x78000)) = true ∧
    (∀ e ∈ waitEngines g0 (sf 0 0 0 0 0x400000), (at0 .nop).queuedOn 0 (g0.first + e) none = false ∧
      ∀ t ∈ List.range 16, (at0 .nop).report g0 0 t e = none) ∧
    (at0 .nop).queuedOn 0 0 (some 15) = false := by decide +kernel

/-- A core whose queue holds one entry of the test hart. -/
def queued (i : Instr) (regs : List Nat) (started : Bool) : MEntry := ⟨0, 0, i, regs, 0, false, hu.adesc, [], started, false, []⟩
def mq0 (m : MEntry) : State := { m0 h0 with cores := [(0, { Core.fresh with mqueue := [m] })] }

theorem test_meets_MatrixEngine_start :
    let m := queued (.mma { mm with x := 0x007451 }) [0, 0, 3] false
    (mq0 m).who = 0 ∧ ((mq0 m).coreAt 0).mqueue = [m] ∧ m.started = false ∧ ((mq0 m).coreAt 0).frozen = false ∧
    (mq0 m).operandsFull m true = true := by decide +kernel

/-- A product, MLDA, MZERO and MSTA that may commit. -/
theorem test_meets_MatrixEngine_commit :
    ([queued (.mma { mm with x := 0x007451 }) [0, 0, 3] true, queued (.mmau { mm with x := 0x000440 }) [64] true,
      queued (.mlda (sf 0 8 0 0 0x3E00)) [64] true, queued (.mzero (sf 0 0 0 0 0x200000)) [] true,
      queued (.msta (sf 0 17 0 0 0x3E00)) [0] true].all fun m =>
      decide (Commits (mq0 m) 0 m [] h0 g0 0 0)) = true ∧
    WellFormed (.msta (sf 0 17 0 0 0x3E00)) = true := by decide +kernel

/-- The rows an MSTA of the small grant covers are all different. -/
theorem test_meets_MatrixEngine_rows :
    ((coveredRows (sf 0 17 0 0 0x3E00) 0).map (gridKey (at0 .nop) h0 g0 0)).Nodup := by
  have hk : ∀ a < 64, ∀ b < 64, gridKey (at0 .nop) h0 g0 0 (64 * a + b) = 1024 * (b % 4) + (16 * a + b / 4) := by decide +kernel
  have hr : coveredRows (sf 0 17 0 0 0x3E00) 0 = (List.range 4096).map (0 + ·) := rfl
  rw [hr, List.map_map, List.Nodup, List.pairwise_map]
  refine List.Pairwise.imp_of_mem (fun {x y} hx hy hn h => hn ?_) List.nodup_range
  have hx' := List.mem_range.mp hx
  have hy' := List.mem_range.mp hy
  have ex := hk (x / 64) (by omega) (x % 64) (by omega)
  have ey := hk (y / 64) (by omega) (y % 64) (by omega)
  rw [Nat.div_add_mod] at ex ey
  simp only [Function.comp_apply, Nat.zero_add] at h
  rw [ex, ey] at h
  omega

theorem test_meets_IntegerProduct :
    let m := queued (.mma { vf 1 0x1C3 (F 0 64) (F 64 64) with x := 0x007451 }) [0, 0, 3] true
    ∃ v, m.instr = .mma v ∧ isInt v.ty = true ∧ v.m.en = false ∧ 0 < m.depth := ⟨_, rfl, by decide, by decide, by decide⟩

/-! ## Hypotheses met: vector memory -/

/-- A vector load of four elements: each has its address at the physical address given, below the one that fails. -/
def loads (s : State) (h : Hart) (i : Instr) (pa : Nat → Nat) (near : Option (Nat × Cause)) : Bool :=
  match vectorAccess s h g0 i with
  | some (o, start, width, va, ix) =>
    let es := acted s h g0 o.mask
    canIn i s h && isVectorLoad i && decide (Sound s ∧ Apart s h g0 ∧ ReadsFull s h g0 o.mask (if ix then [o.vIndex] else []) ∧
      Unreserved s h g0 es (Fld.wordsOf start width) ∧ s.keep = false ∧ s.elemOrder = [] ∧ es = [0, 1, 2, 3] ∧
      lowest (accessFails s h g0 (width / 8) .load va) es = near) &&
    (below near es).all fun e => got (s.access (s.agentOf h (g0.elemCore e - g0.first)) (va e) .load 0) (pa e) &&
      !s.accessHeld 0 (pa e) (width / 8) && (s.home (pa e) == .remote || s.answerOf 0 (pa e) (.read (width / 8)) (e + 1) == none)
  | none => false

/-- The same of a vector store, whose elements have homes of one kind. -/
def stores (s : State) (h : Hart) (i : Instr) (pa : Nat → Nat) (kind : Home → Bool) (bad : Option (Nat × Cause) := none) : Bool :=
  match vectorAccess s h g0 i with
  | some (o, start, width, va, ix) =>
    let n := width / 8
    let act := acted s h g0 o.mask
    canIn i s h && isVectorStore i && decide (Sound s ∧ ReadsFull s h g0 o.mask (if ix then [o.vIndex] else []) ∧
      s.elemOrder = [] ∧ act = [0, 1, 2, 3] ∧ lowest (accessFails s h g0 n .store va) act = bad ∧ s.remoteOut 0 true = false ∧
      (o.so = 0 ∨ s.settledFor 0 h (o.ext.extractLsb' 15 3).toNat = true) ∧ s.lines = []) &&
    (act.all fun e => (Fld.wordsOf start width).all fun x => (rowOf s h g0 e).full.getLsbD x) &&
    (below bad act).all fun e => got (s.access (s.agentOf h (g0.elemCore e - g0.first)) (va e) .store 0) (pa e) && kind (s.home (pa e)) &&
      !s.accessHeld 0 (pa e) n && !s.storeReserved (pa e) n && !s.ownDrain h (pa e) n && !s.pageMoving (pa e)
  | none => false

/-- Homes in memory, in a local store, on another device. -/
def inMem : Home → Bool
  | .mem _ => true
  | _ => false
def inLs : Home → Bool
  | .ls _ _ => true
  | _ => false
def far : Home → Bool := fun x => x == .remote

/-- The test hart with another address in a register, at an instruction. -/
def withReg (h : Hart) (r : Reg) (a : W64) (i : Instr) : Hart := on { h with regs := h.regs.set r.toNat a r.isLt } i

theorem test_meets_VectorLoads :
    ([(.vld (sf 0 5 0 0 0x3E00), fun e => 0x20000 + 4 * e), (.vldff (sf 0 5 0 1 0x80E08), fun e => 0x20000 + e),
      (.vlds (sf 0 14 8 0 0x7E40), fun e => 0x20040 + 64 * e), (.vldx (sf 0 5 0 0 0x02003E40), fun _ => 0x20000),
      (.rld (sf 0 6 0 0 0), fun e => 0x200000000000 + 64 * e), (.vld (sf 0 6 0 0 0x83E00), fun e => 0x200000000000 + 4 * e)].all
      fun x : Instr × (Nat → Nat) => loads (at0 x.1) (on h0 x.1) x.1 x.2 none) = true := by decide +kernel

/-- Elements that fail: the third lies in control space, the first is misaligned, the second holds poison. -/
theorem test_meets_VectorLoads_faults :
    ([Instr.vld (sf 0 5 0 0 0x3E00), .vldff (sf 0 5 0 0 0x3E00)].all fun i =>
      let h := withReg h0 5 0x11FFF8 i
      let h' := withReg h0 5 0x110001 i
      let h'' := withReg h0 5 0x11003C i
      let s := { m0 h'' with poison := [(0x20040 / 64, true)] }
      loads (m0 h) h i (fun e => 0x2FFF8 + 4 * e) (some (2, .dataProt)) && loads (m0 h') h' i (fun _ => 0) (some (0, .align)) &&
        loads s h'' i (fun e => 0x2003C + 4 * e) none && !s.physPoison 0x2003C 4 && s.physPoison 0x20040 4) = true := by decide +kernel

/-- A replica holds the line of the first two elements; another device has not answered, or has, the last with poison. -/
theorem test_meets_VectorLoads_far :
    (let i := Instr.vld (sf 0 5 0 0 0x43E00)
     let s := { at0 i with replicas := [⟨replicaSlice 0 0, 0, 0x20000 / 64, 0x900000007⟩] }
     loads s (on h0 i) i (fun e => 0x20000 + 4 * e) none = true ∧ given s (on h0 i) g0 true 4 (fun e => 0x20000 + 4 * e) (fun _ => none) 1 = some 9) ∧
    ([Instr.vld (sf 0 20 0 0 0x3E00), .vldff (sf 0 20 0 0 0x3E00)].all fun i =>
      let ans (e : Nat) : Option (BitVec 512) := if e = 3 then none else some 7
      let s := { at0 i with remotes := (List.range 4).map fun e => ⟨0, 3, false, false, false, 0, 2 ^ 46 + 4 * e, .read 4, false, none, e + 1, some (ans e)⟩ }
      loads (at0 i) (on h0 i) i (fun e => 2 ^ 46 + 4 * e) none && decide (NothingKept (at0 i) 0) && h0.drain == [] && h0.buf == [] &&
        loads s (on h0 i) i (fun e => 2 ^ 46 + 4 * e) none && (List.range 4).all fun e =>
          s.home (2 ^ 46 + 4 * e) == .remote && s.answerOf 0 (2 ^ 46 + 4 * e) (.read 4) (e + 1) == some (ans e)) = true := by
  decide +kernel

/-- A hart under MODE.DET. -/
def hd : Hart := { h0 with det := true }

theorem test_meets_VectorStores :
    ([(.vst (sf 0 5 0 0 0x3E00), fun e => 0x20000 + 4 * e, inMem), (.vst (sf 0 5 0 2 0x1BE00), fun e => 0x20000 + 4 * e, inMem),
      (.vsts (sf 0 14 8 0 0x1A07E40), fun e => 0x20040 + 64 * e, inMem), (.vstx (sf 0 5 0 0 0x02003E40), fun _ => 0x20000, inMem),
      (.rst (sf 0 5 0 0 0), fun e => 0x20000 + 64 * e, inMem), (.vst (sf 0 6 0 0 0x3E00), fun e => 0x200000000000 + 4 * e, inLs),
      (.vst (sf 0 20 0 0 0x3E00), fun e => 0x400000000000 + 4 * e, far)].all
      fun x : Instr × (Nat → Nat) × (Home → Bool) => stores (at0 x.1) (on h0 x.1) x.1 x.2.1 x.2.2) = true ∧
    (at0 .nop).linksDown.getLsbD ((at0 .nop).portOf 0x400000000000) = false ∧
    stores (m0 (on hd (.vst (sf 0 5 0 0 0x3E00)))) (on hd (.vst (sf 0 5 0 0 0x3E00))) (.vst (sf 0 5 0 0 0x3E00))
      (fun e => 0x20000 + 4 * e) inMem = true ∧ hd.buf.length + 4 * 4 ≤ 16384 := by
  decide +kernel

/-- The third element fails: it lies in control space, or past the page of the other device. -/
theorem test_meets_VectorStores_faults :
    ([(h0, .vst (sf 0 5 0 0 0x3E00)), (h0, .vst (sf 0 5 0 2 0x1BE00)), (hd, .vst (sf 0 5 0 0 0x3E00))].all fun x : Hart × Instr =>
      let h := withReg x.1 5 0x11FFF8 x.2
      stores (m0 h) h x.2 (fun e => 0x2FFF8 + 4 * e) inMem (some (2, .dataProt))) = true ∧
    (let i := Instr.vst (sf 0 20 0 0 0x3E00)
     let h := withReg h0 20 0x14FFF8 i
     stores (m0 h) h i (fun e => 0x40000000FFF8 + 4 * e) far (some (2, .dataXlate)) = true) := by decide +kernel

/-! ## Hypotheses met: atomics and synchronisation -/

/-- An access of a form whose address is in sa, to a place of this device or another, by a hart. -/
def landsFor (h1 : Hart) (i : Instr) (k : Access) (va : W64) (n pa : Nat) : Bool :=
  let h := on h1 i
  let s := m0 h
  decide (canAt h1 i = true ∧ va.toNat % n = 0 ∧ s.accessHeld 0 pa n = false ∧ s.physPoison pa n = false ∧
    s.storeReserved pa n = false ∧ s.pageMoving pa = false ∧ s.settledFor 0 h 4 = true ∧ s.settledFor 0 h 3 = true ∧
    s.hasPosted 0 h = false ∧ s.postedAtoms 0 = false ∧ h.drain = [] ∧ s.remoteOut 0 true = false ∧ s.upsets = [] ∧
    s.lines.length < 24576 ∧ s.ownDrain h pa n = false ∧ s.coreHeld 0 pa = false) && got (s.access (s.agentOf h) va k 0) pa

/-- An access of the test hart to this device. -/
def lands (i : Instr) (k : Access) (va : W64) (n pa : Nat) : Bool :=
  landsFor h0 i k va n pa && decide ((at0 i).home pa ≠ .remote ∧ (on h0 i).det = false)

/-- s19 holds a compare value for ACAS in the last word of the list of atomics. -/
theorem test_meets_AtomicRequests :
    lands (.amo (sf 1 5 2 3 0x380A)) .atomic 0x110000 8 0x20000 = true ∧
    lands (.amo (sf 0 6 2 2 0x10)) .atomic 0xFFFFFFC000000 4 0x200000000000 = true ∧
    lands (.amo (sf 1 5 2 3 0x205)) .atomic 0x110000 8 0x20000 = true ∧
    landsFor h0 (.amo (sf 1 20 2 3 0)) .atomic 0x140000 8 0x400000000000 = true ∧ (at0 .nop).home 0x400000000000 = .remote ∧
    ([sf 0 5 1 0 0x7C000005, sf 0 5 1 0 0x7C000015].all fun o =>
      let s := at0 (.vamo o)
      let h := on h0 (.vamo o)
      can (.vamo o) && decide (h.sent = none ∧ h.det = false ∧ s.remoteOut 0 true = false ∧ Sound s ∧ Apart s h g0 ∧
        ReadsFull s h g0 o.amoMask [o.amoIndex] ∧ Unreserved s h g0 (acted s h g0 o.amoMask) (Fld.words o.amoF) ∧ s.settledFor 0 h 0 = true ∧
        acted s h g0 o.amoMask = [0, 1, 2, 3] ∧ s.home 0x20000 = .mem 0x20000 ∧ s.ownDrain h 0x20000 (Fld.width o.amoF / 8) = false) &&
      (acted s h g0 o.amoMask).all fun e => decide (∀ x ∈ Fld.words o.amoF, (rowOf s h g0 e).full.getLsbD x = true) &&
        decide ((h.reg o.a + BitVec.ofNat 64 ((rowOf s h g0 e).fld o.amoIndex)).toNat % (Fld.width o.amoF / 8) = 0) &&
        got (s.access (s.agentOf h (g0.elemCore e - g0.first)) (h.reg o.a + BitVec.ofNat 64 ((rowOf s h g0 e).fld o.amoIndex)) .atomic 0)
          0x20000) = true := by
  decide +kernel

/-- A returning VAMO whose results are back. -/
theorem test_meets_AtomicRequests_end :
    let i := Instr.vamo (sf 0 5 1 0 0x7C000005)
    let h := { on h0 i with sent := some (4, none), waiting := true }
    canIn i (m0 h) h = true ∧ h.sent = some (4, none) ∧ h.lost = [] ∧ (m0 h).hasReturning 0 = false ∧ NothingKept (m0 h) 0 ∧
      Sound (m0 h) ∧ Apart (m0 h) h g0 ∧ h.det = false := by
  decide +kernel

theorem test_meets_AtomicPerform :
    ([0, 1, 2, 3, 4, 5, 6, 7, 8, 9, 10].all fun fn : Nat => [AtomDest.posted, AtomDest.reg 1 0x110000, AtomDest.field 0 0 32 0 0].all fun d : AtomDest =>
      [(0x20000, Home.mem 0x20000), (0x200000000000, Home.ls 0 0)].all fun x : Nat × Home =>
      let r : AtomReq := ⟨0, fn, x.1, if fn = 1 then 4 else 8, 5, 6, 3, false, 0, d⟩
      let s : State := { m0 h0 with atoms := [r] }
      decide (s.atoms[s.who]? = some r ∧ s.atomReady s.who r = true ∧ s.home r.pa = x.2 ∧ s.physPoison r.pa r.size = false ∧
        s.hartAt r.hart = some h0 ∧ 0x20000 % r.size = 0 ∧ (r.size = 4 ∨ r.size = 8) ∧ r.v.toNat < 2 ^ (8 * r.size) ∧
        r.v'.toNat < 2 ^ (8 * r.size) ∧ s.upsets = [] ∧ s.lines.length < 24576)) = true := by
  decide +kernel

/-- Under MODE.DET, an AMO at its turn of the commit. -/
theorem test_meets_AtomicPerform_det :
    landsFor { h0 with det := true, waiting := true, go := true } (.amo (sf 1 5 2 3 0x380A)) .atomic 0x110000 8 0x20000 = true ∧
    (at0 .nop).home 0x20000 = .mem 0x20000 := by decide +kernel

/-- A full/empty access to the words of the local store at s6, full or empty. -/
def feMet (i : Instr) (full ready : Bool) : Bool :=
  let h := { on h0 i with waiting := true }
  let s := { m0 h with rows := if full then [] else [(0, ⟨0, 0, 0⟩)] }
  match feAccess h i with
  | some (o, kind, va, n) =>
    canIn i s h && decide (va.toNat % (4 * n) = 0 ∧ s.home 0x200000000000 = .ls 0 0 ∧ s.accessHeld 0 0x200000000000 (4 * n) = false ∧
      s.physPoison 0x200000000000 (4 * n) = false ∧ s.upsets = [] ∧
      (2 ≤ kind → s.settledFor 0 h (o.ext.extractLsb' 17 3).toNat = true ∧ s.storeReserved 0x200000000000 (4 * n) = false) ∧
      s.isRefused 0 h = false ∧ FirstInLine s 0 0x200000000000 (4 * n) ∧ s.parkOf 0 = none ∧
      (kind ≠ 3 → (∀ b ∈ s.lsFull 0 0 n, b = ((kind != 2) == ready))) ∧ s.lsFull 0 0 n ≠ [] ∧
      (o.ext.getLsbD 16 = true → h.det = true ∨ h.reg o.b ≠ 0) ∧
      s.who = 0 ∧ h.waiting = true ∧ h.current = some i ∧ h.det = false ∧ h.conv.isSome = true) &&
    got (s.access (s.agentOf h) va (if kind < 2 then .load else .store) 0) 0x200000000000
  | none => false

theorem test_meets_FullEmpty :
    feMet (.ldf (sf 1 6 0 2 0)) true true = true ∧ feMet (.ldfe (sf 1 6 0 3 0x20000)) true true = true ∧
    feMet (.ste (sf 1 6 0 2 0)) false true = true ∧ feMet (.ste (sf 1 6 0 3 0)) false true = true ∧
    feMet (.stf (sf 1 6 0 2 0)) true true = true ∧ feMet (.stf (sf 1 6 0 2 0)) false true = true := by
  decide +kernel

/-- The words are in the other state: the access parks; with a timeout (s8 holds 64) it may expire. -/
theorem test_meets_FullEmpty_parks :
    ([0, 0x10000].all fun x : Nat => feMet (.ldf (sf 1 6 (if x = 0 then 0 else 8) 2 x)) false false &&
      feMet (.ldfe (sf 1 6 (if x = 0 then 0 else 8) 3 x)) false false && feMet (.ste (sf 1 6 (if x = 0 then 0 else 8) 2 x)) true false) = true := by
  decide +kernel

theorem test_meets_MarksAndWakes :
    (∀ j ∈ List.range 2, lands (.feset (sf 0 6 2 0 0)) .store (0xFFFFFFC000000 + BitVec.ofNat 64 (4 * j)) 4 (0x200000000000 + 4 * j) = true ∧
      (at0 .nop).home (0x200000000000 + 4 * j) = .ls 0 (4 * j)) ∧ can (.feset (sf 0 6 2 1 0x40000)) = true ∧ h0.reg 2 = 2 ∧
    (at0 .nop).coreHeld 0 0x200000000000 = false ∧
    lands (.stwk (sf 0 5 2 3 4)) .store 0x110000 8 0x20000 = true ∧ (at0 .nop).home 0x20000 = .mem 0x20000 ∧
    lands (.stwk (sf 0 6 2 2 1)) .store 0xFFFFFFC000000 4 0x200000000000 = true ∧ (at0 .nop).home 0x200000000000 = .ls 0 0 := by
  decide +kernel

theorem test_meets_AddressWaits :
    ([(0, 17, true), (1, 2, true), (2, 2, true), (3, 9, true), (4, 9, true), (5, 17, true), (0, 2, false), (1, 17, false), (3, 2, false)].all
      fun x : Nat × Reg × Bool =>
      let i := Instr.waita (sf 1 5 x.2.1 3 x.1)
      let h := { on h0 i with waiting := true }
      lands i .load 0x110000 8 0x20000 && canIn i (m0 h) h && !(m0 h).isRefused 0 h && (m0 h).parkOf 0 == none && h.current == some i &&
      waitMet x.1 8 ((at0 .nop).loadVal h0 0x20000 8) (h0.reg x.2.1).toNat == x.2.2) = true := by
  decide +kernel

theorem test_meets_Barriers :
    can (.barGang (sf 1 0 0 0 0)) = true ∧ h0.released = none ∧ h0.barrier = none ∧ (at0 .nop).settledFor 0 h0 1 = true ∧
    (g0.live &&& ~~~(g0.arr ||| (1#4 <<< h0.slot))) = 0 ∧ g0.live ≠ 0 ∧ h0.slot < 4 ∧
    can (.barClus (sf 1 12 0 1 0)) = true ∧ (at0 .nop).settledFor 0 h0 2 = true ∧ ((at0 .nop).barAt 0).arrived = [] ∧
    (h0.reg 12).toNat / 256 % 256 = 1 ∧
    ([.barGang (sf 1 0 0 0 0), .barClus (sf 1 12 0 1 0)].all fun i : Instr =>
      let h := { on h0 i with waiting := true, barrier := some (none, 0), released := some 5 }
      decide (Executes i (m0 h) 0 h g0 ∧ h.barrier.isSome = true ∧ h.released = some 5 ∧ h.current = some i ∧ (m0 h).who = 0)) = true := by
  decide +kernel

theorem test_meets_Timeouts :
    ([(Instr.barGang (sf 1 0 4 0 1), (none : Option Nat)), (.barClus (sf 1 12 4 1 1), some 0)].all fun x : Instr × Option Nat =>
      let h := { on h0 x.1 with waiting := true, barrier := some (x.2, 0) }
      decide ((m0 h).hartAt 0 = some h ∧ (m0 h).gangAt h.gang = some g0 ∧ h.current = some x.1 ∧ h.det = false ∧ h.released = none ∧
        h.slot < 4 ∧ (m0 h).who = 0)) = true ∧
    (let p : Park := ⟨0, 0x200000000000, 4, 0, true, 0, none⟩
     let s := { m0 h0 with parks := [p] }
     s.who < 0x1000000 ∧ s.parkOf 0 = some p ∧ p.refused = true ∧ s.hartAt s.who = some h0 ∧ h0.det = false) ∧
    (let i := Instr.waita (sf 1 5 2 3 0x88)
     let h := { on h0 i with waiting := true }
     canIn i (m0 h) h = true ∧ h.current = some i ∧ (m0 h).who = 0 ∧ (sf 1 5 2 3 0x88).ext.getLsbD 3 = true) ∧
    lands (.waita (sf 1 5 2 3 0x88)) .load 0x110000 8 0x20000 = true := by decide +kernel

/-- A machine whose core 0 has a deque, and a DQPOP of hart 9 parked at it, or this hart's own with the entry it was
given. -/
def dqs (h : Hart) (q : List (BitVec 63)) (parks : List Park) : State :=
  { m0 h with cores := [(0, { Core.fresh with deque := q })], parks := parks, harts := [(0, h), (9, { h0 with slot := 1 })] }

theorem test_meets_Deques :
    (let i := Instr.dqpush (sf 1 2 0 0 0)
     ([([5, 7], []), (List.replicate 64 1, []), ([], [⟨9, 0, 0, 3, false, 0, none⟩])] : List (List (BitVec 63) × List Park)).all
       (fun x =>
        let s := dqs (on h0 i) x.1 x.2
        canIn i s (on h0 i) && s.settledFor 0 (on h0 i) 2 && (s.waitingPop 0).isSome == (x.2 != []) && (s.coreAt 0).deque == x.1) = true) ∧
    ([.dqpop (sf 1 0 0 0 0), .dqpop (sf 0 0 0 0 1)].all fun i : Instr =>
      let s := dqs (on h0 i) [5, 7] []
      canIn i s (on h0 i) && (s.coreAt 0).deque == [5] ++ [7] && !s.isRefused 0 (on h0 i) && (s.parkOf 0).bind Park.got == none) = true ∧
    can (.dqpop (sf 0 0 0 0 1)) = true ∧ ((at0 .nop).coreAt 0).deque = [] ∧
    (let i := Instr.dqpop (sf 1 0 0 0 0)
     let p : Park := ⟨0, 0, 0, 3, false, 0, some 8⟩
     let h := { on h0 i with waiting := true }
     canIn i (dqs h [] [p]) h = true ∧ (dqs h [] [p]).parkOf 0 = some p ∧ p.got = some 8) ∧
    can (.dqsteal (sf 1 1 0 0 0)) = true ∧ (at0 .nop).coreMoving ((at0 .nop).coreOfLcid 7) = false ∧
    (at0 .nop).gangAway ((at0 .nop).coreOfLcid 7) = false := by decide +kernel
/-! ## Hypotheses met: the copy engines -/

/-- Doublewords in the data page, from byte n on. -/
def withWords (s : State) (n : Nat) (ws : List W64) : State :=
  s.setMemBytes (0x20000 + n) (ws.flatMap fun w => leBytes 8 w.toNat)

/-- A hart with a grant of two rows an array, so eight row indices. -/
def hs : Hart := { h0 with rows := 2 }

theorem test_meets_CopyInstructions :
    lands (.cpush (sf 1 14 0 0 0)) .atomic 0x110040 64 0x20040 = true ∧ ((at0 .nop).coreAt 0).copies.length < 64 ∧
    can (.cstat (sf 1 0 0 0 7)) = true ∧ can (.cwait (sf 0 0 0 0 0x20)) = true ∧ h0.cwait = none ∧
    (∀ ch, ch < 8 → SMap.find ((at0 .nop).coreAt 0).errs ch = none) ∧ can (.ckill (sf 1 0 0 0 3)) = true ∧
    landsFor hx (.ckillRel (sf 0 14 0 1 0)) .atomic 0x110040 8 0x20040 = true ∧ (at0 .nop).home 0x20040 = .mem 0x20040 ∧
    (at0 .nop).accessHeld 0 0x20040 8 = false ∧ (at0 .nop).ownFree 0 0 0x20040 = true ∧ (at0 .nop).physPoison 0x20040 8 = false := by
  decide +kernel

theorem test_meets_CopyInstructions_rows :
    let i := Instr.xrow (sf 19 17 2 0 0)
    let h := on hs i
    let s := m0 h
    canIn i s h = true ∧ Sound s ∧ ((List.range (h.rowLimit g0)).map (gridKey s h g0 0)).Nodup ∧
    ∀ j ∈ List.range 2, (s.rowAt (gridKey s h g0 0 (0 + j))).full = 0xFFFF ∧
      s.reserved (gridKey s h g0 0 (4 + j)) (List.range 16) = false := by decide +kernel

/-- A record of 16 bytes from 0x110100 to 0x110200; d1 and d7 vary. -/
def record (d1 d7 : W64) : List W64 := [0x8000000000000000, d1, 0x110100, 0x110200, 0x0001000100000010, 0, 0, d7]
/-- A pushed record, begun or not, at a stream offset. -/
def crec (words : Option (List W64)) (off : Nat) : CRec := ⟨0, 0, 0, 0, 0x110040, 0, true, some 1, words, off, [], false⟩
/-- The machine with that record in core 0's queue and in memory. -/
def mc (d1 d7 : W64) (c : CRec) : State :=
  { withWords (m0 h0) 0x40 (record d1 d7) with cores := [(0, { Core.fresh with copies := [c] })] }

theorem test_meets_CopyEngine_begin :
    let c := crec none 0
    let s := mc 0 0 c
    (s.coreAt s.who).copies.find? (fun c => c.words.isNone) = some c ∧ s.coreMoving s.who = false ∧
    SMap.find (s.coreAt s.who).errs c.ch = none ∧ c.chained = false ∧
    got (s.access c.agent (BitVec.ofNat 64 c.addr) .copyRead 0) 0x20040 = true ∧
    (∀ j ∈ List.range 8, s.home (0x20040 + 8 * j) = .mem (0x20040 + 8 * j) ∧ s.physPoison (0x20040 + 8 * j) 8 = false) ∧
    recordAt s 0x20040 = record 0 0 ∧ s.recordReason c (recordAt s 0x20040) = none ∧ s.markHeld 0 c (record 0 0) = false ∧
    s.markReserved (record 0 0) = false ∧ s.snapshotReads c (record 0 0) = [] ∧ s.upsets = [] := by decide +kernel

theorem test_meets_CopyEngine_land :
    let r := record 0 0
    let c := crec (some r) 0
    let s := mc 0 0 c
    s.coreMoving 0 = false ∧ s.activeRec 0 0 = some (c, r) ∧ c.off < Rec.len r ∧ Rec.inLine r c.off = List.range 16 ∧ c.snap = [] ∧
    c.ch = 0 ∧ s.lines.length + 128 ≤ 24576 ∧
    (∀ n ∈ Rec.inLine r c.off, got (s.spotPa c.agent .copyRead (Rec.source r n)) (0x20100 + n) = true ∧
      s.home (0x20100 + n) = .mem (0x20100 + n) ∧ s.physPoison (0x20100 + n) 1 = false ∧
      got (s.spotPa c.agent .copyWrite (Rec.dest r n)) (0x20200 + n) = true ∧ s.home (0x20200 + n) = .mem (0x20200 + n) ∧
      s.accessHeld (engineId 0 0) (0x20200 + n) 1 = false ∧ s.pageMoving (0x20200 + n) = false) ∧
    ((Rec.inLine r c.off).map fun n => s.redirect (0x20200 + n)).Nodup := by decide +kernel

theorem test_meets_CopyEngine_complete :
    ([((0x500 : W64), (0x110300 : W64)), (0, 0)].all fun x : W64 × W64 =>
      let r := record x.1 x.2
      let c := crec (some r) 16
      let s := mc x.1 x.2 c
      decide (s.coreMoving 0 = false ∧ s.activeRec 0 0 = some (c, r) ∧ Rec.len r ≤ c.off ∧ Rec.next r = 0 ∧ Rec.cwen r = Rec.pin r) &&
      got (s.access c.agent (Rec.caddr r) .copyWrite 0) 0x20300 == Rec.cwen r &&
      got (s.access c.agent (BitVec.ofNat 64 c.addr) .atomic 0) 0x20040 && s.home 0x20300 == .mem 0x20300 && s.home 0x20040 == .mem 0x20040 &&
      !s.pageMoving 0x20300 && !s.pageMoving 0x20040 && !s.accessHeld (engineId 0 8) 0x20040 8 && !s.physPoison 0x20040 8 && s.lines == [] && !s.accessHeld (engineId 0 0) 0x20300 4 && !s.storeReserved 0x20300 4) = true := by decide +kernel

/-- A record of 16 bytes with the given OWN and NEXT, kinds, source, destination, and completion address. -/
def recWith (d0 d1 src dst d7 : W64) : List W64 := [d0, d1, src, dst, 0x0001000100000010, 0, 0, d7]
/-- The machine with a record of core 0 and its words in memory. -/
def mr (r : List W64) (c : CRec) : State := { withWords (m0 h0) 0x40 r with cores := [(0, { Core.fresh with copies := [c] })] }
/-- OWN. -/
def own0 : W64 := 0x8000000000000000

/-- A record whose OWN is clear, one of another channel; one to a local store. -/
theorem test_meets_CopyEngine_checks :
    ([(recWith 0 0 0x110100 0x110200 0, some 2), (recWith own0 0x10 0x110100 0x110200 0, some 3), (recWith own0 4 0x110100 0 0, none)].all
      fun x : List W64 × Option Nat =>
      let c := crec none 0
      let s := mr x.1 c
      let r := recordAt s 0x20040
      decide (BeginsNext s 0 c ∧ s.who = 0 ∧ r = x.1 ∧ s.recordReason c r = x.2 ∧ s.home 0x20040 = .mem 0x20040 ∧
        s.ownFree 0 0 0x20040 = true ∧ s.markHeld 0 c r = false ∧ s.markReserved r = false ∧ s.snapshotReads c r = [] ∧
        s.hartAt c.hart = some h0) &&
      got (s.access c.agent 0x110040 .copyRead 0) 0x20040 && got (s.access c.agent 0x110040 .atomic 0) 0x20040) = true := by
  decide +kernel

/-- A record reached through NEXT that the parameter cache keeps, its OWN clear or set. -/
theorem test_meets_CopyEngine_chain :
    ([(0 : W64), own0].all fun d0 : W64 =>
      let r := recWith d0 0x400 0x110100 0x110200 0
      let c := { crec none 0 with chained := true }
      let x : PCache := ⟨0, 0x110040, 0, r⟩
      let s := { mr r c with cores := [(0, { Core.fresh with copies := [c], pcache := [x] })] }
      decide (BeginsNext s 0 c ∧ s.who = 0 ∧ s.ownOut 0 0 = false ∧ Rec.dkind r = 0 ∧ s.snapshotReads c r = [] ∧
        (s.coreAt 0).pcache.find? (fun y => y.queue == c.queue && y.addr == c.addr) = some x ∧
        Rec.own r = (d0 != 0) ∧ (d0 ≠ 0 → s.recordReason c r = none))) = true := by decide +kernel

/-- A line that lands in the local store. -/
theorem test_meets_CopyEngine_landLocal :
    let r := recWith own0 4 0x110100 6 0
    let c := crec (some r) 0
    let s := mr r c
    Lands s 0 0 c r ∧ c.off < Rec.len r ∧ c.snap = [] ∧ s.lines.length + 128 ≤ 24576 ∧ s.upsets = [] ∧
    (∀ n ∈ Rec.inLine r c.off, got (s.spotPa c.agent .copyRead (Rec.source r n)) (0x20100 + n) = true ∧
      s.home (0x20100 + n) = .mem (0x20100 + n) ∧ s.physPoison (0x20100 + n) 1 = false ∧
      got (s.spotPa c.agent .copyWrite (Rec.dest r n)) (0x200000000006 + n) = true ∧
      s.home (0x200000000006 + n) = .ls 0 (6 + n) ∧ s.coreHeld (engineId 0 0) (0x200000000006 + n) = false ∧
      s.storeReserved (0x200000000006 + n) 1 = false) := by decide +kernel

/-- A source without a translation, and one that is poisoned. -/
theorem test_meets_CopyEngine_fails :
    ([((0x4000000 : W64), false), (0x110100, true)].all fun x : W64 × Bool =>
      let r := recWith own0 0 x.1 0x110200 0
      let c := crec (some r) 0
      let s := { mr r c with poison := [(0x20100 / 64, true)] }
      decide (Lands s 0 0 c r ∧ c.off < Rec.len r ∧ Rec.inLine r c.off = 0 :: (List.range 15).map (· + 1) ∧ c.snap = []) &&
      (if x.2 then (List.range 16).all fun m => got (s.spotPa c.agent .copyRead (Rec.source r m)) (0x20100 + m) &&
          s.home (0x20100 + m) == .mem (0x20100 + m) && s.physPoison (0x20100 + m) 1
        else decide ((s.spotPa c.agent .copyRead (Rec.source r 0)).toOption = none))) = true := by decide +kernel

/-- The completion word with PIN and without, neither, and PIN alone; with and without NEXT. -/
theorem test_meets_CopyEngine_completes :
    ([((0x100 : W64), own0), (0x500, own0), (0, own0), (0x400, own0 + 0x1000), (0x100, own0 + 0x1000)].all fun x : W64 × W64 =>
      let r := recWith x.2 x.1 0x110100 0x110200 (if x.1 &&& 0x100 = 0 then 0 else 0x110300)
      let c := crec (some r) 16
      let s := mr r c
      decide (Lands s 0 0 c r ∧ Rec.len r ≤ c.off ∧ Rec.cwen r = x.1.getLsbD 8 ∧ Rec.pin r = x.1.getLsbD 10 ∧
        Rec.next r = (x.2.extractLsb' 6 46).toNat ∧ s.home 0x20300 = .mem 0x20300 ∧ s.pageMoving 0x20300 = false ∧
        s.home 0x20040 = .mem 0x20040 ∧ s.ownFree 0 0 0x20040 = true ∧ s.physPoison 0x20040 8 = false ∧ s.lines = [] ∧
        (s.physStore 0x20300 4 (Rec.cval r)).ownPa c = some 0x20040 ∧
        ∀ i ∈ List.range 4, ∀ j ∈ List.range 8, s.redirect (0x20300 + i) ≠ s.redirect (0x20040 + j)) &&
      (!Rec.cwen r || got (s.access c.agent (Rec.caddr r) .copyWrite 0) 0x20300) &&
      got (s.access c.agent 0x110040 .atomic 0) 0x20040) = true := by decide +kernel

/-! ## Hypotheses met: the Pantry -/

/-- The translation of the Pantry page. -/
def px : Xl := ⟨0x50165, 0x50000, true, 2⟩

theorem test_meets_PantryRequests :
    ([.pcopy (sf 3 18 2 0 0x0100001), .ptake (sf 3 18 2 0 0x141000D), .ptake (sf 3 18 2 0 0x1A1000D), .pcnt (sf 3 18 2 0 0x10009)].all
      fun i : Instr =>
        match asking i with
        | some (o, _) => can i && decide (PantryFree (at0 i) 0 (on h0 i) ∧ (at0 i).upsets = [] ∧ Names (at0 i) (on h0 i) o px)
        | none => false) = true ∧
    ([.pdep (sf 0 18 2 0 0x20000), .pdep (sf 3 18 2 0 0x110000), .pdep (sf 0 18 6 0 0x220000)].all fun i : Instr =>
      match i with
      | .pdep o => can i && decide (PantryFree (at0 i) 0 (on h0 i) ∧ Names (at0 i) (on h0 i) o px ∧ (at0 i).accessHeld 0 0x200000000000 64 = false ∧
        (at0 i).physPoison 0x200000000000 64 = false)
      | _ => false) = true ∧
    can (.pcnl (sf 3 0 0 0 5)) = true ∧ h0.preqs = [] := by decide +kernel

/-- The row of a row form: s6 names local-store row 0. -/
theorem test_meets_PantryRequests_row (k : Access) (hk : k = .load ∨ k = .store) :
    RowAt (m0 h0) h0 k (some 6) (some 0x200000000000) ∧ RowAt (m0 h0) h0 k none none := by
  refine ⟨⟨0x200000000000, 0, 0, by decide +kernel, ?_, by decide +kernel, rfl⟩, rfl⟩
  rcases hk with rfl | rfl <;> exact eq_of_got (by decide +kernel)

/-- The region and row are those of the check at the convoy's issue. -/
theorem test_meets_PantryRequests_checked :
    ([.pcopy (sf 3 18 2 0 0x0100001), .ptake (sf 3 18 2 0 0x1A1000D), .pdep (sf 0 18 6 0 0x220000)].all fun i : Instr =>
      let row := match i with | .pcopy _ => none | _ => some 0x200000000000
      let h := { on h0 i with conv := (on h0 i).conv.map fun c : Conv => { c with pages := [some (5, row)] } }
      canIn i (m0 h) h && (h.conv.bind fun c => c.pages.getD c.idx none) == some (5, row) && (m0 h).home 0x200000000000 == .ls 0 0 &&
      !(m0 h).coreHeld 0 0x200000000000 && (match asking i with | some (o, _) => !(m0 h).boundReserved o 0x200000000000 | none => true)) = true := by
  decide +kernel

/-- A PCNL of a request that is outstanding. -/
theorem test_meets_PantryRequests_cancel :
    let i := Instr.pcnl (sf 3 0 0 0 5)
    let p : PReq := ⟨0, .ptake (sf 5 18 2 0 0x181000D), 5, [2], some 5, none, none⟩
    let h := { on h0 i with preqs := [p] }
    canIn i (m0 h) h = true ∧ PantryFree (m0 h) 0 h ∧
    h.preqs.find? (fun p => isGet p.instr && p.status == some ((sf 3 0 0 0 5).ext.extractLsb' 0 6)) = some p := by decide +kernel

/-- A message of the test hart at slice 0, a tuple that fits it. -/
def pmsg (i : Instr) (vals : List W64) : PMsg := ⟨7, 0, 0, 5, i, vals, 0, false, false, none⟩
def mp (m : PMsg) : State := { m0 h0 with pmsgs := [m], tuples := [(0, ⟨5, 3, [2, 9]⟩)], pages := 4 }

theorem test_meets_PantryService :
    ([(.ptake (sf 5 18 2 0 0x181000D), [2]), (.pcopy (sf 5 18 2 0 0x1010009), [2, 5, 9]), (.pcnt (sf 5 18 2 0 0x10001), [2]),
      (.pdep (sf 0 18 2 0 0x10000), [2, 9])].all fun x : Instr × List W64 =>
      let m := pmsg x.1 x.2
      let s := mp m
      decide (s.pmsgs[s.who]? = some m ∧ m.refused = false ∧ m.stale = false ∧ (s.region m.region).getLsbD 63 = true ∧
        s.pmsgs.take s.who = [] ∧ s.pparks = [] ∧
        (isGet x.1 = true → served s m = [(0, ⟨5, 3, [2, 9]⟩)]) ∧
        ((s.tuples.filter fun t => t.1 == m.slice && t.2.region == m.region).map fun t => 8 * (t.2.fields.length + 1)).sum +
          8 * (m.vals.length + 1) ≤ 4096 * ((s.region m.region).extractLsb' 0 8).toNat)) = true := by decide +kernel

/-- A deposit of the test hart, posted or with .nb, and a request of another hart, both as they park at slice 0. -/
def dep (posted : Bool) (serial age : Nat) (vals : List W64) : PMsg :=
  ⟨serial, 0, 0, 5, .pdep (sf 0 18 2 0 (if posted then 0x20000 else 0x120000)), vals, age, false, false, none⟩
def wants (serial : Nat) (i : Instr) (vals : List W64) : PMsg := ⟨serial, 1, 0, 5, i, vals, 0, false, false, none⟩
/-- A PTAKE of tuples that begin with 2, one with .nb, one with a timeout, and a PCOPY. -/
def take2 : Instr := .ptake (sf 5 18 2 0 0x181000D)
def takeNb : Instr := .ptake (sf 5 18 2 0 0x191000D)
def takeTmo : Instr := .ptake (sf 5 18 2 0 0x1181000D)
def copy2 : Instr := .pcopy (sf 5 18 2 0 0x1010009)

/-- A parked deposit beside the stored tuple: older, younger, matching or not. -/
theorem test_meets_PantryService_parked :
    ([(take2, [2], dep true 20 5 [4, 8], false), (copy2, [2, 5, 9], dep true 20 5 [2, 8], true)].all fun x : Instr × List W64 × PMsg × Bool =>
      let m := pmsg x.1 x.2.1
      let s := { mp m with pparks := [x.2.2.1] }
      decide (Arrives s m ∧ served s m = [(0, ⟨5, 3, [2, 9]⟩)] ∧ deposits s m = [x.2.2.1] ∧ x.2.2.1.posted = true ∧
        m.fits x.2.2.1.vals = x.2.2.2 ∧ Room s m (taken s m 3) x.2.2.1.vals)) = true ∧
    ([(take2, [2]), (copy2, [2, 5, 9])].all fun x : Instr × List W64 =>
      let m := pmsg x.1 x.2
      let d := dep true 20 1 [2, 8]
      let s := { mp m with pparks := [d] }
      decide (Arrives s m ∧ deposits s m = [d] ∧ m.fits d.vals = true ∧ ∀ y ∈ served s m, d.age < y.2.age)) = true := by decide +kernel

/-- Requests that match nothing; the table with room and full. -/
theorem test_meets_PantryService_none :
    ([(takeNb, none, 0), (takeTmo, some 0, 0), (takeTmo, some 9, 0), (take2, none, 0), (take2, none, 256)].all fun x : Instr × Option Nat × Nat =>
      let m := { pmsg x.1 [3] with timeout := x.2.1 }
      let s := { mp m with pparks := List.replicate x.2.2 (dep true 20 5 [4, 8]) }
      decide (Arrives s m ∧ served s m = [] ∧ (∀ d ∈ deposits s m, m.fits d.vals = false) ∧ s.detHart m.hart = false ∧
        (TableRoom s m ↔ x.2.2 = 0))) = true := by decide +kernel

/-- Deposits with requests parked, up to a PTAKE or without one; with room and without. -/
theorem test_meets_PantryService_deposits :
    (let m := dep false 7 0 [2, 9]
     let c := wants 30 copy2 [2, 5, 9]
     let p := wants 31 take2 [2]
     let s := { mp m with pparks := [c, p, wants 32 take2 [2]] }
     Arrives s m ∧ waiting s m = [c] ++ p :: [wants 32 take2 [2]]) ∧
    ([(true, false), (false, false), (true, true), (false, true)].all fun x : Bool × Bool =>
      let m := dep x.1 7 0 [2, 9]
      let s := { mp m with tuples := if x.2 then List.replicate 171 (0, ⟨5, 3, [2, 9]⟩) else [] }
      decide (Arrives s m ∧ waiting s m = [] ∧ TableRoom s m ∧ (Room s m s.tuples m.vals ↔ x.2 = false))) = true := by decide +kernel

/-- PCNL whose target is parked, or is gone. -/
theorem test_meets_PantryService_cancel :
    (([[wants 31 take2 [2]], []] : List (List PMsg)).all fun ps =>
      let m : PMsg := pmsg (.pcnl (sf 3 0 0 0 5)) [31]
      let s : State := { mp m with pparks := ps }
      s.pmsgs[s.who]? == some m && !m.refused && s.pmsgs.take s.who == [] &&
        (s.pparks.find? fun q : PMsg => q.serial == 31) == ps.head? && s.pmsgs.all fun q : PMsg => q.serial != 31) = true := by
  decide +kernel

/-- Region 5 is written when disabled and when enabled, with a capacity that is refused and one that is not. -/
theorem test_meets_PantryService_region :
    ([(0x801 : W64), 0x8000000000000801].all fun e : W64 =>
      let s := { mp (pmsg take2 [2]) with prgn := [(5, e)], pparks := [wants 31 take2 [2], dep true 20 5 [2, 8]] }
      decide (HostFree s ∧ s.dev.recov = false ∧ s.region 5 = e ∧ ∀ sl ∈ List.range 128, s.sliceCaps 5 0x8000000000000801 sl ≤ 128)) = true ∧
    ((0x8000000000000800 : W64).extractLsb' 0 8).toNat = 0 ∧ ((0x8000000000000881 : W64).extractLsb' 0 8).toNat = 129 := by decide +kernel

theorem test_meets_PantryService_replies :
    (let m := { pmsg (.ptake (sf 5 18 2 0 0x181000D)) [2] with refused := true }
     (mp m).pmsgs[0]? = some m ∧ m.refused = true) ∧
    (let o := sf 5 18 2 0 0x181000D
     let p : PReq := ⟨7, .ptake o, 5, [2], some 5, none, some 9⟩
     let h := { h0 with preqs := [p] }
     let r : PReply := ⟨7, 0, 0, [2, 9]⟩
     let s := { m0 h with preplies := [r], pparks := [pmsg (.ptake o) [2]] }
     s.preplies[s.who]? = some r ∧ s.hartAt r.hart = some h ∧ h.preqs.find? (fun p => p.serial == r.serial) = some p ∧
     p.status = some 5 ∧ p.rowPa = none ∧ h.det = false ∧ o.pRes + (bound o).length ≤ 64 ∧
     h.preqs.find? (fun p => isGet p.instr && p.timeout.isSome && p.status == some 5) = some p ∧
     s.pparks.find? (fun m => m.serial == p.serial) = some (pmsg (.ptake o) [2])) ∧
    (let o := sf 5 18 2 0 0x1A1000D
     let p : PReq := ⟨7, .ptake o, 5, [2], some 5, some 0x200000000000, none⟩
     let h := { h0 with preqs := [p] }
     let r : PReply := ⟨7, 0, 0, [2, 9]⟩
     let s := { m0 h with preplies := [r] }
     s.preplies[s.who]? = some r ∧ s.hartAt r.hart = some h ∧ h.preqs.find? (fun p => p.serial == r.serial) = some p ∧
     p.status = some 5 ∧ h.det = false ∧ o.pK ≤ 8 ∧ s.home 0x200000000000 = .ls 0 0 ∧ s.storeReserved 0x200000000000 64 = false ∧
     s.coreMoving 0 = false ∧ s.upsets = []) ∧
    (let o := sf 5 18 2 0 0x181000D
     ([2] : List W64).length = o.pV ∧ ([2, 9] : List W64).length = o.pK) ∧
    ((List.range 128).all fun sl => State.reset.sliceCaps 255 0x8000000000000880 sl ≤ 128) = true ∧
    (0x8000000000000880 : W64).getLsbD 63 = true ∧ (0x880 : W64).getLsbD 63 = false ∧ ((0x8000000000000880 : W64).extractLsb' 0 8).toNat = 128 := by decide +kernel

/-! ## Hypotheses met: the Cellar and UNMK -/

/-- A root node of 64 positions at 0x110000 with its page entry at 0x110080 (R325, R327), and a hart at an instruction. -/
def tree : List W64 := [0x0100000000000000, 0x0000004000000000, 0, 0x110080, 0, 0, 0, 0, 0, 0, 0, 0, 0, 0, 0, 0, 0x118001, 0x110201]
def mt (h : Hart) : State := withWords (m0 h) 0 tree

theorem test_meets_CellarWalks :
    (let i := Instr.cwalk (sf 1 5 2 0 17)
     let h := { on h0 i with waiting := true }
     canIn i (mt h) h = true ∧ NoNodes (mt h) ∧ walkOf (mt h) 0 h false 0x110000 2 0 = some 0x118200 ∧ h.current = some i) ∧
    (let i := Instr.cwalk (sf 1 5 2 0 0x51)
     canIn i (mt (on h0 i)) (on h0 i) = true ∧ walkOf (mt (on h0 i)) 0 (on h0 i) true 0x110000 63 0 = some 0x110200) ∧
    (let v := { vf 0 (F 64 64) (F 0 32) 5 with fn4 := 1, x := 17 }
     let h := { on h0 (.vcwalk v) with waiting := true }
     let s := mt h
     canIn (.vcwalk v) s h = true ∧ Sound s ∧ Apart s h g0 ∧ ReadsFull s h g0 v.m [v.A] ∧
     Unreserved s h g0 (acted s h g0 v.m) (Fld.words v.D) ∧
     ∀ e ∈ acted s h g0 v.m, walkOf s 0 h false (h.reg v.bReg) (BitVec.ofNat 64 ((rowOf s h g0 e).fld v.A)) 0 = some 0x118000) := by
  decide +kernel

theorem test_meets_CellarWalks_bound :
    let v := vf 2 (F 64 32) (F 0 64) 5
    let h := { on h0 (.vcbound v) with vl := 1 }
    let s := { m0 h with rows := [(0, ⟨0x110000, 0xFFFF, 0⟩)] }
    canIn (.vcbound v) s h = true ∧ Sound s ∧ Apart s h g0 ∧ ReadsFull s h g0 v.m [v.A] ∧
    Unreserved s h g0 (acted s h g0 v.m) (Fld.words v.D) ∧ acted s h g0 v.m = [0] ∧ s.lines = [] ∧ (rowOf s h g0 0).fld v.A = 0x110000 ∧
    got (s.access (s.agentOf h) 0x110000 .load 0) 0x20000 = true ∧ s.accessHeld 0 0x20000 512 = false ∧ s.accessHeld 0 0x20000 256 = false ∧
    ∀ j ∈ List.range 64, s.home (0x20000 + 8 * j) = .mem (0x20000 + 8 * j) ∧ s.physPoison (0x20000 + 8 * j) 8 = false := by decide +kernel

/-- A page table of three levels: 0x150000 maps to 0x60000. -/
theorem test_meets_CellarWalks_page :
    let s0 := m0 h0
    let s := ((({ s0 with lqs := [(0, { lq0 with runRoot := 0x30000 })] } : State).setMemBytes 0x30000 (leBytes 8 0x40001)).setMemBytes 0x40000
      (leBytes 8 0x50001)).setMemBytes 0x500A8 (leBytes 8 0x60065)
    s.hartAt 0 = some h0 ∧ s.tlbHit 0 0 0x150008 = none ∧ s.walkXl 0 0x150008 = some ⟨0x60065, 0x60008, false, 0⟩ ∧
    (s.tlb.filter fun e => e.core == some 0).length < 1024 ∧
    (s.tlb.filter fun e => e.core.isNone && e.cluster == 0).length < 16384 := by decide +kernel

/-- A canvas of 64 positions with its map at 0x110100, described at 0x110040 (R335). -/
def canvas : List W64 := [64, 0x110100, 0, 0, 0, 0, 0, 0]
def cv : Canvas := ⟨0, 64, 0x110100, 0⟩
def mv (h : Hart) (rows : SMap Row) : State := { withWords (m0 h) 0x40 canvas with rows := rows }

/-- UNMK's policy in s10 to s14: share 256, at most four, or with a full refresh of period 1. -/
def policyRegs (fe : Bool) : Vector W64 64 :=
  ((((regs0.set 10 (if fe then 0x100000900 else 0x100)).set 11 0x400000000).set 12 0).set 13 0x110040).set 14 0

theorem test_meets_Unmasking :
    ([false, true].all fun fe =>
      let h := { on { hx with regs := policyRegs fe } (.unmk um) with vl := 2 }
      let s := mv h [(0, ⟨5, 0xFFFF, 1⟩)]
      let p := h.policy (um.x.extractLsb' 3 6).toNat
      canIn (.unmk um) s h && decide (Sound s ∧ Apart s h g0 ∧ ReadsFull s h g0 um.m [um.A, um.B] ∧
        Unreserved s h g0 (actives s h g0 um.m) (Fld.words um.D) ∧ h.buf = [] ∧ h.det = false ∧ s.settledFor 0 h 3 = true ∧ s.lines = [] ∧ actives s h g0 um.m = [0] ∧
        p.desc = 0x110040 ∧ p.fe = fe ∧ p.re = false ∧ p.lg0 ≤ cv.nlg ∧ (p.fe = true → p.period ≠ 0) ∧ p.clean = true ∧
        (∀ e ∈ actives s h g0 um.m, p.p0 + e < cv.len) ∧ dwords s 0 h 0x110040 8 = some canvas ∧ canvasOf canvas = some cv) &&
      got (s.access (s.agentOf h) p.desc .atomic 0) 0x20040 && got (s.access (s.agentOf h) (p.desc + 16) .atomic 0) 0x20050 &&
      s.home 0x20050 == .mem 0x20050 && !s.pageMoving 0x20050 && !s.accessHeld 0 0x20050 4 && !s.physPoison 0x20050 4) = true := by decide +kernel

/-- Every map doubleword is there. -/
theorem test_meets_Unmasking_map (ps : Nat → Prop) (h : ∀ q, ps q → q < 64) :
    MapThere (m0 h0) h0 cv ps 0 0 := by
  intro lg q _ hl hq
  obtain rfl : lg = 0 := by omega
  have hq64 : q / 64 = 0 := by have := h q hq; omega
  have hm : mapAddr cv 0 q = 0x110100 := by simp [mapAddr, cv, hq64]
  exact ⟨0x20100, 0x20100, by rw [hm]; exact eq_of_got (by decide +kernel), by decide +kernel⟩

theorem test_meets_Unmasking_maps :
    ([0, 4].all fun clr : Nat =>
      let v := { vf 0 3 (F 0 32) 14 with fn4 := BitVec.ofNat 4 clr, x := 17 }
      let h := { on h0 (.vcdirty v) with vl := 2 }
      let s := mv h [(0, ⟨5, 0xFFFF, 0⟩)]
      canIn (.vcdirty v) s h && decide (Sound s ∧ Apart s h g0 ∧ ReadsFull s h g0 v.m [v.A] ∧ h.buf = [] ∧ h.drain = [] ∧ s.hasPosted 0 h = false ∧
        s.remotes = [] ∧ s.lines = [] ∧ s.pageMoving 0x20100 = false ∧ dwords s 0 h (h.reg v.bReg) 8 = some canvas ∧ canvasOf canvas = some cv ∧ acted s h g0 v.m = [0, 1] ∧
        (rowOf s h g0 0).fld v.A = 5 ∧ (rowOf s h g0 1).fld v.A = 0) &&
      got (s.access (s.agentOf h) (mapAddr cv 0 5) .atomic 0) 0x20100 && got (s.access (s.agentOf h) (mapAddr cv 0 0) .load 0) 0x20100 &&
      s.home 0x20100 == .mem 0x20100 && !s.accessHeld 0 0x20100 8 && !s.physPoison 0x20100 8) = true ∧
    (let i := Instr.cdirty (sf 0 14 2 1 1)
     let s := mv (on h0 i) []
     canIn i s (on h0 i) = true ∧ (on h0 i).buf = [] ∧ (on h0 i).det = false ∧ s.settledFor 0 (on h0 i) 3 = true ∧
     dwords s 0 (on h0 i) (h0.reg 14) 8 = some canvas ∧ 0 ≤ cv.nlg ∧ (h0.reg 2).toNat + 2 ≤ cv.len) := by decide +kernel

/-! ## Hypotheses met: traps, ends and the privileged instructions -/

/-- A running launch with nothing in it. -/
def la0 : Launch := ⟨[], 0, 0, [], [], 0, none, none, [], false⟩
def mla (h : Hart) (la : Launch) : State := { m0 h with lqs := [(0, { lq0 with launch := some la })] }

/-- A hart whose convoy stopped at an element with ALIGN. -/
def stopped (h : Hart) : Hart := { h with conv := some ⟨[.nop], [0], h.pc + 4, 1, some ⟨0, some .align, 5, some 2, false⟩, none, 0, [none], [none], [none]⟩ }

/-- The three ways a trap can go: the user handler, the privileged one, the end of the launch. -/
theorem test_meets_TrapEntry :
    ([stopped { h0 with view := false, uhpc := 0x100040 }, stopped { h0 with tvec := 0x100080 }, stopped h0].all fun h =>
      let s := mla h la0
      decide (s.hartAt s.who = some h) && match h.conv with
        | some c => decide (c.instrs.length ≤ c.idx ∧ c.stop = some ⟨0, some .align, 5, some 2, false⟩)
        | none => false) = true ∧
    UserHandled (stopped { h0 with view := false, uhpc := 0x100040 }) true ∧
    (¬ UserHandled (stopped { h0 with tvec := 0x100080 }) true ∧ h0.ph = false) ∧
    (¬ UserHandled (stopped h0) true ∧ h0.tvec = 0 ∧ (mla (stopped h0) la0).launchAt h0.queue = some la0 ∧ la0.ending = none) := by
  decide +kernel

theorem test_meets_TrapsAndEnds :
    can (.brk 5) = true ∧ can (.svc 6) = true ∧ canAt { h0 with view := false, uh := true, tpc := 0x100040, tci := 1 } .uret = true ∧
    canAt { h0 with ph := true, ptpc := 0x100040 } .eret = true ∧ can .yield = true ∧
    (let h := { on h0 .exit with waiting := true }
     let s := m0 h
     canIn .exit s h = true ∧ s.quiet 0 h = true ∧ h.pantryBusy = false ∧ h.slot < 4 ∧ s.who = 0 ∧ h.current = some .exit ∧
     (let u : State := { s with harts := s.harts ++ [(1, { h0 with slot := 1 })] }
     canIn .exit u h = true ∧ u.quiet 0 h = true ∧ (∃ e ∈ u.harts, e.1 ≠ 0 ∧ e.2.gang = h.gang) ∧
     ∀ x ∈ u.gangs, x.2.queue = h.queue → ∃ e ∈ u.harts, e.1 ≠ 0 ∧ e.2.gang = x.1)) ∧
    (let h := on h0 .exitFail
     canIn .exitFail (mla h la0) h = true ∧ (mla h la0).launchAt h.queue = some la0) := by decide +kernel

/-- Every privileged instruction. -/
theorem test_meets_Privilege :
    ([.eret, .exitFail, .launch (sf 1 5 0 0 0), .preempt (sf 1 5 0 0 0), .ctxsv (sf 1 5 0 0 0), .ctxld (sf 1 5 0 0 0), .migr (sf 1 5 0 0 0),
      .lcidset (sf 1 5 0 0 0), .tlbinv (sf 0 5 0 0 0), .tlbinva (sf 0 0 0 0 0), .crd 1 0x080, .cwr 1 0x090].all fun i : Instr =>
      let h := { on h0 i with view := false }
      let s := m0 h
      privileged i && decide (s.cur = some 0 ∧ s.hartAt 0 = some h ∧ s.gangAt h.gang = some g0) && match h.conv with
        | some c => decide (c.idx = 0 ∧ c.stop = none)
        | none => false) = true := by decide +kernel

/-- A second gang, saved or on core 1, with one hart that is settled. -/
def g1 : Gang := { g0 with ordinal := 1, first := 1, na := 32 }
def h1 : Hart := { Hart.fresh with hartid := 1, gang := 1 }

/-- The privileged hart with a large page at 0x40000000, and the second gang. -/
def mg (h : Hart) (la : Launch) : State :=
  { mla h la with
    harts := [(0, h), (1, h1)], gangs := [(0, g0), (1, g1)]
    tlb := ⟨0, none, 0, 0x40000000, 0x40000000, 0x40000075, false, 0⟩ :: (m0 h).tlb }

/-- Queue 3, enabled, with a ring of four records at physical 0x30000. -/
def lq3 : LQ := { LQ.reset with base := 0x30000, size := 2, en := true }

theorem test_meets_Privileged_queues :
    (let i := Instr.launch (sf 1 5 7 0 0)
     let h := on h0 i
     let s := { m0 h with lqs := [(0, lq0), (3, lq3)] }
     canIn i s h = true ∧ (h.reg 5).toNat % 128 = 0 ∧ got (s.access (s.agentOf h) (h.reg 5) .load 0) 0x20000 = true ∧
     s.home 0x20000 = .mem 0x20000 ∧ s.home 0x20040 = .mem 0x20040 ∧ s.settledFor 0 h 3 = true ∧ s.accessHeld 0 0x20000 128 = false ∧
     s.physPoison 0x20000 64 = false ∧ s.physPoison 0x20040 64 = false ∧ h.buf = [] ∧ s.lines = [] ∧ Still s ∧ s.lqAt 3 = lq3 ∧
     s.home 0x30000 = .mem 0x30000 ∧ s.home 0x30040 = .mem 0x30040 ∧ lq3.en = true ∧ (lq3.tail + 1) % 2 ^ lq3.size.toNat ≠ lq3.head % 2 ^ lq3.size.toNat) ∧
    (let i := Instr.preempt (sf 1 17 0 0 0)
     canIn i (mla (on h0 i) la0) (on h0 i) = true ∧ (h0.reg 17).toNat ≤ 15 ∧ (mla (on h0 i) la0).launchAt 0 = some la0 ∧
     ((mla (on h0 i) la0).lqAt 0).state = 1 ∧ (m0 (on h0 i)).launchAt 5 = none) ∧
    can (.tlbinv (sf 0 5 17 0 0)) = true ∧ can (.tlbinva (sf 0 0 17 0 0)) = true ∧ (at0 .nop).settledFor 0 h0 3 = true := by decide +kernel

/-- s20 names the large page's first context area, s21 core 1, s22 core 2. -/
def ctxRegs : Hart := { h0 with regs := ((h0.regs.set 20 0x40000000).set 21 1).set 22 2 }

theorem test_meets_Privileged_gangs :
    (let i := Instr.ctxsv (sf 1 20 21 0 0)
     let h := on ctxRegs i
     let s := mg h la0
     canIn i s h = true ∧ (h.reg 20).toNat % 0x400000 = 0 ∧ s.gangOn (s.coreOfLcid 1) = some (1, g1) ∧ s.gangAt 1 = some g1 ∧ 1 ≠ h.gang ∧
     g1.queue = h.queue ∧ (s.ctxPages h 0x40000000 1 .store).toOption.isSome = true ∧ s.settledFor 0 h 3 = true ∧ s.committing 0 = false ∧ Still s ∧
     (∀ e ∈ s.hartsOf 1, e.2.waiting = false ∧ s.hartSettled e.1 e.2 = true) ∧ s.launchAt g1.queue = some la0) ∧
    (let y : SavedGang := ⟨g1, [], [], true⟩
     let i := Instr.ctxld (sf 1 20 22 0 0)
     let h := on ctxRegs i
     let s0 := { mg h { la0 with saved := [y] } with gangs := [(0, g0)] }
     let s := s0.setMemBytes 0x403FF000 (leBytes 8 g1.header)
     canIn i s h = true ∧ got (s.access (s.agentOf h) 0x403FF000 .load 0) 0x403FF000 = true ∧ s.settledFor 0 h 0 = true ∧
     s.accessHeld 0 0x403FF000 8 = false ∧ s.physPoison 0x403FF000 8 = false ∧ headerOk (s.physVal 0x403FF000 8) = true ∧
     s.savedFor (s.physVal 0x403FF000 8) = some y ∧ Still s ∧ (s.ctxPages h 0x40000000 1 .load).toOption.isSome = true ∧
     gangKey 0 1 ≠ h.gang ∧ s.posNa (s.coreOfLcid 2) 1 = 32 ∧ s.posFree (s.coreOfLcid 2) 1 = true ∧
     (match s.ctxPages h 0x40000000 1 .load with
      | .ok pages => s.areaOk (pagedAddr pages) g1
      | .error _ => false) = true) := by decide +kernel

/-- The loading hart is none of the loaded gang's. -/
theorem test_meets_Privileged_loader : ∀ n, 0 ≠ hartKey g1.queue (g1.ordinal * g1.h + n) := by
  intro n
  simp [hartKey, g1, g0]
  omega

theorem test_meets_Privileged_moves :
    (let i := Instr.migr (sf 1 21 22 0 0)
     let h := on ctxRegs i
     let s := mg h la0
     canIn i s h = true ∧ h.cwait = none ∧ s.gangOn (s.coreOfLcid 1) = some (1, g1) ∧ s.gangAt 1 = some g1 ∧ g1.stopping = false ∧
     s.canTake g1 (s.coreOfLcid 2) = true) ∧
    (let i := Instr.migr (sf 1 21 22 0 0)
     let h := { on ctxRegs i with cwait := some [1] }
     canIn i (m0 h) h = true ∧ (m0 h).migs = []) ∧
    (let i := Instr.lcidset (sf 1 21 22 0 0)
     canIn i (m0 (on ctxRegs i)) (on ctxRegs i) = true ∧ (m0 h0).posFree ((m0 h0).coreOfLcid 1) 1 = true ∧
     (m0 h0).posFree ((m0 h0).coreOfLcid 2) 1 = true) := by decide +kernel

/-- An address in the first 2 GiB is memory. -/
theorem home_of_mem {s : State} (hd : s.dev.devid = 0) (hh : 4 ≤ s.dev.hbmHalf) {a : Nat} (ha : a < 2 ^ 31) :
    s.home a = .mem a := by
  have h0 : a / 70368744177664 = 0 := by omega
  have h1 : a % 70368744177664 = a := by omega
  have h2 : a < 412316860416 ∧ a < s.dev.hbmHalf * 536870912 := by omega
  simp [State.home, State.memPresent, hd, h0, h1, h2]

/-- The pages of a context area of one core at 0x40000000, last first. -/
def pages1 : List Nat := ((List.range 64).map fun j => 0x40000000 + 65536 * j).reverse

/-- The physical place of a byte of it. -/
theorem pagedAddr_pages1 {e off : Nat} (he : e < 1) (ho : off < 0x400000) :
    pagedAddr pages1 e off = 65536 * (0x4000 + off / 65536) + off % 65536 := by
  obtain rfl : e = 0 := by omega
  have h : ∀ i ∈ List.range 64, pages1.getD (63 - i) 0 = 0x40000000 + 65536 * i := by decide +kernel
  have hi := h (off / 65536) (by simp; omega)
  have hl : pages1.length = 64 := by decide
  simp only [pagedAddr, hl]
  simp only [Nat.mul_zero, Nat.zero_add]
  rw [hi]
  omega

/-- The area a CTXSV or CTXLD of that page names. -/
theorem areaIn_pages1 {s : State} (hd : s.dev.devid = 0) (hh : 4 ≤ s.dev.hbmHalf) (hr : s.redirects = []) :
    AreaIn s (pagedAddr pages1) 1 fun _ i => 0x4000 + i := by
  refine ⟨by decide, fun e off he ho => ?_, fun e e' i i' he he' hi hi' h => ?_⟩
  · rw [pagedAddr_pages1 he ho]
    exact home_of_mem hd hh (by omega)
  · simp [hr, State.redirectPage] at h
    omega

/-- The launch's own area at 0x400000, for a gang of ordinal 0. -/
theorem areaIn_ctx {s : State} (hd : s.dev.devid = 0) (hh : 4 ≤ s.dev.hbmHalf) (hr : s.redirects = []) {g : Gang} (hg : g.ordinal = 0)
    : AreaIn s (ctxAddr 0x400000 g) 1 fun _ i => 64 + i := by
  refine ⟨by decide, fun e off he ho => ?_, fun e e' i i' he he' hi hi' h => ?_⟩
  · obtain rfl : e = 0 := by omega
    have : ctxAddr 0x400000 g 0 off = 65536 * (64 + off / 65536) + off % 65536 := by simp [ctxAddr, hg]; omega
    rw [this]
    exact home_of_mem hd hh (by omega)
  · simp [hr, State.redirectPage] at h
    omega

/-- What a gang that can be saved is, over the listed harts. -/
theorem savable_of {s : State} {k : Nat} {x : Gang} (hc : ∀ e ∈ List.range x.g, s.gangOn (x.first + e) = some (k, x) ∧ x.na ≤ 4 * (s.lanesOf (x.first + e)).length)
    (hx : x.h = 1 ∨ x.h = 2 ∨ x.h = 4)
    (hh : ∀ e ∈ s.harts, e.2.gang = k → e.2.slot < x.h ∧ e.1 = hartKey x.queue (x.ordinal * x.h + e.2.slot) ∧ e.2.rows ≤ 1024 / x.h ∧ e.2.buf.length ≤ 0x4000) :
    Savable s k x := by
  refine ⟨fun e he => hc e (by simpa using he), hx, fun id h hi hg => ?_⟩
  have : (id, h) ∈ s.harts := by
    simp only [State.hartAt] at hi
    exact Laws.mem_of_find _ _ _ hi
  exact hh _ this hg

theorem test_meets_Privileged_area :
    (let s := mg (on ctxRegs (.ctxsv (sf 1 20 21 0 0))) la0
     got (s.ctxPages (on ctxRegs (.ctxsv (sf 1 20 21 0 0))) 0x40000000 1 .store) pages1 = true ∧
     got (s.ctxPages (on ctxRegs (.ctxsv (sf 1 20 21 0 0))) 0x40000000 1 .load) pages1 = true ∧
     s.dev.devid = 0 ∧ 4 ≤ s.dev.hbmHalf ∧ s.redirects = [] ∧ g1.h = 1 ∧
     (∀ e ∈ List.range g1.g, s.gangOn (g1.first + e) = some (1, g1) ∧ g1.na ≤ 4 * (s.lanesOf (g1.first + e)).length) ∧
     ∀ e ∈ s.harts, e.2.gang = 1 →
       e.2.slot < g1.h ∧ e.1 = hartKey g1.queue (g1.ordinal * g1.h + e.2.slot) ∧ e.2.rows ≤ 1024 / g1.h ∧ e.2.buf.length ≤ 0x4000) := by
  decide +kernel

/-- LAUNCH to a disabled and to a full queue; the refusals of CTXSV, CTXLD, MIGR and LCIDSET, and misaligned areas. -/
theorem test_meets_Privileged_refusals :
    ([{ lq3 with en := false }, { lq3 with tail := 3 }].all fun l : LQ =>
      let i := Instr.launch (sf 1 5 7 0 0)
      let h := on h0 i
      let s := { m0 h with lqs := [(0, lq0), (3, l)] }
      canIn i s h && decide ((h.reg 7).toNat = 3 ∧ s.lqAt 3 = l ∧ s.settledFor 0 h 3 = true)) = true ∧
    can (.launch (sf 1 1 7 0 0)) = true ∧ (h0.reg 1).toNat % 128 ≠ 0 ∧
    ([(0x40000000, 400), (0x40000000, 5), (0x40000000, 0), (0x40000001, 1)].all fun x : W64 × W64 =>
      let i := Instr.ctxsv (sf 1 20 21 0 0)
      let h := on { h0 with regs := (h0.regs.set 20 x.1).set 21 x.2 } i
      let s := mg h la0
      canIn i s h && (decide (x.1 ≠ 0x40000000) || decide (x.2 = 400) || s.gangOn (s.coreOfLcid x.2.toNat) == if x.2 = 5 then none else some (0, g0))) = true ∧
    (let i := Instr.ctxsv (sf 1 20 21 0 0)
     let h := on ctxRegs i
     let g2 := { g1 with queue := 3 }
     let s := { mg h la0 with gangs := [(0, g0), (1, g2)], lqs := [(0, { lq0 with launch := some la0 }), (3, { lq3 with state := 1 })] }
     canIn i s h = true ∧ s.gangOn (s.coreOfLcid 1) = some (1, g2) ∧ g2.queue ≠ h.queue ∧ (s.lqAt g2.queue).state = 1) ∧
    ([(0, 2), (g1.header, 400), (g1.header, 0)].all fun x : Nat × W64 =>
      let i := Instr.ctxld (sf 1 20 22 0 0)
      let h := on { ctxRegs with regs := ctxRegs.regs.set 22 x.2 } i
      let s := { mg h { la0 with saved := [⟨g1, [], [], true⟩] } with gangs := [(0, g0)], harts := [(0, h)] }.setMemBytes 0x403FF000 (leBytes 8 x.1)
      canIn i s h && s.areaVal 0x403FF000 8 == x.1 && headerOk x.1 == (x.1 != 0) &&
        (x.1 == 0 || ((s.savedFor x.1).isSome && s.areaOk (pagedAddr pages1) g1 && decide (s.coreOfLcid 0 % g1.g = 0) &&
          s.posNa (s.coreOfLcid 0) g1.g == g1.na && !s.posFree (s.coreOfLcid 0) g1.g))) = true ∧
    ([(400, 2), (1, 400), (5, 2), (0, 2), (1, 0)].all fun x : W64 × W64 =>
      let i := Instr.migr (sf 1 21 22 0 0)
      let h := on { ctxRegs with regs := (ctxRegs.regs.set 21 x.1).set 22 x.2 } i
      let s := mg h la0
      canIn i s h && (decide (384 ≤ x.1.toNat ∨ 384 ≤ x.2.toNat) || match s.gangOn (s.coreOfLcid x.1.toNat) with
        | none => true
        | some (k, g) => k == h.gang || g.stopping || !s.canTake g (s.coreOfLcid x.2.toNat))) = true ∧
    ([(400, 2), (1, 400), (1, 30), (0, 2), (2, 0)].all fun x : W64 × W64 =>
      let i := Instr.lcidset (sf 1 21 22 0 0)
      let h := on { ctxRegs with regs := (ctxRegs.regs.set 21 x.1).set 22 x.2 } i
      let s := m0 h
      canIn i s h && (decide (384 ≤ x.1.toNat ∨ 384 ≤ x.2.toNat ∨ x.1.toNat / 24 ≠ x.2.toNat / 24) ||
        !s.posFree (s.coreOfLcid x.1.toNat) 1 || !s.posFree (s.coreOfLcid x.2.toNat) 1)) = true := by decide +kernel

/-! ### The traps of issue -/

/-- A line whose first convoy holds the given parcels, a NOP in each convoy after it (R33). -/
def lineOf (ps : List Parcel) : Nat :=
  let body := (ps.zipIdx.map fun x => x.1.toNat <<< (32 * x.2)).sum
  let starts := 1 + ((List.range 15).map fun p => if ps.length ≤ p then 2 ^ p else 0).sum
  let l := body + (starts * 2 ^ 15 + 1) * 2 ^ 480
  l + (popCount 256 l % 2) * 2 ^ 510 + (popCount 254 (l >>> 256) % 2) * 2 ^ 511

/-- The machine with that line at 0x100000. -/
def mline (ps : List Parcel) (h : Hart) : State := (mla h la0).setMemBytes 0x10000 (leBytes 64 (lineOf ps))

/-- The hart is picked, at the start of that line. -/
def picked (ps : List Parcel) (h : Hart) : Bool :=
  decide ((mline ps h).pick (mline ps h).who = some (0, h) ∧ (mline ps h).hartAt 0 = some h ∧ (mline ps h).gangAt h.gang = some g0 ∧
    h.conv = none ∧ (mline ps h).fetchAt h = (mline ps h, .ok (lineOf ps)))

/-- A hart outside the privileged view. -/
def hv : Hart := { h0 with view := false }

theorem test_meets_TrapEntry_right :
    picked [0, 0xFC] hv = true ∧ (Line.convoy (lineOf [0, 0xFC]) hv.pc).map (fun x => (x.1, x.2.toOption)) = [(0, some .nop), (0xFC, none)] ∧ shapeIllegal hv g0 .nop = false ∧ lacksRight hv .nop = false ∧
    picked (encode .eret) hv = true ∧ (Line.convoy (lineOf (encode .eret)) hv.pc).map (fun x => x.2.toOption) = [some .eret] ∧
    shapeIllegal hv g0 .eret = false ∧ lacksRight hv .eret = true ∧
    (let i := Instr.cstat (sf 1 0 0 0 15)
     picked (encode i) hv = true ∧ (Line.convoy (lineOf (encode i)) hv.pc).map (fun x => x.2.toOption) = [some i] ∧ shapeIllegal hv g0 i = true) := by
  decide +kernel

/-- A convoy that breaks rule 1, 2 and 3 of R52. -/
theorem test_meets_TrapEntry_rules :
    ([([.addi 1 2 3, .addi 2 3 4], 1), ([.j 5, .addi 2 3 4], 2), ([.addi 4 5 6, .svc 3], 3)] : List (List Instr × Nat)).all (fun x =>
      let ps := x.1.flatMap encode
      picked ps hv && (Line.convoy (lineOf ps) hv.pc).map (fun y => y.2.toOption) == x.1.map some &&
        x.1.all fun i => !shapeIllegal hv g0 i && !lacksRight hv i) = true ∧
    Breach hv [.addi 1 2 3, .addi 2 3 4] 1 (.addi 2 3 4) 1 ∧
    ((footAfter hv [.j 5] (.addi 2 3 4)).breaks (footAfter hv [] (.j 5)) = false ∧ isTransfer (.j 5) = true) ∧
    (footAfter hv [.addi 4 5 6] (.svc 3)).breaks (footAfter hv [] (.addi 4 5 6)) = false ∧ isTransfer (.addi 4 5 6) = false ∧
    isSystem (.svc 3) = true :=
  ⟨by decide +kernel, ⟨0, .addi 1 2 3, by decide, by decide, by decide +kernel⟩, by decide +kernel, by decide +kernel, by decide, by decide⟩

/-- A poisoned source, and an empty one of policy 1 in the V form. -/
theorem test_meets_TrapEntry_sources :
    ([(.addi 1 2 3, { hv with poison := 4 }), (.vadd { v3 with fn4 := 1, B := 5, pb := true }, { hv with full := ~~~32 })] :
      List (Instr × Hart)).all (fun x =>
        let ps := encode x.1
        picked ps x.2 && (Line.convoy (lineOf ps) hv.pc).map (fun y => y.2.toOption) == [some x.1] && !shapeIllegal x.2 g0 x.1 &&
          !lacksRight x.2 x.1 && composeCheck x.2 [x.1] == none && (mline ps x.2).valueCheck x.2 g0 x.1 == none &&
          ((mline ps x.2).addressCheck x.2 x.1).isNone && tileName x.1 == none && (foot x.2 x.1).src.any (badSource x.2 []) &&
          !ofCellar x.1) = true := by decide +kernel

/-- An instruction the hart has come to: a poisoned register, a field found empty, VL above VLMAX. -/
theorem test_meets_TrapEntry_comes :
    (let i := Instr.addi 1 2 3
     let h := { on h0 i with poison := 4 }
     Comes i (m0 h) 0 h g0 ∧ (foot h i).src.any (fun x => h.isPoisoned x.1) = true) ∧
    (let i := Instr.vadd v3
     let h := { on h0 i with conv := (on h0 i).conv.map fun c : Conv => { c with ftraps := [some 77] } }
     Comes i (m0 h) 0 h g0 ∧ (∀ r ∈ (foot h i).dst, h.isFull r = true) ∧ (foot h i).src = [] ∧ (m0 h).registerCheck h g0 i = none ∧
     (m0 h).verdict 0 h g0 i = some 77) ∧
    (let i := Instr.vadd v3
     let h := { on h0 i with vl := 5000 }
     Comes i (m0 h) 0 h g0 ∧ (foot h i).src = [] ∧ (m0 h).registerCheck h g0 i = none ∧ (m0 h).verdict 0 h g0 i = none ∧
     h.lateBreach i = false ∧ isVector i = true ∧ h.vlmax g0 < h.vl) := by decide +kernel
/-! ## Hypotheses met: launches -/

/-- A record of two iterations, entered at 0x100000; doubleword 3 (CTX) and doubleword 6 vary. -/
def lrec (ctx w6 : W64) : List W64 := [0x100000, 0, 0, ctx, 2, 0, w6, 0, 0, 0, 0, 0, 0, 0, 0, 0]
def la1 : Launch := { la0 with record := lrec 0x400000 0, total := 2 }

/-- Queue 0 in a state, with its ring in the data page and its completion word at physical 0x30000. -/
def lqs (state : Nat) (la : Option Launch) : LQ :=
  { LQ.reset with base := 0x20000, size := 2, tail := 1, en := true, cpl := 0x30000, state := state, gates := [(false, false)], launch := la }

/-- A machine with no hart and no gang. -/
def ml (state : Nat) (la : Option Launch) : State := { m0 h0 with harts := [], gangs := [], lqs := [(0, lqs state la)] }

theorem test_meets_QueueEvents_preempt :
    ([la0, la1].all fun la => ([1, 4] : List Nat).all fun n =>
      decide ((ml n (some la)).who < 16 ∧ ((ml n (some la)).lqAt 0).launch = some la) && ((ml n (some la)).lqAt 0).state == n) = true ∧
    ((ml 3 (some la1)).lqAt (ml 3 (some la1)).who).state = 3 := by decide +kernel

theorem test_meets_QueueEvents_start :
    ([lrec 0 0, lrec 0 3, (lrec 0 0).set 4 0, (lrec 0 0).set 8 0x3E800000000].all fun r =>
      let s := withWords (ml 0 none) 0 r
      let l := s.lqAt s.who
      decide (s.pageMoving l.cpl.toNat = false ∧ s.dev.bootOk = true ∧ s.dev.trip = false ∧ l.en = true ∧ l.state = 0 ∧
        l.head % 2 ^ l.size.toNat ≠ l.tail % 2 ^ l.size.toNat ∧
        (List.range 16).map (fun j => BitVec.ofNat 64 (s.physVal (l.base.toNat + 128 * (l.head % 2 ^ l.size.toNat) + 8 * j) 8)) = r ∧
        WordAt s l 0x30000) &&
      if r = lrec 0 3 then !Lr.formatOk r false false
      else decide (Lr.formatOk r false false = true ∧ (Lr.total r = 0 ↔ r = (lrec 0 0).set 4 0) ∧
        (s.badLayout r = true ↔ r = (lrec 0 0).set 8 0x3E800000000))) = true ∧
    (ml 0 none).dev.recov = false ∧ { (ml 0 none) with dev := { DevCtl.reset with recov := true } }.dev.recov = true := by
  decide +kernel

theorem test_meets_QueueEvents_dispatch :
    (let s := { ml 1 (some la1) with gangs := [(0, g0)] }
     s.launchAt s.who = some la1 ∧ (s.lqAt s.who).state = 1 ∧ la1.next < la1.total ∧ Lr.det la1.record = false ∧
     s.freeSlot s.who = some (g0, 0) ∧ s.gangAt (gangKey s.who g0.ordinal) = some g0 ∧
     (∀ e ∈ s.gangs, e.1 = gangKey s.who g0.ordinal) ∧
     ∀ i < 1, ∀ j < 1, Lr.nl la1.record = 0 ∧ (Lr.order la1.record i = Lr.order la1.record j → i = j)) ∧
    (let s := ml 1 (some la1)
     s.launchAt s.who = some la1 ∧ s.freeSlot s.who = none ∧ (s.choices la1.record).head? = some 0 ∧ s.phaseDone la1 0 = true ∧
     s.firstInLine s.who = true ∧ s.gangs = [] ∧
     ∀ k < Lr.h la1.record, s.hartAt (hartKey s.who (s.newOrdinal s.who la1 * Lr.h la1.record + k)) = none) ∧
    (let la : Launch := { la1 with record := lrec 0 0x100, next := 1, detHarts := 1 }
     let s := { ml 1 (some la) with gangs := [(0, g0)] }
     s.launchAt s.who = some la ∧ (s.lqAt s.who).state = 1 ∧ la.next < la.total ∧ Lr.det la.record = true ∧
     s.detSlotFree s.who la = true ∧ s.gangAt (gangKey s.who (0 / Lr.h la.record)) = some g0 ∧ g0.ordinal = 0 / Lr.h la.record ∧
     g0.h = Lr.h la.record) ∧
    (let la := { la1 with delayed := [3] }
     (ml 1 (some la)).launchAt 0 = some la ∧ 3 ∈ la.delayed) := by decide +kernel

theorem test_meets_LaunchEnds_complete :
    (let s := ml 1 (some la0)
     s.launchAt s.who = some la0 ∧ WordAt s (s.lqAt s.who) 0x30000 ∧ la0.ending = none ∧ (s.lqAt s.who).state = 1 ∧
     s.launchDone s.who la0 = true) ∧
    (let la := { la1 with ending := some (0x22, 0x100000, 5, 0) }
     let s := { ml 5 (some la) with harts := [(0, h0)], gangs := [(0, g0)] }
     s.launchAt s.who = some la ∧ WordAt s (s.lqAt s.who) 0x30000 ∧ s.migs = [] ∧ (∀ e ∈ s.cores, ∀ c ∈ e.2.copies, c.queue ≠ s.who) ∧
     (∀ e ∈ s.harts, e.2.waiting = false) ∧ ∀ e ∈ s.gangs, e.2.queue = s.who → s.gangSettled e.1 = true) := by decide +kernel

/-- A gang that PREEMPTION_SAVE saved. -/
def saved1 : SavedGang := ⟨{ g1 with ordinal := 0 }, [], [], false⟩

theorem test_meets_LaunchEnds_preempt :
    (let s := ml 2 (some la1)
     s.launchAt s.who = some la1 ∧ (s.lqAt s.who).state = 2 ∧ la1.commit = none ∧ Still s ∧ WordAt s (s.lqAt s.who) 0x30000 ∧
     (∀ e ∈ s.harts, e.2.waiting = false) ∧ ∀ e ∈ s.gangs, e.2.queue ≠ s.who) ∧
    (let s := { ml 2 (some la1) with harts := [(0, h0)], gangs := [(0, g0)] }
     s.launchAt s.who = some la1 ∧ (s.lqAt s.who).state = 2 ∧ Still s ∧ (∀ e ∈ s.harts, e.2.waiting = false) ∧
     (s.gangs.filter fun e => e.2.queue == s.who).find? (fun e => s.gangSettled e.1) = some (0, g0) ∧ s.gangAt 0 = some g0 ∧
     s.hartsOf 0 ≠ []) ∧
    ((ml 4 (some la1)).launchAt 0 = some la1 ∧ ((ml 4 (some la1)).lqAt 0).state = 4 ∧ ∀ y ∈ la1.saved, y.byCtxsv = true) ∧
    (let la := { la1 with saved := [saved1] }
     let s := (ml 4 (some la)).setMemBytes 0x7FF000 (leBytes 8 saved1.gang.header)
     s.launchAt 0 = some la ∧ saved1.byCtxsv = false ∧ s.areaFit la saved1 = true ∧ s.resumePos la.record saved1.gang = some 0 ∧
     saved1.gang.queue = 0) := by decide +kernel

/-- A hart of a MODE.DET launch whose quantum is over, with two bytes to commit. -/
def hq : Hart := { h0 with det := true, qlim := 256, qcount := 256, buf := [(0x20000, 1), (0x20040, 2)] }
/-- Its launch, with every iteration handed out, and the commit at a HARTID. -/
def lad (commit : Option Nat) : Launch := { la1 with record := lrec 0 0x100, next := 2, detHarts := 1, commit := commit }
def md (h : Hart) (commit : Option Nat) : State :=
  { ml 1 (some (lad commit)) with harts := [(0, h)], gangs := [(0, g0)] }

theorem test_meets_LaunchEnds_commit :
    ((md hq none).hartAt (md hq none).who = some hq ∧ hq.det = true ∧ hq.qend = false ∧ hq.conv = none ∧ hq.qlim ≤ hq.qcount) ∧
    (let s := md { hq with qend := true } none
     s.launchAt s.who = some (lad none) ∧ SMap.sorted s.harts = true ∧ s.commitReady s.who (lad none) = true) ∧
    (let s := md { hq with qend := true } (some 0)
     let mine := s.harts.filter fun e => e.2.queue == s.who
     s.launchAt s.who = some (lad (some 0)) ∧ (∀ e ∈ mine, e.2.committing = false) ∧
     mine.find? (fun e => decide (0 ≤ e.2.hartid)) = some (0, { hq with qend := true }) ∧
     (∀ x ∈ hq.buf, s.home x.1 = .mem x.1) ∧ s.bufHeld 0 { hq with qend := true } = false ∧ s.lines = [] ∧ (hq.buf.map fun x => s.redirect x.1).Nodup) ∧
    (let s := md { hq with qend := true, buf := [] } (some 1)
     let mine := s.harts.filter fun e => e.2.queue == s.who
     s.launchAt s.who = some (lad (some 1)) ∧ (∀ e ∈ mine, e.2.committing = false) ∧ (∀ e ∈ mine, e.2.hartid < 1) ∧
     ∀ e ∈ mine, s.servedNow e.2 = false) := by decide +kernel

/-! ## Hypotheses met: a convoy's life -/

/-- A line of fifteen NOPs in convoys of four, each a target (R33): START and TARGET bits of parcels 0, 4, 8 and 12. -/
def nopLine : Nat := 0x08889111 * 2 ^ 480
/-- The same with a parity bit wrong. -/
def badLine : Nat := 0x48889111 * 2 ^ 480
/-- The machine with that line at 0x100000. -/
def mn (h : Hart) : State := (m0 h).setMemBytes 0x10000 (leBytes 64 nopLine)

theorem test_meets_ConvoyLife_issue :
    (let s := mn h0
     s.pick s.who = some (0, h0) ∧ s.hartAt 0 = some h0 ∧ s.gangAt h0.gang = some g0 ∧ h0.conv = none ∧ s.fetchAt h0 = (s, .ok nopLine) ∧
     s.issueCheck h0 g0 (Line.convoy nopLine h0.pc) = .go) ∧
    (let h := { h0 with ci := 3 }
     let bad := nopLine + 0xFC * 2 ^ 96
     let s := (m0 h).setMemBytes 0x10000 (leBytes 64 bad)
     s.pick s.who = some (0, h) ∧ s.fetchAt h = (s, .ok bad) ∧
     s.issueCheck h g0 (Line.convoy bad h.pc) = .trap .illegalOp 3 0xFC) ∧
    ((m0 h0).hartAt 0 = some h0 ∧ (m0 h0).fetchAt h0 = (m0 h0, .bad .lineFormat 0x100001)) := by decide +kernel

theorem test_meets_ConvoyLife_refetch :
    let s := { mn h0 with lbuf := [⟨0, 0, 0x100000, BitVec.ofNat 512 badLine⟩] }
    s.hartAt s.who = some h0 ∧ s.keep = false ∧ s.fetchXlate (s.agentOf h0) 0x100000 = some 0x10000 ∧
    s.lineBuffered 0 0 0x100000 = some badLine ∧ Line.parityOk badLine = false ∧ Line.parityOk (s.lineAt 0x10000) = true ∧
    s.fetch (s.agentOf h0) h0.pc h0.entry = .ok nopLine := by decide +kernel

theorem test_meets_ConvoyLife_retire :
    (let h := { on h0 .nop with conv := some ⟨[.nop], [0], 0x100010, 1, none, none, 1, [none], [none], [none]⟩, uwatch := 1 }
     (m0 h).hartAt (m0 h).who = some h ∧ (∀ i ∈ ([.nop] : List Instr), i ≠ .uret ∧ i ≠ .eret) ∧
     newFlags h ⟨[.nop], [0], 0x100010, 1, none, none, 1, [none], [none], [none]⟩ &&& h.uwatch ≠ 0 ∧ h.uh = false) ∧
    (let h := { h0 with fills := [⟨1, 5, false⟩, ⟨2, 5, true⟩], vfills := [⟨0, 0, 32, 5⟩] }
     (m0 h).hartAt (m0 h).who = some h ∧ (m0 h).upsets = []) ∧
    ([(0x20000, Home.mem 0x20000), (0x200000000000, Home.ls 0 0)].all fun x : Nat × Home =>
      let d : Drain := ⟨3, false, x.1, [1, 2]⟩
      let h := { h0 with drain := [d] }
      let s := m0 h
      decide (s.hartAt 0 = some h ∧ h.drain[0]? = some d ∧ s.drainReady 0 h 0 d = true ∧ s.home d.pa = x.2 ∧ s.lines = [] ∧ s.upsets = [])) = true ∧
    (∀ i < 2, ∀ j < 2, i ≠ j → (m0 h0).redirect (0x20000 + i) ≠ (m0 h0).redirect (0x20000 + j)) := by decide +kernel


/-! ### Launches and convoys: the other ways -/

theorem test_meets_QueueEvents_dropped :
    (let s := { ml 1 (some la1) with dev := { DevCtl.reset with recov := true } }
     s.dev.recov = true ∧ HostFree s) ∧ HostFree (ml 1 (some la1)) ∧
    (ml 1 none).who < 16 ∧ ((ml 1 none).lqAt 0).launch = none ∧ ((ml 3 (some la1)).lqAt 0).state = 3 := by decide +kernel

/-- A gang of two slots forms for two loops; the first dispatch under MODE.DET, for five iterations of two slots. -/
theorem test_meets_QueueEvents_gangs :
    (let la := { la1 with record := (lrec 0 0x1211008).set 4 0x300000002, total := 6 }
     let s := ml 1 (some la)
     s.launchAt 0 = some la ∧ Lr.det la.record = false ∧ Lr.h la.record = 4 ∧ Lr.nl la.record = 1 ∧ s.freeSlot 0 = none ∧
     (s.choices la.record).head? = some 0 ∧ s.phaseDone la 0 = true ∧ s.firstInLine 0 = true ∧ s.gangs = [] ∧
     (∀ i < 2, ∀ j < 2, Lr.order la.record i = Lr.order la.record j → i = j) ∧
     ∀ k < 4, s.hartAt (hartKey 0 (s.newOrdinal 0 la * 4 + k)) = none) ∧
    (let la := { la1 with record := lrec 0 0x104, total := 5 }
     let s := ml 1 (some la)
     s.launchAt 0 = some la ∧ la.next = 0 ∧ Lr.det la.record = true ∧ la.detHarts = 0 ∧ s.firstInLine 0 = true ∧ Lr.h la.record = 2 ∧
     (s.choices la.record).take 3 = [0, 1, 2] ∧ ∀ c ∈ [0, 1, 2], s.phaseDone la (c / 24) = true) := by decide +kernel

theorem test_meets_LaunchEnds_ended :
    let la := { la1 with ending := some (0x22, 0x100000, 5, 0) }
    let s := { ml 5 (some la) with harts := [(0, h0)], gangs := [(0, g0)] }
    (∀ y ∈ la.saved, ∀ c ∈ y.cores, c.copies = []) ∧ s.ownInFlight s.who = false := by decide +kernel

/-- A gang that settles is saved to the launch's own area. -/
theorem test_meets_LaunchEnds_area :
    let s := { ml 2 (some la1) with harts := [(0, h0)], gangs := [(0, g0)] }
    Lr.ctx la1.record = 0x400000 ∧ AreaIn s (ctxAddr (Lr.ctx la1.record) g0) g0.g (fun _ i => 64 + i) ∧ Savable s 0 g0 :=
  ⟨by decide, areaIn_ctx (by decide) (by decide) rfl rfl, savable_of (by decide +kernel) (.inl rfl) (by decide +kernel)⟩

/-- A gang saved by CTXSV stands before one to be placed; a launch of greater priority waits in line. -/
theorem test_meets_LaunchEnds_resume :
    (let y2 : SavedGang := ⟨{ g1 with ordinal := 1 }, [], [], true⟩
     let la := { la1 with saved := [y2] ++ saved1 :: [] }
     let s := (ml 4 (some la)).setMemBytes 0x7FF000 (leBytes 8 saved1.gang.header)
     s.launchAt 0 = some la ∧ (s.lqAt 0).state = 4 ∧ y2.byCtxsv = true ∧ saved1.byCtxsv = false ∧ s.firstInLine 0 = true ∧ s.areaFit la saved1 = true ∧
     s.resumePos la.record saved1.gang = some 0) ∧
    (let la := { la1 with saved := [saved1] }
     let s := { ml 4 (some la) with lqs := [(0, lqs 4 (some la)), (3, { lqs 1 (some { la1 with record := lrec 0 0x70 }) with cpl := 0x38000 })] }
     s.launchAt 0 = some la ∧ (s.lqAt 0).state = 4 ∧ s.firstInLine 0 = false) ∧
    (hq.bufTouch = [] ∧ (md { hq with qend := true } (some 0)).lines = []) := by decide +kernel

/-- A source field of policy 1, full or with an empty word. -/
theorem test_meets_ConvoyLife_verdicts :
    let i := Instr.vadd { v3 with pa := true }
    let s := { mline (encode i) h0 with rows := [(0, ⟨0, 0xFFFE, 0⟩)] }
    picked (encode i) h0 = true ∧ s.pick s.who = some (0, h0) ∧ s.fetchAt h0 = (s, .ok (lineOf (encode i))) ∧
    s.issueCheck h0 g0 (Line.convoy (lineOf (encode i)) h0.pc) = .go ∧ decoded (Line.convoy (lineOf (encode i)) h0.pc) = [i] ∧
    policyFields i = some (v3.m, [(F 0 32, true, false), (F 32 32, false, true)]) ∧ productEntry 0 h0 g0 i = none ∧
    EmptyField s h0 g0 v3.m [] (F 0 32, true, false) ∧ ¬ EmptyField (mline (encode i) h0) h0 g0 v3.m [] (F 32 32, false, true) := by
  refine ⟨by decide +kernel, by decide +kernel, by decide +kernel, by decide +kernel, by decide +kernel, by decide +kernel, by decide +kernel,
    ⟨rfl, 0, by decide, by simp, 0, by decide +kernel, by decide +kernel, by decide +kernel⟩, fun h => by simp [EmptyField] at h⟩

theorem test_meets_ConvoyLife_kept :
    let s := { mn h0 with lbuf := [⟨0, 0, 0x100000, BitVec.ofNat 512 badLine⟩], keep := true }
    s.hartAt s.who = some h0 ∧ s.keep = true ∧ s.fetchXlate (s.agentOf h0) 0x100000 = some 0x10000 ∧
    s.lineBuffered 0 0 0x100000 = some badLine ∧ Line.parityOk badLine = false ∧ Line.parityOk (s.lineAt 0x10000) = true ∧
    s.fetch (s.agentOf h0) h0.pc h0.entry = .ok nopLine := by decide +kernel

/-- A convoy with a return, with no flag watched, at the start of the convoy it returned to, and inside it; one that paused. -/
theorem test_meets_ConvoyLife_returns :
    ([(0, 0), (1, 0), (1, 1)] : List (Nat × Nat)).all (fun x => ([.uret, .eret] : List Instr).all fun i =>
      let h := { h0 with uwatch := BitVec.ofNat 6 x.1, mflags := 3, ci := x.2, conv := some ⟨[i], [0], 0x100010, 1, none, none, 0, [none], [none], [none]⟩ }
      (mla h la0).hartAt (mla h la0).who == some h && ((h.mflags &&& ~~~h.fst &&& h.uwatch == 0) == (x.1 == 0)) && !h.uh) = true ∧
    (let c : Conv := ⟨[.nop], [0], 0x100010, 1, some ⟨0, none, 0, some 3, true⟩, none, 0, [none], [none], [none]⟩
     let h := { h0 with conv := some c }
     (m0 h).hartAt (m0 h).who = some h ∧ c.instrs.length ≤ c.idx) := by decide +kernel
/-! ## Hypotheses met: heat and power -/

/-- A machine whose core 0 reads a temperature, with a gang of eight lanes on it. -/
def gh : Gang := { g0 with na := 32 }
def mhot (deg : Nat) : State :=
  { m0 h0 with gangs := [(0, gh)], cores := [(0, { Core.fresh with sensor := deg, request := true })] }

theorem test_meets_Thermal_requests :
    (95 : Nat) < 110 ∧ (m0 h0).gangOn 3 = none ∧ ((m0 h0).coreAt 0).request = false ∧ ((m0 h0).coreAt 0).reserved = false ∧ (m0 h0).gangOn 0 = some (0, g0) ∧
    (m0 h0).thermLimit.toNat < 96 ∧
    ([90, 96].all fun deg : Nat =>
      let s := mhot deg
      decide ((s.coreAt s.who).request = true ∧ s.gangOn s.who = some (0, gh) ∧ s.gangAt 0 = some gh ∧ gh.stopping = false) &&
        (s.hottest 0 1 + 5 ≤ s.thermLimit.toNat) == (deg == 90)) = true ∧
    Coolest (mhot 96) gh 1 ∧
    (let s := { mhot 96 with gangs := [(0, g0)] }
     s.gangOn s.who = some (0, g0) ∧ s.gangAt 0 = some g0 ∧ s.thermLimit.toNat < s.hottest 0 1 + 5 ∧
     ∀ c ∈ clusterPositions 0 1, s.canTake g0 c = false) := by decide +kernel

/-- A migration of gang 0 from core 0 to core 1. -/
def mig (moved : Bool) : Mig := ⟨0, 1, 0, 1, moved, []⟩
def mm1 (moved : Bool) : State := { m0 h0 with gangs := [(0, { gh with stopping := true })], migs := [mig moved] }

theorem test_meets_Thermal_move :
    let s := mm1 false
    let x := { gh with stopping := true }
    (s.migs[s.who]? = some (mig false) ∧ s.gangAt 0 = some x ∧ s.committing x.queue = false ∧ s.parks = [] ∧ s.gangSettled 0 = true ∧
      SMap.sorted s.rows = true ∧ SMap.sorted s.tileWords = true ∧
      SMap.sorted s.harts = true) ∧
    Placed s (mig false) x :=
  ⟨by decide +kernel, rfl, rfl, by intro e e' h h'; simp [gh, g0, mig] at h h' ⊢; omega,
    by intro e h; obtain rfl : e = 0 := by simp [gh, g0] at h; omega
       decide +kernel⟩

theorem test_meets_Thermal_exchange :
    let s := mm1 true
    let x := { gh with stopping := true }
    s.migs[s.who]? = some (mig true) ∧ (mig true).moved = true ∧ s.gangAt 0 = some x ∧ (mig true).size = x.g ∧
    ∀ e < x.g, ∀ e' < x.g, (mig true).src + e ≠ (mig true).dst + e' := by decide +kernel

theorem test_meets_Power :
    (3 < 384 ∧ 31 < 32 ∧ 1023 < 1024 ∧ 605 < 606 ∧ SMap.sorted (m0 h0).upsets = true) ∧
    (let s := { m0 h0 with upsets := [(3, true), (64, true), (65, true)] }
     (s.upsetsIn 0 0).length = 1 ∧ 2 ≤ (s.upsetsIn 0 1).length) ∧ (m0 h0).who < 16 ∧ (m0 h0).agenda = [] := by decide +kernel

/-! ## Hypotheses met: the migration engine -/

/-- A record of the migration queue: operation, count, source page, destination byte. -/
def mrec (op count src dst : Nat) : List W64 :=
  [BitVec.ofNat 64 (count * 65536 + op), BitVec.ofNat 64 (src * 65536), BitVec.ofNat 64 dst, 0]

/-- The machine with the migration queue enabled and that record at its head, with a page redirected. -/
def me (r : List W64) (redirects : SMap Nat) : State :=
  withWords { m0 h0 with mq := { MQ.reset with base := 0x20000, size := 2, tail := 1, cpl := 0x30000, en := true }, redirects := redirects } 0 r

theorem test_meets_Tiers_move :
    (let s := me (mrec 1 2 0x10 0x200000) [(0x15, 0x16)]
     EngineFree s ∧ Asks s 1 2 ∧ s.pagesPresent (MRec.dst (mqRecord s)) 2 = true ∧ pageOf (MRec.src (mqRecord s)) = 0x10 ∧
     pageOf (MRec.dst (mqRecord s)) = 0x20 ∧ (∀ e ∈ s.redirects, 0x10 + 2 ≤ e.1 ∧ e.1 < 0x20) ∧ s.redirects.length < 4096) ∧
    ([(mrec 1 2 0x10 0x200001, []), (mrec 1 0 0x10 0x200000, []), (mrec 1 2 0x10 0x110000, []), (mrec 1 2 0x10 0x200000, [(0x11, 0x16)])].all
      fun x : List W64 × SMap Nat =>
        let s := me x.1 x.2
        let r := mqRecord s
        let src := pageOf (MRec.src r)
        let dst := pageOf (MRec.dst r)
        decide (EngineFree s ∧ MRec.op r = 1 ∧ RecordAt s 0x20000 0x30000 [] ∧
          (MRec.formOk r = false ∨ MRec.count r = 0 ∨ (src < dst + MRec.count r ∧ dst < src + MRec.count r) ∨
            ∃ e ∈ s.redirects, src ≤ e.1 ∧ e.1 < src + MRec.count r))) = true := by decide +kernel

theorem test_meets_Tiers_release :
    (let s := me (mrec 2 2 0x10 0) [(0x11, 0x16)]
     let u := { s with redirects := SMap.restrict s.redirects fun p => !(decide (0x10 ≤ p) && decide (p < 0x10 + 2)) }
     EngineFree s ∧ Asks s 2 2 ∧ pageOf (MRec.src (mqRecord s)) = 0x10 ∧ RecordAt u 0x20000 0x30000 []) ∧
    (let s := me (mrec 3 2 0x10 0x200100) []
     EngineFree s ∧ Asks s 3 2 ∧ s.pagesPresent (MRec.dstByte (mqRecord s) / 65536) ((MRec.dstByte (mqRecord s) % 65536 + 2 + 65535) / 65536) = true ∧
     (∀ j < 2, s.home (MRec.dstByte (mqRecord s) + j) = .mem (0x200100 + j)) ∧
     RecordAt s 0x20000 0x30000 ((List.range 2).map (0x200100 + ·))) := by decide +kernel

/-- The migration engine at the last moment of a page. -/
def mcut (a b n : Nat) : State :=
  let s := me (mrec 1 n a (b * 65536)) []
  { s with mq := { s.mq with job := some (a, b, 0, n), moving := some ⟨a, b, 1024, []⟩ } }

theorem test_meets_Tiers_cutover :
    ([1, 2].all fun n => decide ((mcut 0x10 0x20 n).mq.job = some (0x10, 0x20, 0, n) ∧ (mcut 0x10 0x20 n).mq.moving = some ⟨0x10, 0x20, 1024, []⟩ ∧
      (mcut 0x10 0x20 n).hostQ = [] ∧ (mcut 0x10 0x20 n).flips = [] ∧ SMap.find (mcut 0x10 0x20 n).redirects 0x10 = none ∧
      SMap.find (mcut 0x10 0x20 n).redirects 0x20 = none ∧ SMap.sorted (mcut 0x10 0x20 n).lines = true ∧ (mcut 0x10 0x20 n).redirects.length + 1 < 4096)) = true ∧
    (let s := mcut 0x10 0x20 1
     let m : Moving := ⟨0x10, 0x20, 7, []⟩
     let s := { s with mq := { s.mq with moving := some m } }
     s.mq.job = some (0x10, 0x20, 0, 1) ∧ s.mq.moving = some m ∧ m.lines < 1024 ∧ SMap.sorted s.lines = true) ∧
    SMap.sorted (m0 h0).heat = true := by decide +kernel

theorem test_meets_Tiers_refused :
    ([2, 3].all fun op : Nat =>
      let s := me (mrec op 0 0x10 0x200000) []
      decide (EngineFree s ∧ MRec.op (mqRecord s) = op ∧ RecordAt s 0x20000 0x30000 [] ∧ MRec.count (mqRecord s) = 0)) = true ∧
    (m0 h0).dev.recov = false ∧ { m0 h0 with dev := { DevCtl.reset with recov := true } }.dev.recov = true := by decide +kernel

/-- The CRC of zero bytes is zero. -/
theorem crc_of_none (m : SMap Byte) (l : List Nat) (h : ∀ i ∈ l, SMap.find m i = none) :
    l.foldl (fun c i => if c = 0 && (SMap.find m i).isNone then c else crcByte c (SMap.getD m i 0)) (0 : W64) = 0 := by
  induction l with
  | nil => rfl
  | cons i l ih =>
    rw [List.foldl_cons, h i List.mem_cons_self]
    exact ih fun j hj => h j (List.mem_cons_of_mem _ hj)

/-- A page of the Undercroft whose last byte has one bit changed disagrees with its tag. -/
theorem test_meets_Tiers_tag :
    let s := { mcut 0x10000000 0x20 1 with flips := [(0x10000000FFFF, 1)] }
    s.mq.moving = some ⟨0x10000000, 0x20, 1024, []⟩ ∧ s.tagBad 0x10000000 = true := by
  refine ⟨rfl, ?_⟩
  have hc : crcPage [(65535, 1#8)] = 0x42F0E1EBA9EA3693 := by
    rw [crcPage, show (65536 : Nat) = 65535 + 1 from rfl, List.range_succ, List.foldl_append, crc_of_none]
    · decide +kernel
    · intro i hi
      have : i < 65535 := List.mem_range.mp hi
      simp only [SMap.find]
      grind
  simp only [State.tagBad]
  rw [show List.filterMap (fun e : Nat × Byte => if e.1 / 65536 = 0x10000000 then some (e.1 % 65536, e.2) else none)
    [(0x10000000FFFF, 1)] = [(65535, 1#8)] by decide, hc]
  decide

theorem test_meets_Tiers_settled : Settled (mcut 0x10 0x20 2) := fun _ => rfl

/-! ## Hypotheses met: the host port and peers -/

/-- The machine with page 2, which holds physical 0x20000, on the move to page 0x20. -/
def mmove : State := { m0 h0 with mq := { MQ.reset with moving := some ⟨2, 0x20, 7, []⟩ } }

theorem test_meets_HostPort_memory :
    ((m0 h0).dev.devid < 768 ∧ (m0 h0).mq.moving = none ∧ HostFree (m0 h0) ∧ (∀ j < 8, (m0 h0).bar2Addr (0x20000 + j) = some (0x20000 + j)) ∧
      (((List.range 8).map (0x20000 + ·)).map (m0 h0).redirect).Nodup) ∧
    (HostFree mmove ∧ mmove.mq.moving = some ⟨2, 0x20, 7, []⟩ ∧
      ∀ j < 8, mmove.bar2Addr (0x20000 + j) = some (0x20000 + j) ∧ mmove.redirect (0x20000 + j) / 65536 = 2) ∧
    (let m : Moving := ⟨2, 0x20, 7, [⟨0x20000, [5], true⟩]⟩
     { m0 h0 with mq := { MQ.reset with moving := some m } }.hostHeld = true) ∧
    (∀ j < 8, (m0 h0).bar2Addr (0x40000000 + j) = none) ∧
    (Unserved (m0 h0) 0x1000 2 ∧ Unserved (m0 h0) 0x1004 8 ∧
      Unserved { m0 h0 with dev := { DevCtl.reset with recov := true } } 0x1000 8) ∧
    ((m0 h0).dev.recov = false ∧ ([0x00, 0x08, 0x20, 0x28, 0x30].all fun r => (lqAfter lq0 5 r).isSome) = true) ∧
    30 ≤ { m0 h0 with who := 35 }.who ∧ { m0 h0 with who := 35 }.who ≤ 39 := by decide +kernel

/-- An offset past the last range of the control space. -/
theorem test_meets_HostPort_reserved : Unserved (m0 h0) 0x508100 8 := by
  refine .inr (.inr (.inl ?_))
  decide +kernel

theorem test_meets_HostPort_peers :
    (let s := m0 h0
     s.home 0x20000 = .mem 0x20000 ∧ s.physPoison 0x20000 8 = false ∧ s.mq.moving = none ∧ s.storeReserved 0x20000 8 = false ∧
     s.dev.trip = false ∧ s.lines = [] ∧
     (∀ i < 8, ∀ j < 8, i ≠ j → s.redirect (0x20000 + i) ≠ s.redirect (0x20000 + j)) ∧
     s.home 0x200000000000 = .ls 0 0 ∧ s.coreMoving 0 = false ∧ s.upsets = [] ∧ s.physPoison 0x200000000000 64 = false ∧
     s.storeReserved 0x200000000000 64 = false ∧ s.home 0x300000000008 = .ctrl 8) ∧
    ([none, some ((1 : Reg), (0x110000 : W64))].all fun d : Option (Reg × W64) =>
      let r : Remote := ⟨0, 3, false, false, false, 0, 2 ^ 46, .read 8, false, d, 0, none⟩
      let s : State := { m0 h0 with remotes := [r] }
      decide (s.remotes[s.who]? = some r ∧ r.answer = none ∧ s.hartAt r.hart = some h0)) = true ∧
    ((m0 h0).rt.length < 8192 ∧ lostCore 0x300005 = 3) ∧
    (let b : BootInput := ⟨true, [], true, []⟩
     let s := { State.reset with rt := [⟨5, 0x300005⟩] }
     b.imagesOk = true ∧ b.signatureOk = true ∧ s.gangs = [] ∧
     ∀ e ∈ s.rt, e.w0.toNat % 256 = 5 ∧ lostCore e.w1.toNat < 384 ∧ (s.coreAt (lostCore e.w1.toNat)).reserved = false) := by
  decide +kernel

/-! ### The engine and the host port: the other ways -/

/-- A write of MQ.TAIL behind a held one, free, and in recovery. -/
theorem test_meets_Tiers_tail :
    (let m : Moving := ⟨2, 0x20, 7, [⟨0x20000, [5], true⟩]⟩
     { m0 h0 with mq := { MQ.reset with moving := some m } }.hostHeld = true) ∧
    HostFree (m0 h0) ∧ (m0 h0).dev.recov = false ∧ HostFree { m0 h0 with dev := { DevCtl.reset with recov := true } } := by decide +kernel

/-- The record and the completion word of a MOVE that ends, with and without its tag in order. -/
theorem test_meets_Tiers_ends :
    (let s := mcut 0x10 0x20 1
     RecordAt { s with redirects := SMap.put s.redirects 0x10 0x20 } 0x20000 0x30000 []) ∧
    RecordAt { mcut 0x10000000 0x20 1 with flips := [(0x10000000FFFF, 1)] } 0x20000 0x30000 [] ∧
    (let s := { mcut 0x10 0x20 1 with msix := [(6, 0x77), (7, 0x88)] }
     let s := { s with mq := { s.mq with msi := true, vec := 3 } }
     s.mq.msi = true ∧ (SMap.getD s.msix (2 * s.mq.vec.toNat + 1) 0).getLsbD 32 = false) := by decide +kernel

/-- A store held at a page that moves on, and at one whose tag disagrees. -/
theorem test_meets_Tiers_held :
    (let s := mcut 0x10 0x20 2
     let s := { s with mq := { s.mq with moving := some ⟨0x10, 0x20, 1024, [⟨0x100010, [5, 6], false⟩]⟩ } }
     s.mq.job = some (0x10, 0x20, 0, 2) ∧ s.hostQ = [] ∧ s.home 0x100010 = .mem 0x100010 ∧ 0x100010 % 64 + 2 ≤ 64 ∧
     s.redirect 0x100010 / 65536 = 0x10 ∧ s.flips = [] ∧ SMap.find s.redirects 0x10 = none ∧ SMap.find s.redirects 0x20 = none) ∧
    (let s := { mcut 0x10000000 0x20 1 with flips := [(0x10000000FFFF, 1)] }
     let s := { s with mq := { s.mq with moving := some ⟨0x10000000, 0x20, 1024, [⟨0x100000000010, [5, 6], false⟩]⟩ } }
     s.mq.job = some (0x10000000, 0x20, 0, 1) ∧ s.hostQ = [] ∧ s.home 0x100000000010 = .mem 0x100000000010 ∧
     s.redirect 0x100000000010 / 65536 = 0x10000000 ∧
     RecordAt s 0x20000 0x30000 ((List.range 2).map (0x100000000010 + ·))) := by decide +kernel

/-- A load and an ordered store of memory, and a store that drains. -/
theorem test_meets_Tiers_heat :
    lands (.ld 1 5 0) .load 0x110000 8 0x20000 = true ∧ (at0 .nop).home 0x20000 = .mem 0x20000 ∧
    lands (.sts (sf 1 5 0 3 0x2000000)) .store 0x110000 8 0x20000 = true ∧
    storeOf h0 (.sts (sf 1 5 0 3 0x2000000)) = some (0x110000, 8, 7, 1, 0) ∧ (at0 .nop).settledFor 0 h0 0 = true ∧
    (at0 .nop).storeReserved 0x20000 8 = false ∧ (at0 .nop).pageMoving 0x20000 = false ∧
    (let d : Drain := ⟨3, false, 0x20000, [1, 2]⟩
     let h := { h0 with drain := [d] }
     (m0 h).hartAt 0 = some h ∧ h.drain[0]? = some d ∧ (m0 h).drainReady 0 h 0 d = true) := by decide +kernel

/-- A host write of a whole line, onto a poisoned line and to a page that moves. -/
theorem test_meets_HostPort_line :
    ([{ m0 h0 with poison := [(0x20000 / 64, true)] }, mmove].all fun s : State =>
      decide (HostFree s) && (List.range 64).all fun j => s.bar2Addr (0x20000 + j) == some (0x20000 + j)) = true ∧
    (((List.range 64).map (0x20000 + ·)).map (m0 h0).redirect).Nodup ∧ (∀ j ∈ List.range 64, mmove.redirect (0x20000 + j) / 65536 = 2) := by
  decide +kernel

/-- Registers of each kind that the host writes; an idle part and one that is not; a message that waits. -/
theorem test_meets_HostPort_registers :
    HostFree (ml 1 (some la1)) ∧ (ml 1 (some la1)).dev.recov = false ∧
    ([0x00, 0x08, 0x10, 0x18, 0x20, 0x28].all fun r => (mqAfter MQ.reset 5 r).isSome) = true ∧
    ([0x008, 0x010, 0x018, 0x020, 0x800, 0x808].all fun r => (devAfter DevCtl.reset 5 r).isSome) = true ∧
    SMap.sorted (ml 0 none).lqs = true ∧ ((m0 h0).lqAt 0).state ≠ 0 ∧
    (let s := { m0 h0 with msix := [(6, 0x11)], pba := [(3, true)] }
     HostFree s ∧ SMap.getD s.pba (7 / 2) false = true) := by decide +kernel

/-- No queue of an idle part has a launch. -/
theorem test_meets_HostPort_idle (q : Nat) : ((ml 0 none).lqAt q).state = 0 := by
  by_cases h : q = 0
  · subst h; decide
  · have : SMap.find (ml 0 none).lqs q = none := by simp [ml, SMap.find]; omega
    simp [State.lqAt, SMap.getD, this, LQ.reset]

/-- A store of a privileged hart to DEVCFG. -/
theorem test_meets_HostPort_hostOnly :
    let i := Instr.sts (sf 1 11 0 3 0)
    let s := at0 i
    can i = true ∧ (storeOf h0 i).map (fun x => (x.1, x.2.1)) = some (0x120000, 8) ∧
    got (s.access (s.agentOf (on h0 i)) 0x120000 .store 8) 0x300000000000 = true ∧ s.accessHeld 0 0x300000000000 8 = false ∧
    s.home 0x300000000000 = .ctrl 0 ∧ s.settledFor 0 (on h0 i) 4 = true ∧ h0.det = false := by decide +kernel

/-! ## Hypotheses met: the whole machine -/

theorem test_meets_DistinctRows :
    (let g : Gang := { g0 with g := 2, h := 2, na := 32 }
     Formed (m0 h0) g ∧ Granted { h0 with rows := 512 } g ∧ Granted { h0 with rows := 5, slot := 1 } g) ∧
    (m0 h0).gangOn g0.first = some (0, g0) ∧ g0.g = 1 ∧ Granted h0 g0 ∧ Formed (m0 h0) g0 :=
  ⟨⟨⟨fun e _ => by simp [m0, State.lanesOf, State.coreAt, State.reset, SMap.getD, SMap.find, Core.fresh]; decide, .inr (.inl rfl)⟩,
    by decide, by decide⟩, by decide +kernel, rfl, by decide,
    fun e _ => by simp [m0, State.lanesOf, State.coreAt, State.reset, SMap.getD, SMap.find, Core.fresh]; decide, .inl rfl⟩

/-- The next step is hart 0's because the agenda says so, or because nothing else is to be done. -/
theorem test_meets_StepRunsInstr_steps :
    HartSteps { at0 .nop with agenda := [.hart 0] } (at0 .nop) 0 ∧ HartSteps (at0 .nop) (at0 .nop) 0 ∧ HartSteps (mn h0) (mn h0) 0 :=
  ⟨.inl ⟨[], rfl, rfl⟩, .inr (by decide +kernel), .inr (by decide +kernel)⟩

theorem test_meets_StepRunsInstr :
    ((at0 .nop).hartAt 0 = some (on h0 .nop) ∧ (at0 .nop).gangAt 0 = some g0 ∧ (on h0 .nop).current = some .nop) ∧
    (let s := mn h0
     s.hartAt 0 = some h0 ∧ s.gangAt h0.gang = some g0 ∧ s.mayIssue 0 h0 = true ∧ h0.ci = 0 ∧ s.fetchAt h0 = (s, .ok nopLine) ∧
     s.issueCheck h0 g0 (Line.convoy nopLine h0.pc) = .go) ∧
    (let h := { h0 with entry := .sequential }
     let s := mn h
     s.keep = false ∧ s.lbuf = [] ∧ s.fetchXlate (s.agentOf h) (BitVec.ofNat 64 (h.pc.toNat / 64 * 64)) = some 0x10000 ∧
     Line.parityOk (s.physVal 0x10000 64) = true ∧ Line.reason (s.physVal 0x10000 64) = none) ∧
    h0.pc.toNat % 64 / 4 ∈ (Line.divide nopLine).1 ∧ { m0 h0 with agenda := [.event .powerClamp 0] }.agenda = [.event .powerClamp 0] := by
  decide +kernel

theorem test_meets_StepRunsInstr_first :
    (match (Line.convoy nopLine h0.pc).head? with
     | some (p, .ok i) => decide (p = 0 ∧ i = .nop)
     | _ => false) = true := by decide +kernel

theorem test_meets_RoundTrip :
    isEvent (.launch (sf 1 5 7 0 0)) = false ∧ WellFormed (.launch (sf 1 5 7 0 0)) = true ∧ isEvent (.mma mm) = false ∧
    WellFormed (.mma { mm with x := 0x007451 }) = true := by decide +kernel

theorem test_meets_StepGoesOn : (mn h0).agendaOk = true ∧ { mn h0 with agenda := [.event .powerClamp 0, .hart 0] }.agendaOk = true := by
  decide +kernel

/-- A step from a state with bytes in memory, from a state that keeps the canonical form. -/
theorem test_meets_StepKeepsMemory :
    (mn h0).Inv ∧ (match step (mn h0) with | .next _ => true | _ => false) = true :=
  ⟨show Memory.wf (mn h0).mem = true by decide +kernel, by decide +kernel⟩

/-! ## Results by hand -/

/-- The value of a register of the test hart after one instruction. -/
def after (i : Instr) (d : Reg) : Option W64 :=
  match exec i (at0 i) with
  | .next t => (t.hartAt 0).map fun h => h.reg d
  | _ => none

/-- R76, R77: s4 holds -7, s2 holds 2, s10 holds -2^63, s9 holds -1, s8 holds 64. -/
theorem test_scalar_results :
    after (.div 1 4 2) 1 = some (-3) ∧ after (.rem 1 4 2) 1 = some (-1) ∧ after (.div 1 4 0) 1 = some (-1) ∧ after (.remn 1 4 0) 1 = some (-7) ∧
    after (.div 1 10 9) 1 = some (BitVec.intMin 64) ∧ after (.rem 1 10 9) 1 = some 0 ∧ after (.mulh 1 4 2) 1 = some (-1) ∧
    after (.mulhn 1 4 2) 1 = some 1 ∧ after (.sll 1 2 8) 1 = some 2 ∧ after (.sra 1 4 2) 1 = some (-2) ∧ after (.clz 1 2) 1 = some 62 ∧
    after (.ctz 1 0) 1 = some 64 ∧ after (.slt 1 4 2) 1 = some 1 ∧ after (.sltn 1 4 2) 1 = some 0 ∧ after (.addi 0 2 1) 0 = some 0 := by decide +kernel

/-- R143's own examples: 300 to E4M3 is 288 with NX; -0.3 to .n8 is 0 with NX under RNE; 255.3 is 255 with NX under RTZ
and 255.6 is 255 with NV under RNE. -/
theorem test_vcvt_examples :
    (let x := convertBits 5 8 0 16 0 false false 300
     (fmtOf 5).value x.1 = .fin false 9 5 ∧ x.2 = fNX) ∧
    convertBits 0 8 2 32 0 false false 0xBE99999A = (0, fNX) ∧ convertBits 0 8 2 32 1 false false 0x437F4CCD = (255, fNX) ∧
    convertBits 0 8 2 32 0 false false 0x437F999A = (255, fNV) := by decide +kernel

/-- SHAKE256 of sixteen bytes (FIPS 202), and the polynomial of CRC-64 ECMA-182. -/
theorem test_known_digests : shake32 0x0123456789ABCDEF 5 = 0xCF2713C0 ∧ crcByte 0 1 = 0x42F0E1EBA9EA3693 := by decide +kernel

/-- R368, R370: BRK 5 stops the convoy at once with BREAK and TVAL 5 for the user handler at UHPC. -/
theorem test_brk_enters :
    (let h := { on h0 (.brk 5) with view := false, uhpc := 0x100040 }
     match exec (.brk 5) (m0 h) with
     | .next t => (t.hartAt 0).map fun h => (h.uh, h.tcode, h.tpc, h.tci, h.tval, h.pc)
     | _ => none) = some (true, 0x12, 0x100004, 0, 5, 0x100040) := by decide +kernel

/-- R250, R351: a completed launch leaves HEAD in bits [47:32] and its status in the completion word. -/
theorem test_completion_word :
    (match exec .launchComplete { ml 1 (some la0) with lqs := [(0, { lqs 1 (some la0) with head := 3, tail := 0 })] } with
     | .next t => some (t.physVal 0x30000 8, (t.lqAt 0).head, (t.lqAt 0).state)
     | _ => none) = some (3 * 2 ^ 32, 0, 0) := by decide +kernel

end Sys2Proof.Tests
end

