-- ==== Sys2Proof/Proofs/Division.lean ====
section
/-! Division never traps (R77): where a division runs it completes with its quotient or remainder in the destination, and
that value takes the results of R77's table at the edges. -/

namespace Sys2Proof.Proofs

open Sys2Proof Sys2Proof.Machine Sys2Proof.Laws

/-! ## Every division that runs completes -/

section
variable {s : State} {id : Nat} {h : Hart} {g : Gang} {d a b : Reg}

theorem div_completes (r : Runs (.div d a b) s id h g) :
    Completes (.div d a b) s (finishedWith s id (h.setReg d (sdivZ (h.reg a) (h.reg b)))) := runReg_runs r d _

theorem rem_completes (r : Runs (.rem d a b) s id h g) :
    Completes (.rem d a b) s (finishedWith s id (h.setReg d (sremZ (h.reg a) (h.reg b)))) := runReg_runs r d _

theorem divn_completes (r : Runs (.divn d a b) s id h g) :
    Completes (.divn d a b) s (finishedWith s id (h.setReg d (udivZ (h.reg a) (h.reg b)))) := runReg_runs r d _

theorem remn_completes (r : Runs (.remn d a b) s id h g) :
    Completes (.remn d a b) s (finishedWith s id (h.setReg d (uremZ (h.reg a) (h.reg b)))) := runReg_runs r d _

end

/-! ## Quotients and remainders at the edges -/

@[simp] theorem sdivZ_zero (x : W64) : sdivZ x 0 = -1 := if_pos rfl

@[simp] theorem sremZ_zero (x : W64) : sremZ x 0 = x := if_pos rfl

@[simp] theorem udivZ_zero (x : W64) : udivZ x 0 = 0xFFFFFFFFFFFFFFFF := if_pos rfl

@[simp] theorem uremZ_zero (x : W64) : uremZ x 0 = x := if_pos rfl

/-- The quotient 2^63 is not a signed 64-bit value and wraps. -/
theorem sdivZ_intMin_neg_one : sdivZ (BitVec.intMin 64) (-1) = BitVec.intMin 64 := by decide

theorem sremZ_intMin_neg_one : sremZ (BitVec.intMin 64) (-1) = 0 := by decide

/-- The signed quotient is rounded toward zero, not down. -/
theorem sdivZ_neg_seven_two : sdivZ (-7) 2 = -3 := by decide

/-- The signed remainder has the sign of the dividend. -/
theorem sremZ_neg_seven_two : sremZ (-7) 2 = -1 := by decide

theorem udivZ_neg_seven_two : udivZ (BitVec.ofInt 64 (2 ^ 64 - 7)) 2 = 0x7FFFFFFFFFFFFFFC := by decide

theorem uremZ_neg_seven_two : uremZ (BitVec.ofInt 64 (2 ^ 64 - 7)) 2 = 1 := by decide

/-! ## The table of R77 -/

/-- Settles O2: each division completes with the value of its operation in the destination, which is not s0, and that
value takes the table's results. -/
theorem divisionEdges : Obligations.DivisionEdges := by
  unfold Obligations.DivisionEdges
  intro s id h g d a b hd
  have written (v : W64) : (h.setReg d v).reg d = v := reg_setReg_same h d v hd
  refine ⟨fun r => ⟨_, div_completes r, ?_⟩, fun r => ⟨_, rem_completes r, ?_⟩, fun r => ⟨_, divn_completes r, ?_⟩,
    fun r => ⟨_, remn_completes r, ?_⟩⟩
  all_goals rw [written]
  · refine ⟨fun zero => ?_, fun least negOne => ?_, fun negSeven two => ?_⟩
    · rw [zero, sdivZ_zero]
    · rw [least, negOne, sdivZ_intMin_neg_one]
    · rw [negSeven, two, sdivZ_neg_seven_two]
  · refine ⟨fun zero => ?_, fun least negOne => ?_, fun negSeven two => ?_⟩
    · rw [zero, sremZ_zero]
    · rw [least, negOne, sremZ_intMin_neg_one]
    · rw [negSeven, two, sremZ_neg_seven_two]
  · refine ⟨fun zero => ?_, fun big two => ?_⟩
    · rw [zero, udivZ_zero]
    · rw [big, two, udivZ_neg_seven_two]
  · refine ⟨fun zero => ?_, fun big two => ?_⟩
    · rw [zero, uremZ_zero]
    · rw [big, two, uremZ_neg_seven_two]

end Sys2Proof.Proofs
end

