-- ==== Sys2Proof/Proofs/IdleReductions.lean ====
section
/-! VRMIN and VRMAX with no element active (R155): the body of both meets its empty list of elements, writes no tag and
sends to sd the old sd or the identity of the operation, which is the value of R155's table. -/

namespace Sys2Proof.Proofs

open Sys2Proof Sys2Proof.Machine Sys2Proof.Laws Sys2Proof.Claims

/-! ## The result on its way -/

theorem later_eq_awaits (h : Hart) (d : Reg) (v : W64) : h.later d v = awaits h d v := by
  by_cases hd : d = 0
  · subst hd
    rfl
  · have hn : d.toNat ≠ 0 := fun e => hd (BitVec.eq_of_toNat_eq e)
    rw [Hart.later, Hart.empty, awaits, if_neg hd, if_neg hd, if_neg hn]
    rfl

/-- What a reduction delivers, in the words of the claims (R152). -/
theorem reduced_eq (s : State) (id : Nat) (h : Hart) (d : Reg) (empty : Bool) (r : Nat) (f : BitVec 6) :
    s.reduced id h d empty r f = .done (s.putHart id (reducedTo h f empty d (BitVec.ofNat 64 r))) := by
  rw [State.reduced, later_eq_awaits]
  rfl

/-! ## No element active -/

/-- Within VLMAX the elements an instruction takes are the active ones of R8. -/
theorem activeEls_eq_actives (s : State) {h : Hart} {g : Gang} (m : Mask) (hvl : h.vl ≤ h.vlmax g) :
    s.activeEls h g m = actives s h g m := by
  rw [State.activeEls, actives, Nat.min_eq_left hvl]
  refine List.filter_congr fun e he => ?_
  rw [active, decide_eq_true (List.mem_range.mp he), Bool.true_and]

/-- With no element to read, none is found empty. -/
theorem reduceOn_nil {s : State} {h : Hart} {g : Gang} {v : VForm} (raw : Bool) (body : List Nat → Res)
    (empty : s.activeEls h g v.m = []) : s.reduceOn h g v raw body = body [] := by
  simp only [State.reduceOn, empty, State.elsFull, State.elsFullRaw, List.all_nil, Bool.or_true, ite_self, if_true]

/-- VRMIN and VRMAX with no element active come to the old sd or the identity, and touch no row. -/
theorem extreme_nil {s : State} {h : Hart} {g : Gang} {v : VForm} (id : Nat) (max : Bool)
    (empty : s.activeEls h g v.m = []) :
    s.extreme id h g v max = s.reduced id h v.dReg true
      (if v.fnb 0 then (h.reg v.dReg).toNat
        else extendType v.ty (Fld.width v.A) (reduceIdentity v.ty (Fld.width v.A) max)) 0 := by
  rw [State.extreme, reduceOn_nil true _ empty]
  rfl

/-! ## Patterns of integers -/

theorem wrap_eq_toNat_ofInt (w : Nat) (i : Int) : wrap w i = (BitVec.ofInt w i).toNat := by
  rw [BitVec.toNat_ofInt, wrap]
  norm_cast

theorem ofNat_wrap (i : Int) : BitVec.ofNat 64 (wrap 64 i) = BitVec.ofInt 64 i := by
  rw [wrap_eq_toNat_ofInt, BitVec.ofNat_toNat, BitVec.setWidth_eq]

theorem sextNat_eq_toInt {w : Nat} (hw : 0 < w) (x : Nat) : sextNat w x = (BitVec.ofNat w x).toInt := by
  have hmsb : (BitVec.ofNat w x).msb = (x % 2 ^ w).testBit (w - 1) := by
    rw [BitVec.msb_eq_getLsbD_last, BitVec.getLsbD, BitVec.toNat_ofNat]
  rw [BitVec.toInt_eq_msb_cond, hmsb, BitVec.toNat_ofNat]
  simp only [sextNat, ne_eq, Nat.ne_of_gt hw, not_false_eq_true, true_and, Int.natCast_emod, Int.natCast_pow, Int.cast_ofNat_Int]

/-- A signed value in the range of its width is read back from its pattern. -/
theorem sextNat_wrap {w : Nat} (hw : 0 < w) {i : Int} (lo : loInt 1 w ≤ i) (hi : i ≤ hiInt 1 w) :
    sextNat w (wrap w i) = i := by
  rw [sextNat_eq_toInt hw, wrap_eq_toNat_ofInt, BitVec.ofNat_toNat, BitVec.setWidth_eq]
  exact BitVec.toInt_ofInt_eq_self hw lo (Int.lt_of_le_sub_one hi)

theorem loInt_le_hiInt (w : Nat) : loInt 1 w ≤ hiInt 1 w := by
  have pos : (0 : Int) < 2 ^ (w - 1) := Int.pow_pos (by decide)
  simp only [loInt, hiInt, if_true]
  omega

/-! ## The table of R155 -/

/-- The bound of a signed type that is the identity, extended to 64 bits. -/
theorem identity_signed {w : Nat} (hw : 0 < w) (max : Bool) :
    BitVec.ofNat 64 (extendType 1 w (reduceIdentity 1 w max)) = identity 1 w max := by
  have read : sextNat w (reduceIdentity 1 w max) = if max then loInt 1 w else hiInt 1 w := by
    cases max
    · exact sextNat_wrap hw (loInt_le_hiInt w) (Int.le_refl _)
    · exact sextNat_wrap hw (Int.le_refl _) (loInt_le_hiInt w)
  rw [extendType, if_pos rfl, read, ofNat_wrap]
  cases max <;> rfl

/-- The natural bounds 2^w - 1 and 0 are their own patterns. -/
theorem identity_natural (w : Nat) (max : Bool) :
    BitVec.ofNat 64 (extendType 0 w (reduceIdentity 0 w max)) = identity 0 w max := by
  cases max
  case true =>
    have zero : wrap w 0 = 0 := congrArg Int.toNat (Int.zero_emod _)
    exact congrArg (BitVec.ofNat 64) zero
  case false =>
    have full : wrap w (2 ^ w - 1) = 2 ^ w - 1 := by
      have pos : (0 : Int) < 2 ^ w := Int.pow_pos (by decide)
      rw [wrap, Int.emod_eq_of_lt (by omega) (by omega), Int.pred_toNat]
      norm_cast
    exact congrArg (BitVec.ofNat 64) full

/-- What sd receives for the identity of the operation is the value of R155's table, for every type of VRMIN and VRMAX. -/
theorem identity_eq {t w : Nat} (ht : t ≤ 6) (hw : 0 < w) (max : Bool) :
    BitVec.ofNat 64 (extendType t w (reduceIdentity t w max)) = identity t w max := by
  match t, ht with
  | 0, _ => exact identity_natural w max
  | 1, _ => exact identity_signed hw max
  | 2, _ | 3, _ | 4, _ | 5, _ | 6, _ => cases max <;> rfl

/-! ## VRMIN and VRMAX -/

theorem width_pos (f : BitVec 15) : 0 < Fld.width f := Nat.succ_pos _

theorem ty_le_six_of_vrminmax {v : VForm} (wf : Legal.vrminmax v = true) : v.ty ≤ 6 := by
  simp only [Legal.vrminmax, Bool.and_eq_true, decide_eq_true_eq] at wf
  obtain ⟨⟨⟨⟨⟨⟨⟨⟨-, hty⟩, -⟩, -⟩, -⟩, -⟩, -⟩, -⟩, -⟩ := wf
  exact hty

/-- The effect common to both, with no element active. -/
theorem extreme_idle {i : Instr} {s : State} {id : Nat} {h : Hart} {g : Gang} {v : VForm} (max : Bool)
    (r : Runs i s id h g) (ht : v.ty ≤ 6) (idle : actives s h g v.m = []) :
    s.extreme id h g v max = .done (s.putHart id (reducedTo h 0 true v.dReg
      (if v.fn4.getLsbD 0 then h.reg v.dReg else identity v.ty (Fld.width v.A) max))) := by
  obtain ⟨⟨-, -, -, -, -, -, -, -, -, -, -, -, hvl, -⟩, -⟩ := r
  have empty : s.activeEls h g v.m = [] := (activeEls_eq_actives s v.m hvl).trans idle
  have value : BitVec.ofNat 64 (if v.fnb 0 then (h.reg v.dReg).toNat
      else extendType v.ty (Fld.width v.A) (reduceIdentity v.ty (Fld.width v.A) max)) =
      if v.fn4.getLsbD 0 then h.reg v.dReg else identity v.ty (Fld.width v.A) max := by
    rw [apply_ite (BitVec.ofNat 64), BitVec.ofNat_toNat, BitVec.setWidth_eq, identity_eq ht (width_pos v.A) max]
    rfl
  rw [extreme_nil id max empty, reduced_eq, value]

theorem exec_vrmin (v : VForm) (s : State) :
    exec (.vrmin v) s = run (.vrmin v) (fun s id h g _ => s.extreme id h g v false) s := rfl

theorem exec_vrmax (v : VForm) (s : State) :
    exec (.vrmax v) s = run (.vrmax v) (fun s id h g _ => s.extreme id h g v true) s := rfl

theorem eq_of_extremeOf {i : Instr} {v : VForm} {max : Bool} (h : extremeOf i = some (v, max)) :
    (i = .vrmin v ∧ max = false) ∨ (i = .vrmax v ∧ max = true) := by
  unfold extremeOf at h
  split at h
  case h_1 =>
    cases h
    exact .inl ⟨rfl, rfl⟩
  case h_2 =>
    cases h
    exact .inr ⟨rfl, rfl⟩
  case h_3 => cases h

/-- Settles O18: the body VRMIN and VRMAX share has no element to mark and sends sd its old value or the identity. -/
theorem idleReductions : Obligations.IdleReductions := by
  unfold Obligations.IdleReductions
  intro i s id h g v max r wf which idle
  obtain ⟨rfl, rfl⟩ | ⟨rfl, rfl⟩ := eq_of_extremeOf which
  · exact (exec_vrmin v s).trans (run_done r (extreme_idle false r (ty_le_six_of_vrminmax wf) idle))
  · exact (exec_vrmax v s).trans (run_done r (extreme_idle true r (ty_le_six_of_vrminmax wf) idle))

end Sys2Proof.Proofs
end
